-- ==== Sys2Proof/Word.lean ====
section
/-! DEFINITION. The word types of the device: bytes, parcels, 64-bit words, 64-byte lines (R3, R18, R20, R214). -/

namespace Sys2Proof

/-- One byte. -/
abbrev Byte := BitVec 8

/-- One 16-bit instruction parcel (R20). -/
abbrev Parcel := BitVec 16

/-- One 64-bit word: a stack slot, a control register, a memory word (R17, R53). -/
abbrev Word := BitVec 64

/-- One 64-byte line, byte i in bits [8i+7:8i] (R3, R214). -/
abbrev Line := BitVec 512

/-- A device-unique tile number, q × 1024 + b × 16 + t (R7). -/
abbrev TileNo := Fin 20480

/-- A block number, q × 64 + b (R147). -/
abbrev BlockNo := Fin 1280

/-- A quarter number (R7). -/
abbrev QuarterNo := Fin 20

/-- A fabric port number (R11). -/
abbrev PortNo := Fin 18

/-- An edge die number: 0 for E0, 1 for E1, 2 for E2 (R11). -/
abbrev EdgeNo := Fin 3

/-- A partition id (R404). -/
abbrev PartNo := BitVec 6

/-- A device number (R196). -/
abbrev DevNo := BitVec 12

end Sys2Proof
end

