-- ==== Sys2Proof/Syntax.lean ====
section
/-! DEFINITION. The commands of the device: one constructor per row of the table of operations and events.
A tile instruction names the tile that issues it and carries the operand byte of its parcel (R20), or the part of
it that the row's own function code leaves open; an event names the unit it happens at and what the outside
decides about it. -/

namespace Sys2Proof

/-- Who writes a register: a tile, the Square in machine mode, the serial monitor acting for the Square, or the
host die through CXL.io (R197, R353, R371). -/
inductive Writer where
  | tile (t : TileNo)
  | square
  | monitor
  | host
  deriving DecidableEq, Repr

/-- A home with an operation unit of its own: an HBM4 stack's pseudo-channel or a DDR5 channel (R205). -/
inductive OpUnit where
  | hbm (q : QuarterNo) (pc : Fin 64)
  | ddr (c : Fin 24)
  deriving DecidableEq, Repr

/-- A street or avenue link: the unit numbers of KINDs 5 and 6 of R432. -/
inductive LinkName where
  | street (unit : Nat)
  | avenue (unit : Nat)
  deriving DecidableEq, Repr

/-- A flit on a link, by its number there (R298). -/
structure LinkFlit where
  link : LinkName
  flit : Nat
  deriving DecidableEq, Repr

/-- A permit unit: the activity's own unit number under R432 and R436, with the granter's quarter, or none for
the Square. -/
structure PermitUnit where
  quarter : Option QuarterNo
  unit    : Nat
  deriving DecidableEq, Repr

/-- The maintenance activities of R436, in code order. -/
inductive Activity where
  | sweep | patrol | spotM | spotL | spotT | hbmcal | retrain | clock | measure | flashw
  deriving DecidableEq, Repr

/-- A unit kind of R432 with its unit number. -/
structure SpotUnit where
  kind : BitVec 8
  unit : Nat
  deriving DecidableEq, Repr

/-- A partition descriptor (R418), without its reserved fields: `reserved` says whether any of them is non-zero. -/
structure PartDesc where
  part     : PartNo
  selfkey  : Bool
  vfexp    : Bool
  share    : Bool
  imgsrc   : Bool
  qmask    : BitVec 20
  bssize   : BitVec 5
  hbmgib   : BitVec 7
  ddrgib   : BitVec 13
  imgaddr  : BitVec 44
  imglen   : BitVec 27
  entry    : BitVec 32
  imgdig   : List Byte
  reserved : Bool
  deriving DecidableEq, Repr

/-- The header of a signed object, whether one of its reserved bits is set, and whether each of its signatures verifies under the
key that it names (R383, R384). -/
structure ObjHeader where
  magic   : BitVec 32
  type    : BitVec 8
  hver    : BitVec 8
  keyid   : BitVec 8
  bodylen : BitVec 32
  version : BitVec 64
  uid     : BitVec 64
  gen     : BitVec 64
  rsv     : Bool
  edOk    : Bool
  pqOk    : Bool
  deriving DecidableEq, Repr

/-- What the operating-class configuration record gives the device (R385, R461). -/
structure OpRecord where
  devnum     : DevNo
  /-- 0 WORKER, 1 SPARE, 2 MANAGER, 3 STANDBY (R354). -/
  role       : BitVec 3
  hostGib    : BitVec 11
  vfexp      : BitVec 64
  /-- The partitions that the record permits (R418). -/
  permitted  : BitVec 64
  /-- The boot descriptors that the record holds (R418). -/
  boot       : List PartDesc
  /-- Owner debug permitted by the owner-class record (R385). -/
  ownerDebug : Bool
  /-- The monitor's rate (R461). -/
  baud       : Nat := 115200
  deriving DecidableEq, Repr

/-- A floor plan record as a boot flash part holds it: its header with GEN, the time of its last change, the retired units, and RETLOG, newest
first (R383, R415). -/
structure PlanRecord where
  hdr    : ObjHeader
  time   : BitVec 64
  hbm    : BitVec 20
  ddr    : BitVec 24
  port   : BitVec 18
  lane   : BitVec 72
  ucie   : BitVec 4
  tiles  : List Nat
  stags  : List Nat
  banks  : List Nat
  retlog : List (BitVec 64 × BitVec 8 × Nat × BitVec 8)
  deriving DecidableEq, Repr

/-- A firmware image of a flash part: its manifest's header, and whether the images listed match their digests (R386). -/
structure FwImage where
  hdr       : ObjHeader
  digestsOk : Bool
  deriving DecidableEq, Repr

/-- The configuration records of a flash part: the headers of the owner-class and the operating-class record, and what they
give (R385, R386). -/
structure CfgRecords where
  owner : ObjHeader
  oper  : ObjHeader
  body  : OpRecord
  deriving DecidableEq, Repr

/-- What phase 1 of bring-up finds (R381, R386): which Squares recover their UDS, and the firmware image, the configuration
records and the floor plan record of flash parts A and B, where there is one. -/
structure BootFound where
  uds0   : Bool
  uds1   : Bool
  fwA    : Option FwImage
  fwB    : Option FwImage
  cfgA   : Option CfgRecords
  cfgB   : Option CfgRecords
  fpA    : Option PlanRecord
  fpB    : Option PlanRecord
  /-- The UID of the device (R382). -/
  uid    : BitVec 64
  deriving DecidableEq, Repr

/-- What phase 3 finds: the stacks and channels that failed training twice, the populated channels and the module
size in GiB, whether every module has one type, speed and capacity of R201, and the stack height (R202, R412). -/
structure MemFound where
  stackFail  : BitVec 20
  chanFail   : BitVec 24
  populated  : BitVec 24
  moduleGib  : BitVec 9
  uniform    : Bool
  tall       : Bool
  deriving DecidableEq, Repr

/-- A 256-byte fabric flit as received, with the outcome of the FEC and AUTH checks (R339, R342, R402). -/
structure Flit where
  type    : BitVec 2
  cls     : BitVec 2
  vc      : BitVec 3
  seq     : BitVec 12
  ackseq  : BitVec 12
  fpo     : BitVec 7
  rsv     : BitVec 10
  payload : List Byte
  fecOk   : Bool
  authOk  : Bool
  deriving DecidableEq, Repr

/-- A fabric packet: the 32-byte header of R344 and its data. -/
structure Packet where
  op     : BitVec 8
  len    : BitVec 9
  part   : PartNo
  sdev   : DevNo
  ddev   : DevNo
  hops   : BitVec 8
  addr   : BitVec 56
  epoch  : BitVec 32
  txid   : BitVec 24
  status : BitVec 8
  oparg  : Word
  /-- Whether a reserved header bit is set. -/
  rsv    : Bool
  data   : List Byte
  deriving DecidableEq, Repr

/-- The contents of a BEAT message (R340, R351). -/
structure BeatMsg where
  sport  : BitVec 8
  devnum : DevNo
  role   : BitVec 3
  curfew : Bool
  mepoch : BitVec 32
  tsend  : Word
  techo  : Word
  tback  : Word
  authOk : Bool
  deriving DecidableEq, Repr

/-- What a count of a port's second shows: bit errors before FEC, and codewords and symbols that the FEC has corrected (R343,
R353). -/
structure FecCount where
  bits : Nat
  cw   : Nat
  syms : Nat
  deriving DecidableEq, Repr

/-- A turn of a count at its home: the place of the count in its list, and how many further words of its range are read (R188). -/
structure CountTurn where
  place : Nat
  words : Nat
  deriving DecidableEq, Repr

/-- What a link-session handshake message shows the side that receives it (R400, R401). -/
structure Handshake where
  devnum  : DevNo
  sigOk   : Bool
  chainOk : Bool
  allowed : Bool
  deriving DecidableEq, Repr

/-- The effects that this manual gives a management message of the manager, and the reports that a member makes to it: a link
to a device fenced, its own curfew, its repair (R345, R352, R355, R357, R418, R441); the message formats themselves are another
manual's. -/
inductive MgmtBody where
  | member (dev : DevNo) (role : BitVec 3) (rank : BitVec 16) (state : BitVec 2) (mepoch : BitVec 32)
  | route (dev : DevNo) (entry : Word)
  | group (g : BitVec 16) (word : Fin 6) (value : Word)
  | partition (d : PartDesc)
  | partitionReset (p : PartNo)
  | partitionDestroy (p : PartNo)
  | deviceReset
  | heartbeat
  | takeover (dev : DevNo) (mepoch : BitVec 32)
  | fenced (dev : DevNo)
  | curfewed
  | repaired
  | other
  deriving DecidableEq, Repr

/-- An exclusion as the manager decides it: the member, how many of its links were UP, and the new routing and registry entries of
the members (R355). -/
structure Exclusion where
  dev   : DevNo
  links : Nat
  news  : List (DevNo × MgmtBody)
  deriving DecidableEq, Repr

/-- Whether a message is a member's report to its manager. -/
def MgmtBody.isReport (m : MgmtBody) : Bool := m matches .fenced _ | .curfewed | .repaired

/-- Whether a message gives a routing entry or a word of a group entry (R355). -/
def isEntry (m : MgmtBody) : Bool := m matches .route .. | .group ..

/-- A debug unlock token as received: its header and the fields of its body, with whether a reserved one is set (R408). -/
structure Token where
  hdr      : ObjHeader
  uid      : Word
  nonce    : Word
  mem      : Bool
  ctl      : Bool
  trace    : Bool
  fw       : Bool
  reserved : Bool
  deriving DecidableEq, Repr

/-- A KX_INIT message (R393, R394): the partition, and whether the encapsulation key and the shared secret pass
their checks. -/
structure KxInit where
  part   : BitVec 8
  formOk : Bool
  deriving DecidableEq, Repr

/-- The `log` command's choice: the Square's device log, a quarter's error log or an edge die's (R464). -/
inductive LogName where
  | square
  | quarter (q : QuarterNo)
  | edge (e : EdgeNo)
  deriving DecidableEq, Repr

/-- The commands. -/
inductive Instr where
  -- core instructions (R31): tile, operand byte
  | nop (t : TileNo) (b : Byte)
  | lit8 (t : TileNo) (b : Byte)
  | lit16 (t : TileNo) (b : Byte) (data : Parcel)
  | lit64 (t : TileNo) (b : Byte) (data : Word)
  | dup (t : TileNo) (b : Byte)
  | drop (t : TileNo) (b : Byte)
  | swap (t : TileNo) (b : Byte)
  | over (t : TileNo) (b : Byte)
  | rot (t : TileNo) (b : Byte)
  | nip (t : TileNo) (b : Byte)
  | tuck (t : TileNo) (b : Byte)
  | pick (t : TileNo) (b : Byte)
  | put (t : TileNo) (b : Byte)
  | dropn (t : TileNo) (b : Byte)
  | tor (t : TileNo) (b : Byte)
  | fromr (t : TileNo) (b : Byte)
  | rcopy (t : TileNo) (b : Byte)
  | add (t : TileNo) (b : Byte)
  | sub (t : TileNo) (b : Byte)
  | and (t : TileNo) (b : Byte)
  | or (t : TileNo) (b : Byte)
  | xor (t : TileNo) (b : Byte)
  | not (t : TileNo) (b : Byte)
  | neg (t : TileNo) (b : Byte)
  | addi (t : TileNo) (b : Byte)
  | shl (t : TileNo) (b : Byte)
  | shr (t : TileNo) (b : Byte)
  | sar (t : TileNo) (b : Byte)
  | rol (t : TileNo) (b : Byte)
  | shli (t : TileNo) (b : Byte)
  | shri (t : TileNo) (b : Byte)
  | sari (t : TileNo) (b : Byte)
  | min (t : TileNo) (b : Byte)
  | max (t : TileNo) (b : Byte)
  | minu (t : TileNo) (b : Byte)
  | maxu (t : TileNo) (b : Byte)
  | clz (t : TileNo) (b : Byte)
  | ctz (t : TileNo) (b : Byte)
  | popc (t : TileNo) (b : Byte)
  | sext (t : TileNo) (b : Byte)
  | zext (t : TileNo) (b : Byte)
  | sel (t : TileNo) (b : Byte)
  | eq (t : TileNo) (b : Byte)
  | ne (t : TileNo) (b : Byte)
  | lt (t : TileNo) (b : Byte)
  | ltu (t : TileNo) (b : Byte)
  | le (t : TileNo) (b : Byte)
  | leu (t : TileNo) (b : Byte)
  | zeq (t : TileNo) (b : Byte)
  | zlt (t : TileNo) (b : Byte)
  | mul (t : TileNo) (b : Byte)
  | mulh (t : TileNo) (b : Byte)
  | mulhu (t : TileNo) (b : Byte)
  | div (t : TileNo) (b : Byte)
  | divu (t : TileNo) (b : Byte)
  | rem (t : TileNo) (b : Byte)
  | remu (t : TileNo) (b : Byte)
  | ldb (t : TileNo) (b : Byte)
  | ldbu (t : TileNo) (b : Byte)
  | ldh (t : TileNo) (b : Byte)
  | ldhu (t : TileNo) (b : Byte)
  | ldw (t : TileNo) (b : Byte)
  | ldwu (t : TileNo) (b : Byte)
  | ldd (t : TileNo) (b : Byte)
  | stb (t : TileNo) (b : Byte)
  | sth (t : TileNo) (b : Byte)
  | stw (t : TileNo) (b : Byte)
  | std (t : TileNo) (b : Byte)
  | gld (t : TileNo) (b : Byte)
  | glda (t : TileNo) (b : Byte)
  | gtake (t : TileNo) (b : Byte)
  | gst (t : TileNo) (b : Byte)
  | gldb (t : TileNo) (b : Byte)
  | gfill (t : TileNo) (b : Byte)
  | aadd (t : TileNo) (b : Byte)
  | acas (t : TileNo) (b : Byte)
  | mcmp (t : TileNo) (b : Byte)
  | mcnt (t : TileNo) (b : Byte)
  | mrcnt (t : TileNo) (b : Byte)
  | mrcntm (t : TileNo) (b : Byte)
  | waitm (t : TileNo) (b : Byte)
  | rel (t : TileNo) (b : Byte)
  | acq (t : TileNo) (b : Byte)
  | fenceg (t : TileNo) (b : Byte)
  | cinv (t : TileNo) (b : Byte)
  | icinv (t : TileNo) (b : Byte)
  | br (t : TileNo) (b : Byte)
  | bz (t : TileNo) (b : Byte)
  | bnz (t : TileNo) (b : Byte)
  | call (t : TileNo) (b : Byte)
  | jmp (t : TileNo) (b : Byte)
  | calli (t : TileNo) (b : Byte)
  | ret (t : TileNo) (b : Byte)
  | loop (t : TileNo) (b : Byte)
  | sys (t : TileNo) (b : Byte)
  | brk (t : TileNo) (b : Byte)
  | eret (t : TileNo) (b : Byte)
  | setm (t : TileNo) (b : Byte)
  | hold (t : TileNo) (b : Byte)
  | crd (t : TileNo) (b : Byte)
  | cwr (t : TileNo) (b : Byte)
  -- annex opcodes (R23): tile, the opcode's low two bits, operand byte
  | annexSink (t : TileNo) (o : BitVec 2) (b : Byte)
  | annexUnary (t : TileNo) (o : BitVec 2) (b : Byte)
  | annexBinary (t : TileNo) (o : BitVec 2) (b : Byte)
  | annexTernary (t : TileNo) (o : BitVec 2) (b : Byte)
  -- core events
  | resultLands (t : TileNo)
  | fetchGroupArrives (t : TileNo)
  | impreciseExceptionEntry (t : TileNo)
  | interruptEntry (t : TileNo)
  | timerMatch (t : TileNo)
  | holdExpiry (t : TileNo)
  | waitTimeout (t : TileNo)
  | release (t : TileNo) (pc : BitVec 56)
  -- global memory events; n is a place in the list that the event's meaning names
  | loadValueArrives (t : TileNo) (n : Nat)
  | lineFillArrives (t : TileNo) (n : Nat)
  | mbDrainTimer (t : TileNo) (n : Nat)
  | mbEntrySent (t : TileNo)
  | writeAckArrives (t : TileNo) (id : Nat)
  | globalReadAtHome (id : Nat)
  | globalWriteAtHome (id : Nat)
  | operationAtHome (id : Nat)
  | watchPlaced (t : TileNo)
  | watchReplyArrives (t : TileNo)
  | watchReread (t : TileNo)
  | rangeCountAtHome (t : TileNo) (c : CountTurn)
  | rangeCountArrives (t : TileNo)
  | gldbLineArrives (t : TileNo)
  | opBufferWriteback (u : OpUnit) (line : BitVec 38)
  | tlbMissWalk (t : TileNo)
  | walkComplete (q : QuarterNo) (n : Nat)
  | xlinvAll (w : Writer) (q : QuarterNo)
  | xlinvVa (w : Writer) (q : QuarterNo) (va : BitVec 56)
  | xlinvComplete (q : QuarterNo)
  -- vector unit (R118)
  | vld (t : TileNo) (b : Byte)
  | vst (t : TileNo) (b : Byte)
  | vgather (t : TileNo) (b : Byte)
  | vscatter (t : TileNo) (b : Byte)
  | vscatterWrite (t : TileNo)
  | vdup (t : TileNo) (b : BitVec 5)
  | vdrop (t : TileNo) (b : BitVec 5)
  | vswap (t : TileNo) (b : BitVec 5)
  | vover (t : TileNo) (b : BitVec 5)
  | vrot (t : TileNo) (b : BitVec 5)
  | vnip (t : TileNo) (b : BitVec 5)
  | vsplat (t : TileNo) (b : Byte)
  | vpull (t : TileNo) (b : Byte)
  | vins (t : TileNo) (b : Byte)
  | vadd (t : TileNo) (b : Byte)
  | vsub (t : TileNo) (b : Byte)
  | vmul (t : TileNo) (b : Byte)
  | vfma (t : TileNo) (b : Byte)
  | vminmax (t : TileNo) (b : Byte)
  | vcmp (t : TileNo) (b : Byte)
  | vsel (t : TileNo) (b : Byte)
  | vlogic (t : TileNo) (b : Byte)
  | vshift (t : TileNo) (b : Byte)
  | vcvt (t : TileNo) (b : Byte)
  | vred (t : TileNo) (b : Byte)
  | vshuf (t : TileNo) (b : Byte)
  | vslide (t : TileNo) (b : Byte)
  | vunary (t : TileNo) (b : Byte)
  | vcopy (t : TileNo) (b : Byte)
  | vfill (t : TileNo) (b : Byte)
  | vstat (t : TileNo) (b : Byte)
  | vdot4 (t : TileNo) (b : Byte)
  | vdiv (t : TileNo) (b : Byte)
  -- tile matrix unit (R130)
  | tcfg (t : TileNo) (b : Byte)
  | tcfgr (t : TileNo) (b : Byte)
  | tload (t : TileNo) (b : Byte)
  | tstore (t : TileNo) (b : Byte)
  | tmma (t : TileNo) (b : Byte)
  | tpull (t : TileNo) (b : Byte)
  | tsta (t : TileNo) (b : Byte)
  | tlda (t : TileNo) (b : Byte)
  | tstat (t : TileNo) (b : Byte)
  | tvec (t : TileNo) (b : Byte)
  | tmmaStart (t : TileNo)
  | tmmaFinish (t : TileNo)
  | tloadRowArrives (t : TileNo)
  -- stag (R144)
  | sgo (t : TileNo) (b : Byte)
  | sstat (t : TileNo) (b : Byte)
  | sctr (t : TileNo) (b : Byte)
  | sctrclr (t : TileNo) (b : Byte)
  | scancel (t : TileNo) (b : Byte)
  | stagCommandStart (k : BlockNo)
  | stagPassBoundary (k : BlockNo)
  | stag16bitOverflow (k : BlockNo)
  | stagOutputTileDone (k : BlockNo)
  | stagCommandComplete (k : BlockNo)
  | stagDataError (k : BlockNo)
  | stagPreempt (k : BlockNo) (row : BitVec 16)
  | stagResume (k : BlockNo)
  -- block DMA (R248)
  | dmago (t : TileNo) (b : Byte)
  | waitd (t : TileNo) (b : Byte)
  | dmastop (t : TileNo) (b : Byte)
  | dmastat (t : TileNo) (b : Byte)
  | dmaack (t : TileNo) (b : Byte)
  | dmactr (t : TileNo) (b : Byte)
  | dmactrclr (t : TileNo) (b : Byte)
  | descriptorStart (k : BlockNo) (ch : Fin 16)
  | transferIssue (k : BlockNo) (ch : Fin 16)
  | transferComplete (k : BlockNo) (n : Nat)
  | descriptorComplete (k : BlockNo) (ch : Fin 16)
  | ringConsReread (k : BlockNo) (ch : Fin 16)
  -- queues and tallies (R273, R283)
  | send (t : TileNo) (b : Byte)
  | sendt (t : TileNo) (b : Byte)
  | sendc (t : TileNo) (b : Byte)
  | recv (t : TileNo) (b : Byte)
  | select (t : TileNo) (b : Byte)
  | qopen (t : TileNo) (b : BitVec 5)
  | qclose (t : TileNo) (b : BitVec 5)
  | qstat (t : TileNo) (b : BitVec 5)
  | qimask (t : TileNo) (b : BitVec 5)
  | messageArrives (id : Nat)
  | messageAnswerArrives (id : Nat)
  | sendResend (id : Nat)
  | reservationLapse (t : TileNo) (q : Fin 8)
  | tadd (t : TileNo) (b : BitVec 6)
  | tsub (t : TileNo) (b : BitVec 6)
  | tread (t : TileNo) (b : BitVec 6)
  | tevts (t : TileNo) (b : BitVec 6)
  | waitt (t : TileNo) (b : Byte)
  | tallyCycle (k : BlockNo) (i : Fin 64) (arrived : List Nat)
  | tallyWatchRetry (t : TileNo)
  | waittReplyArrives (t : TileNo)
  | gridlockFire (q : QuarterNo)
  -- roads (R298 to R307)
  | linkCrcResend (l : LinkFlit)
  | multicastWrite (w : Writer) (q : QuarterNo) (g : Fin 64) (o : BitVec 25) (data : List Byte)
  | reductionInjectWrite (w : Writer) (q : QuarterNo) (i : BitVec 12) (o : BitVec 15) (data : List Byte)
  | reductionCombine (a b : Nat)
  | reductionLand (n : Nat)
  | rtexpWrite (w : Writer) (q : QuarterNo) (i : BitVec 12) (v : Word)
  | nelemWrite (w : Writer) (e : EdgeNo) (g : BitVec 10) (v : Word)
  -- Hive (R324)
  | hnew (t : TileNo) (b : Byte)
  | hset (t : TileNo) (b : Byte)
  | hget (t : TileNo) (b : Byte)
  | hcellAppend (t : TileNo) (b : BitVec 6)
  | hcellEntry (t : TileNo) (b : BitVec 6)
  | hcellRelease (t : TileNo) (b : BitVec 6)
  | hdone (t : TileNo) (b : Byte)
  | hbeat (t : TileNo) (b : Byte)
  | hfree (t : TileNo) (b : Byte)
  | hadopt (t : TileNo) (b : Byte)
  | hiveEnable (w : Writer) (q : QuarterNo) (p : PartNo) (v : Word)
  | hiveReady (q : QuarterNo) (p : PartNo)
  | cellMoveComplete (q : QuarterNo) (n : Nat)
  | intakeWatchFires (q : QuarterNo) (p : PartNo)
  | intakeNew (q : QuarterNo) (p : PartNo)
  | intakeReady (q : QuarterNo) (p : PartNo)
  | intakePause (q : QuarterNo) (p : PartNo)
  | intakeFinish (q : QuarterNo) (p : PartNo)
  | intakeFree (q : QuarterNo) (p : PartNo)
  | intakeDeadline (q : QuarterNo) (p : PartNo)
  | intakeConsAdvance (q : QuarterNo) (p : PartNo)
  | mirrorHeaderWrite (q : QuarterNo) (p : PartNo)
  -- fabric ports (R337 to R363)
  | portTrainingDone (p : PortNo)
  | qualifyCountEnd (p : PortNo) (c : FecCount)
  | errorCountEnd (p : PortNo) (c : FecCount)
  | dataFlit (p : PortNo) (f : Flit)
  | beat (p : PortNo) (m : BeatMsg)
  | nak (p : PortNo) (seq : BitVec 12)
  | credit (p : PortNo) (freed : List Byte)
  | retrain (p : PortNo)
  | hello (p : PortNo) (h : Handshake)
  | reply (p : PortNo) (h : Handshake)
  | fin (p : PortNo) (h : Handshake)
  | beatSend (p : PortNo)
  | creditSend (p : PortNo)
  | beatTimeout (p : PortNo)
  | admitPort (w : Writer) (p : PortNo)
  | violationRateFence (p : PortNo)
  | switchForward (e : EdgeNo) (n : Nat)
  | fabricRead (n : Nat)
  | fabricWrite (n : Nat)
  | fabricAadd (n : Nat)
  | fabricAcas (n : Nat)
  | fabricMcmp (n : Nat)
  | fabricMcnt (n : Nat)
  | fabricWatch (n : Nat)
  | fabricCount (c : CountTurn)
  | fabricPartial (n : Nat)
  | fabricReturn (n : Nat)
  | fabricUnwatch (n : Nat)
  | fabricData (n : Nat)
  | fabricAck (n : Nat)
  | fabricOld (n : Nat)
  | fabricFired (n : Nat)
  | fabricTotal (n : Nat)
  | mgmt (n : Nat) (sdev : DevNo) (m : MgmtBody)
  | transactionTimeout (txid : BitVec 24)
  | managerExclude (x : Exclusion)
  | mgmtHeartbeat
  | managerTakeover
  -- host die link (R364 to R378)
  | cxlMemRead (dpa : BitVec 43)
  | cxlMemWrite (dpa : BitVec 43) (be : BitVec 64) (data : Line)
  | cxlIoRead (fn : Fin 65) (off : BitVec 17)
  | cxlIoWrite (fn : Fin 65) (off : BitVec 17) (v : Word)
  | hmsi (w : Writer) (q : QuarterNo) (p : PartNo) (v : Word)
  | vectorUnmask (p : PartNo) (vec : BitVec 6)
  | identifyMemoryDevice
  | getSupportedLogs
  | getLog
  | getHealthInfo
  | getEventRecords
  | clearEventRecords
  | unsupportedMailbox (opcode : BitVec 16)
  | getVersion
  | getCapabilities
  | negotiateAlgorithms
  | getDigests
  | getCertificate (slot : BitVec 8)
  | challenge (slot : BitVec 8) (nonce : List Byte)
  | getMeasurements (block : BitVec 8) (nonce : List Byte)
  | pqmode (mode : BitVec 8)
  | getPqsig
  | kxInit (m : KxInit)
  | kxFin (part : BitVec 8) (confirms : Bool)
  | ucieModuleFail (m : Fin 4)
  -- module, bring-up, partitions, resets
  | powerGood
  | shutdown (millivolt : Nat)
  | supplyExcursion (millivolt : Nat)
  | resetPin
  | phaseSquareEnd (f : BootFound)
  | phaseClocksEnd
  | phaseMemoryTrainingEnd (f : MemFound)
  | phaseTestEnd (tiles stags banks : List Nat)
  | phaseLinksEnd (ucie : BitVec 4) (badLanes : List Nat)
  | phaseComputeEnd (tiles stags : List Nat)
  | partitionDescriptor (d : PartDesc) (img : List Byte) (imgOk : Bool)
  | partitionDestroy (p : PartNo)
  | timeSliceSwitch (p r : PartNo)
  | treset (w : Writer) (q : QuarterNo) (v : Word)
  | breset (w : Writer) (q : QuarterNo) (v : Word)
  | preset (w : Writer) (q : QuarterNo) (v : Word)
  | resetRepliesDrained (q : QuarterNo)
  -- faults and recovery
  | spotTestStart (u : SpotUnit)
  | spotTestEnd (u : SpotUnit) (pass : Bool)
  | floorPlanWriteDone
  | controlEntryRewrite (entry : Nat)
  | permitGrant (u : PermitUnit)
  | measureCheck (same : Bool)
  | squareHeartbeat (heard0 heard1 : BitVec 20) (standbyHears : Bool)
  | quorumLoss
  | squareTakeover
  -- clocks, power, temperature
  | thermalSample (q : QuarterNo) (tj thbm : Byte)
  | powerSample (watt : Nat)
  | opStepEnd (q : QuarterNo)
  | opStepUpTimer (q : QuarterNo)
  | qclkReq (w : Writer) (q : QuarterNo) (v : Word)
  | blockGate (k : BlockNo)
  | blockWake (k : BlockNo)
  | tpark (w : Writer) (t : TileNo) (v : Word)
  | tilePark (t : TileNo)
  | tileWake (t : TileNo)
  | pllOff (q : QuarterNo)
  | pllLock (q : QuarterNo)
  | selfRefreshEntry (u : OpUnit)
  | patrolBurst (u : OpUnit)
  | sweeperAccess (k : BlockNo)
  | sweeperForcedAccess (k : BlockNo)
  | hbmPatrol (q : QuarterNo)
  | ddr5Patrol (c : Fin 24)
  | coolantSample (flow inlet outlet : Nat)
  | moduleInsertion (cage : Fin 9)
  | moduleRemoval (cage : Fin 9)
  -- the serial monitor (R461 to R468)
  | info
  | floor (q : Option QuarterNo)
  | log (l : LogName) (count : Nat)
  | links
  | temps
  | permits (q : Option QuarterNo)
  | queue (t : TileNo) (k : Fin 8)
  | tally (k : BlockNo) (i : Fin 64)
  | tallyClr (k : BlockNo) (i : Fin 64)
  | peek (a : BitVec 44) (size : Nat)
  | poke (a : BitVec 44) (size : Nat) (v : Word)
  | dump (a : BitVec 44) (len : Nat)
  | spot (u : SpotUnit)
  | unlock
  | unlockToken (n : Nat) (tok : Token)
  | recover (part : Option Bool) (n : Nat)
  | recoverReset
  | dataLine (bytes : List Byte) (sum : Byte) (imageOk : Bool)
  | unknownCommand
  | overlongLine
  | abortCharacter
  -- SMBus and PMBus (R483)
  | fruRead (a : Byte)
  | smbBootstat
  | smbUid
  | smbTemperatures
  | smbInputPower
  | smbCoolant
  | readVin
  | readIin
  | readPin
  | readTemperature1
  | statusWord
  | pmbusWrite (cmd : Byte)
  -- the last rows of the table
  | trctlWrite (w : Writer) (k : BlockNo) (v : Word)
  | registerWrite (w : Writer) (a : BitVec 44) (size : Nat) (v : Word)
  | unassignedOpcode (t : TileNo) (p : Parcel)
  | resetPinRises
  | traceIssueSample (k : BlockNo)
  | configurationSpaceWrite (fn : Fin 65) (vfen msixen : Bool)
  | hbmRefreshRecalibration (q : QuarterNo)
  | memoryInterfaceRetrain (u : OpUnit)
  | noSignalTimeout (p : PortNo)
  | edgeDieThermalLimit (e : EdgeNo)
  deriving DecidableEq, Repr

end Sys2Proof
end

