-- ==== Sys2Proof/Decode.lean ====
section
/-! DEFINITION. The reading of a command from the bits of a table row. The table of operations and events gives no
row any bits: the tile instructions are named there by their opcodes' rows and the events have no encoding, so no
word spells a command. -/

namespace Sys2Proof

/-- The command that an `nbits`-bit word spells by the table's own bits: none, since no row has bits. -/
def decodeTableWord (_nbits _w : Nat) : Option Instr := none

end Sys2Proof
end

