-- ==== Sys2Proof/Config.lean ====
section
/-! DEFINITION. The values that the spec leaves open: opaque constants, of which nothing is known. -/

namespace Sys2Proof.Config

/-- A word whose value the spec does not give, by the number of the occasion. -/
opaque free : Nat → Word

/-- A byte of an HBM4 line that is read under a key it was not written with, by the serial of the key change and the
byte's address (R399). -/
opaque staleByte : Nat → Nat → Byte

/-- The hash of SDEV and ADDR[55:6] by which a switch picks among the usable alternatives of a route (R348). -/
opaque routeHash : Nat → Nat → Nat

/-- The bytes of a cryptographic object, by what it covers: certificates, digests, measurements, signatures and public
keys (R379 to R397). -/
opaque crypto : Nat → Nat → Nat → Word

/-- What a register of CXL 3.1 or PCIe on the host link reads as, by its offset, the word last written there and the
Media Status that the Square has set (R367, R369, R414): their formats are those standards'. -/
opaque cxlRegister : Nat → Nat → Word → Bool → Word

/-- A byte of the FRU EEPROM: the device's own ordering code, serial number, stepping and date (R483). -/
opaque fruByte : Nat → Byte

/-- Whether a log has room for an entry that comes within 15 ns of another, by the log, its entries so far and those it has
lost (R407). -/
opaque logged : Nat → Nat → Nat → Bool

/-- The cycles for which a tile freezes before it issues or enters for the n-th time: fetches, misses and straddled groups
(R21, R37, R58). -/
opaque freeze : Nat → Nat → Nat

/-- Which register of the Square's in a tile's window stops or starts the tile's issue: by the offset in the window and the value
written, true to start, false to stop. The spec gives the registers no offsets (R62, R74). -/
opaque tileRun : Nat → Nat → Option Bool

/-- The word of a tile's architectural state that the Square reads at an offset of the tile's window: a data slot from 0, a
return slot from 32, D, RD and PC from 48, a load slot from 56, a control register from 64 (R17, R62). -/
opaque tileView : Nat → Option Nat

/-- The stepping: B1 or B0 (R389, R415, R483). -/
opaque stepB1 : Bool

/-- What a whole handshake message shows the side that receives it: bits 11 to 0 the DEVNUM, then whether its signatures
verify, whether its chain reaches the Bexgon root, and whether the allow list and the routing plan admit the peer (R400,
R401). -/
opaque handshakeShows : List (BitVec 8) → BitVec 15

/-- The bytes of a handshake message that a port sends, by the port, the step and the occasion (R400). -/
opaque handshakeBytes : Nat → Nat → Nat → List (BitVec 8)

/-- The device that the routing plan expects on a port (R401). -/
opaque planPeer : Nat → BitVec 12

/-- A parcel of code that the device's own memory does not hold, as a LOOP reads it, by the occasion and its city address
(R40). -/
opaque remoteParcel : Nat → Nat → BitVec 16

end Sys2Proof.Config
end

