-- ==== Sys2Proof/Machine/State.lean ====
section
/-! DEFINITION. The state of the device as plain data: every register, store, queue, buffer, counter and mode the
spec names, the queue of commands that wait, and the state after reset. Units that stand at their reset value are
not listed: a table of units is a list of (number, record) pairs with rising numbers, and a number it does not list
has the record after reset. -/

namespace Sys2Proof.Machine

/-- A table of units by number, rising, where an unlisted number holds the record after reset. -/
abbrev Tab (α : Type) := List (Nat × α)

/-! ## The tile core (R17) -/

/-- Where a result in flight lands (R26): a data-stack slot, a vector-stack slot, the bytes of a
VSCATTER's lanes by tile memory offset, or nowhere, for the flags of an instruction. -/
inductive Landing where
  | data (slot : Nat) (v : Word)
  | vec (slot : Nat) (v : Line)
  | scatter (lanes : List (Nat × List Byte))
  | flagsOnly
  deriving DecidableEq, Repr

/-- A result in flight: its place in issue order, the instructions that must still issue before it lands, where it
lands, the FCSR flags it sets, the imprecise exception its landing raises (R65) and the address of its producer. -/
structure Flight where
  ord   : Nat
  rem   : Nat
  dest  : Landing
  flags : BitVec 7
  exc   : Option Byte
  pc    : BitVec 56
  deriving DecidableEq, Repr

/-- A resolved branch whose delay slot has not issued (R35, R36). `follow` says that the target is the address after
the delay slot, and `link` names the return-stack slot that a CALL gave that address; both stand at the address
after a one-parcel delay slot until the delay-slot instruction shows its length. `lctl` is LCTL as it stood when the
branch issued, by which a delay slot that ends a loop body is told (R40). -/
structure Branch where
  pc     : BitVec 56
  target : BitVec 56
  follow : Bool
  link   : Option Nat
  lctl   : Word
  deriving DecidableEq, Repr

/-- A control-register write that takes effect after `rem` further instructions (R52). -/
structure PendingCwr where
  index : Byte
  value : Word
  rem   : Nat
  deriving DecidableEq, Repr

/-- What a tile is doing with its instruction stream. `walk` holds an instruction whose access missed the TLB
(R211), `wait` a waiting instruction (R46, R133), `long` a long instruction (R49) or a TLOAD or TSTORE; each keeps
the instruction's opcode and operand byte. -/
inductive Doing where
  | issue
  | walk (opc opb : Byte) (va : Word) (kind : BitVec 2) (sent : Bool)
  | wait (opc opb : Byte)
  | long (opc opb : Byte)
  deriving DecidableEq, Repr

/-- Whether the tile may run: never released since its reset, released, stopped by the Square, or stopped by a
double fault or an uncorrectable register (R62, R74, R429). -/
inductive Run where
  | unreleased | running | stopped | halted
  deriving DecidableEq, Repr

/-- The control registers that hold a value of their own (R53 to R59, R492). DEPTH, IPEND's level sources, ISAVER
and TILEID are computed by their accessors. -/
structure Ctl where
  status   : Word
  epc      : BitVec 56
  ecause   : Word
  eval     : Word
  evec     : Word
  escr0    : Word
  escr1    : Word
  stklim   : Word
  lc0      : Word
  lc1      : Word
  la0      : BitVec 56
  la1      : BitVec 56
  lctl     : Word
  fcsr     : Word
  waitlim  : Word
  holdlim  : Word
  ien      : Word
  /-- The stored IPEND bit SQUARE (5); the other sources are levels (R58). -/
  ipend    : Word
  tcmp     : Word
  errpend  : Word
  cachectl : Word
  qsel     : Word
  tstart   : Word
  deriving DecidableEq, Repr

/-- The scalar core of a tile. -/
structure Core where
  ds     : Vector Word 32
  d      : Nat
  rs     : Vector Word 16
  rd     : Nat
  pc     : BitVec 56
  flight : List Flight
  branch : Option Branch
  /-- SETM shadow: instructions left, old mode, new mode (R51). -/
  shLeft : Nat
  shOld  : BitVec 2
  shNew  : BitVec 2
  cwrs   : List PendingCwr
  /-- The value of CYCLE at which the open HOLD window expires (R82). -/
  hold   : Option Word
  /-- The pending imprecise exception: code, producer and the producer's place in issue order (R65). -/
  impr   : Option (Byte × BitVec 56 × Nat)
  /-- Instructions issued and exceptions taken since reset: numbers the producers of results in flight. -/
  issued : Nat
  doing  : Doing
  run    : Run
  /-- CYCLE, less the cycles its quarter's clock has counted (R58). -/
  cycle  : Word
  deriving DecidableEq, Repr

/-! ## Global memory access of a tile -/

/-- A load slot (R42): the va or object that EVAL names, how the arriving bytes become a value, the bytes that
forwarding has fixed (R226), the line fill that it has joined (R216), and the value once it has arrived. -/
structure Slot where
  id     : Nat
  fill   : Option Nat
  va     : Word
  size   : Nat
  zext   : Bool
  fwdMask : Byte
  fwd    : Word
  val    : Option Word
  poison : Bool
  pc     : BitVec 56
  deriving DecidableEq, Repr

/-- A merging-buffer entry (R217): one 64-byte line of a city address with a byte mask, whether it may merge, the mode of
its first store, and the words that hold an uncorrectable error (R429). -/
structure MbEntry where
  line   : Nat
  mask   : BitVec 64
  data   : Line
  seq    : Nat
  relE   : Nat
  fenE   : Nat
  drain  : Bool
  plain  : Bool
  user   : Bool
  bad    : Byte := 0
  deriving DecidableEq, Repr

/-- A TLB entry (R210): partition, virtual page number and size, the page's city address, permission bits, and whether it
holds an uncorrectable error (R429). -/
structure TlbEntry where
  part : PartNo
  big  : Bool
  page : Nat
  city : Nat
  r    : Bool
  w    : Bool
  x    : Bool
  u    : Bool
  nc   : Bool
  bad  : Bool := false
  deriving DecidableEq, Repr

/-- A cache line: its city line number and contents (R214, R221), and whether it holds an uncorrectable error (R429). A cache is
a list, most recently used first. -/
structure CacheLine where
  line : Nat
  data : Line
  bad  : Bool := false
  deriving DecidableEq, Repr

/-- The global access side of a tile: load slots, merging buffer, TLB and caches, the counters that number its
accesses and its ordering instructions (R226, R231 to R235). -/
structure GMem where
  slots  : List Slot
  mb     : List MbEntry
  tlb    : List TlbEntry
  dcache : List CacheLine
  icache : List CacheLine
  seq    : Nat
  relE   : Nat
  acqE   : Nat
  fenE   : Nat
  deriving DecidableEq, Repr

/-! ## Vector unit and TMU (R114, R128) -/

/-- The vector unit. `port` counts the instructions for which a VGATHER or VSCATTER still occupies the port. -/
structure Vec where
  vs   : Vector Line 8
  vd   : Nat
  port : Nat
  deriving DecidableEq, Repr

/-- A TMMA in the array queue: its place in issue order, its TCFG copy, registers, Z and address (R131, R134). -/
structure Tmma where
  ord     : Nat
  cfg     : Word
  a       : BitVec 3
  b       : BitVec 3
  z       : Bool
  pc      : BitVec 56
  started : Bool
  deriving DecidableEq, Repr

/-- The tile matrix unit (R128). -/
structure Tmu where
  tr    : Vector (Vector Line 8) 8
  latch : Vector (Option Nat) 8
  acc   : Vector (BitVec 32) 64
  tcfg  : Word
  queue : List Tmma
  sat   : Bool
  deriving DecidableEq, Repr

/-! ## Receive queues of a tile (R267) -/

/-- A message held in a queue. -/
structure Message where
  len   : Nat
  src   : Nat
  part  : PartNo
  epoch : BitVec 32
  data  : Line
  deriving DecidableEq, Repr

/-- A receive queue (R267, R268, R272, R281). `resv` says that a free slot is reserved for the oldest waiter. -/
structure RQueue where
  isOpen  : Bool
  epoch   : BitVec 32
  msgs    : List Message
  drops   : BitVec 32
  stale   : BitVec 32
  waiters : List Nat
  resv    : Bool
  deriving DecidableEq, Repr

/-- A tile: everything of R17, R114, R128, R267, and its registers in the control space (R457, R469). -/
structure Tile where
  core   : Core
  ctl    : Ctl
  gmem   : GMem
  vec    : Vec
  tmu    : Tmu
  queues : Vector RQueue 8
  qimask : Byte
  /-- The tally-event mask (R285). -/
  tevts  : Word
  part   : PartNo
  park   : Bool
  parked : Bool
  wake   : BitVec 6
  lslot  : Bool
  /-- A value has come to a load slot since the tile parked (R457). -/
  came   : Bool
  pcsel  : Vector (BitVec 6) 8
  pcnt   : Vector Word 8
  /-- A reset of this tile waits for its last reply; whether it releases afterwards (R426). -/
  resetting : Option Bool
  /-- A stack, control or TMU register holds an uncorrectable error (R429). -/
  broken : Bool := false
  deriving DecidableEq, Repr

/-! ## Requests on the roads -/

/-- What a request asks of its home (R42 to R45, R185 to R188, R283, R490). A fill holds the bytes of the tile's own
stores that its line will be installed with (R226); a Hive operation holds its operands, its place in issue order and
address, and the imprecise exception that its result raises (R326). -/
inductive ReqKind where
  | load (size : Nat)
  | fill (prefetch : Bool) (mask : BitVec 64) (data : Line)
  | gldb (la : Nat)
  | row (r : Nat)
  | write (mask : BitVec 64) (data : Line)
  | aadd (x : Word)
  | acas (new cmp : Word)
  | mcmp (new cmp : Word)
  | mcnt (x : Word)
  | watch (x : Word)
  | count (va : Word) (val mask : Word)
  | tread
  | hive (opc opb : Byte) (ops : List Word) (ord : Nat) (pc : BitVec 56) (exc : Option Byte)
  deriving DecidableEq, Repr

/-- How far a request has come: held at the tile, on its way, part of a line fill under way, watching at its home, gone to
another device under a transaction, or answered. -/
inductive ReqState where
  | held
  | sent
  | joined (fill : Nat)
  | watching
  | remote (txid : BitVec 24)
  | done (data : Line) (poison : Bool)
  deriving DecidableEq, Repr

/-- How far a home has come with the count of a range: words read, those that match, and whether one was uncorrectable
(R188). -/
structure CountRun where
  got : Nat
  sum : Word
  bad : Bool
  deriving DecidableEq, Repr

/-- A count that has read nothing. -/
def CountRun.reset : CountRun := { got := 0, sum := 0, bad := false }

/-- A request of a tile: its place in the tile's program order and the ordering instructions before it. -/
structure Req where
  id    : Nat
  tile  : Nat
  kind  : ReqKind
  addr  : Nat
  slot  : Option Nat
  seq   : Nat
  relE  : Nat
  acqE  : Nat
  fenE  : Nat
  glda  : Bool
  /-- A fill that an invalidation has overtaken installs no line (R219, R233). -/
  noInstall : Bool
  /-- The page of the access is one of 1 GiB, so that a prefetch may go as far (R216). -/
  big   : Bool
  user  : Bool
  part  : PartNo
  epoch : BitVec 32
  st    : ReqState
  /-- A range count's progress at its home (R188). -/
  run   : CountRun := .reset
  /-- The words of a write that its merging-buffer entry held with an uncorrectable error (R429). -/
  bad   : Byte := 0
  deriving DecidableEq, Repr

/-- How a queue answers a message (R269). -/
inductive QAnswer where
  | delivered | discarded | refused
  deriving DecidableEq, Repr

/-- A send attempt of the send unit (R271, R275, R276): to be sent, answered with the answer on its way back, or
refused and to be resent. -/
inductive AttemptState where
  | waiting
  | flying (a : QAnswer)
  | refused
  deriving DecidableEq, Repr

/-- A message being sent: which instruction, its target queue-id, its contents and how far it has come; `acked` once
its first attempt has been answered (R231). -/
structure Attempt where
  id    : Nat
  tile  : Nat
  opc   : Byte
  qid   : Nat
  len   : Nat
  data  : Line
  slot  : Option Nat
  part  : PartNo
  epoch : BitVec 32
  seq   : Nat
  relE  : Nat
  fenE  : Nat
  acked : Bool
  st    : AttemptState
  deriving DecidableEq, Repr

/-- Who a tally operation comes from; a tile's names the instruction's place in issue order and its address. -/
inductive Party where
  | tile (t : Nat) (ord : Nat) (pc : BitVec 56)
  | stag
  | dma
  deriving DecidableEq, Repr

/-- An operation on its way to a tally (R284). -/
inductive TallyReq where
  | add (n : BitVec 32) (who : Party)
  | sub (n : BitVec 32) (who : Party)
  | wait (n : BitVec 32) (consume : Bool) (tile : Nat)
  | read (req : Nat)
  deriving DecidableEq, Repr

/-- A tally operation in flight, with the ordering that holds it (R231, R233, R235). -/
structure TallyOp where
  id   : Nat
  i    : Nat
  tile : Option Nat
  relE : Nat
  acqE : Nat
  fenE : Nat
  seq  : Nat
  /-- The sender's partition and its epoch there (R311). -/
  part : PartNo
  epoch : BitVec 32
  op   : TallyReq
  deriving DecidableEq, Repr

/-- A watch at a home (R187, R205, R331, R346): the word's device address, the value awaited, and who waits. -/
inductive Watcher where
  | tile (req : Nat)
  | intake (q p : Nat)
  | remote (sdev : DevNo) (txid : BitVec 24)
  deriving DecidableEq, Repr

/-- A placed watch. -/
structure Watch where
  addr : Nat
  x    : Word
  who  : Watcher
  part : PartNo
  epoch : BitVec 32
  deriving DecidableEq, Repr

/-! ## Blocks -/

/-- A tally (R282). -/
structure Tally where
  value  : BitVec 32
  limit  : BitVec 32
  thresh : BitVec 32
  note   : BitVec 4
  even   : Bool
  ovf    : Bool
  unf    : Bool
  ign    : BitVec 32
  deriving DecidableEq, Repr

/-- A tally watch: its number, the waiting tile, the tally, n and whether it consumes; `placed` while it holds one of
the block's 64 watches, `served` once its WAITT is granted (R286). -/
structure TallyWatch where
  num     : Nat
  tile    : Nat
  i       : Nat
  n       : BitVec 32
  consume : Bool
  placed  : Bool
  served  : Bool
  deriving DecidableEq, Repr

/-- A stag cell's accumulator between K rows: the exact window in units of 2^−32 with the partial of an unfinished
scaled group and its indicators (R103 to R106), an integer
word (R109, R110), or the tree's slots with the leaves of an unfinished group and the previous pass's result
(R111). -/
inductive Cell where
  | window (v grp : Int) (nanf pinf ninf negz : Bool) (ovf : Option Bool)
  | word (v : Int) (sat : Bool)
  | tree (slots : List (Option (BitVec 32))) (leaves : List (BitVec 32)) (prev : Option (BitVec 32))
  deriving DecidableEq, Repr

/-- The status fields that a command has gathered so far (R154). -/
structure StagFlags where
  nv       : Bool
  of       : Bool
  uf       : Bool
  nx       : Bool
  sat      : Bool
  inexw    : Bool
  fallback : Bool
  smax     : BitVec 3
  replays  : BitVec 16
  deriving DecidableEq, Repr

/-- A queued stag command (R146): the record's first 56 bytes as words, its offset, the issuing tile and its
partition, and the ordering that may hold its start (R231). -/
structure StagCmd where
  words : Vector Word 7
  off   : Nat
  tile  : Nat
  part  : PartNo
  relE  : Nat
  fenE  : Nat
  seq   : Nat
  /-- The record held an uncorrectable word when it was copied. -/
  bad   : Bool
  /-- Another command was in the queue when this one was accepted, so that its decode may overlap that one (R157). -/
  behind : Bool
  deriving DecidableEq, Repr

/-- The running command of a stag: SROW, OTILE, s (5 in the 32-bit fallback), the passes rounded so far within the
current tile, the cells and the status so far; `err` once it has failed (R153, R165). `cyc` counts the cycles of R157 in
which its K rows have entered and its passes have ended and those in which it has stalled; `before` is what it had counted
when the current tile began (R158). -/
structure StagRun where
  srow  : Nat
  otile : Nat
  s     : Nat
  cyc   : Nat
  before : Nat
  cells : List Cell
  flags : StagFlags
  err   : Option (BitVec 4)
  deriving DecidableEq, Repr

/-- A stag (R142 to R171). -/
structure Stag where
  queue  : List StagCmd
  run    : Option StagRun
  /-- The rotation pointer of SGO (R146). -/
  rot    : Nat
  paused : Bool
  ctrs   : Vector Word 16
  deriving DecidableEq, Repr

/-- A chain accepted by a DMA channel (R249). -/
structure Chain where
  head : Word
  tile : Nat
  part : PartNo
  user : Bool
  relE : Nat
  fenE : Nat
  seq  : Nat
  deriving DecidableEq, Repr

/-- A descriptor that a channel has started: its address, its eight words, the bytes issued so far, the first
failure with the position of its transfer, whether DMASTOP stopped it (R252, R264) or met it at all, so that its completion
raises an event, the city address of the last word that it has issued a write of, and whether that word has been asked back
(R238). -/
structure DmaRun where
  id      : Nat
  desc    : Word
  words   : Vector Word 8
  issued  : Nat
  fail    : Option (Byte × Nat)
  stopped : Bool
  met     : Bool
  lastDst : Nat
  back    : Bool
  deriving DecidableEq, Repr

/-- A DMA channel (R245, R253): its chains, oldest first, whether the head runs, its descriptors that have started and
not completed, the next descriptor of the running chain once known, the ring of the descriptor before it with its PHYS bit
(R263), and whether the last completion of the running chain raised an event (R252). -/
structure Channel where
  chains : List Chain
  live   : Bool
  runs   : List DmaRun
  next   : Option Word
  lastCq : Option (Bool × Word)
  lastIrq : Bool
  cqwait : Bool
  evt    : Byte
  deriving DecidableEq, Repr

/-- How far a transfer has come: its source is read on another device, its bytes are there, its write is on its way to
another device, or it is done. -/
inductive XferState where
  | reading | ready | writing | done
  deriving DecidableEq, Repr

/-- A transfer in flight: its channel and descriptor, its chain's partition and mode, position, length, the city address it
writes, the bytes read, its failure if any, and how far it has come (R246). -/
structure Transfer where
  id   : Nat
  ch   : Nat
  run  : Nat
  part : PartNo
  /-- The partition's epoch as the transfer issued (R311). -/
  epoch : BitVec 32
  user : Bool
  pos  : Nat
  len  : Nat
  dst  : Nat
  data : List Byte
  err  : Option Byte
  st   : XferState
  deriving DecidableEq, Repr

/-- A block DMA engine (R245 to R266). -/
structure Dma where
  chans  : Vector Channel 16
  /-- The channel that the rotation serves first (R247, R489). -/
  rot    : Nat
  slots  : List Transfer
  tlb    : List TlbEntry
  ctrs   : Vector Word 8
  nextId : Nat
  deriving DecidableEq, Repr

/-- A block's trace buffer (R470, R471). -/
structure Trace where
  ctl     : Word
  next    : BitVec 12
  full    : Bool
  lost    : Word
  entries : Tab (Word × Word)
  deriving DecidableEq, Repr

/-- A block (R8). `gatedAt` is its quarter's cycle count when it gated itself (R456), `waking` says that a wake event
has come since (R458), `lost` counts the cycles it has spent gated. -/
structure Block where
  stag    : Stag
  dma     : Dma
  tallies : Tab Tally
  tops    : List TallyOp
  watches : List TallyWatch
  trot    : Nat
  trace   : Trace
  gatedAt : Option Nat
  waking  : Bool
  lost    : Nat
  /-- The sweeper lane's next access of its pass (R189), and the words it skipped (R192). -/
  sweep   : Nat
  skipped : List Nat
  resetting : Option Bool
  deriving DecidableEq, Repr

/-! ## Quarters -/

/-- A walk in progress: the tile it serves, its virtual address and access kind (R211). -/
structure Walk where
  tile : Nat
  va   : Word
  kind : BitVec 2
  noInstall : Bool
  deriving DecidableEq, Repr

/-- A walk-cache entry: a pointer of levels 0 to 2 (R211), and whether it holds an uncorrectable error (R429). -/
structure WalkEntry where
  part  : PartNo
  level : Nat
  index : Nat
  next  : Nat
  bad   : Bool := false
  deriving DecidableEq, Repr

/-- A queued invalidation: the partition, or none for every partition, and the page, or none for ALL (R213). -/
structure Inval where
  part : Option PartNo
  va   : Option (BitVec 56)
  deriving DecidableEq, Repr

/-- A reduction tag entry (R303). -/
structure RTag where
  v      : Bool
  kind   : Bool
  part   : PartNo
  tag    : BitVec 16
  group  : BitVec 16
  dest   : BitVec 56
  expect : BitVec 40
  landed : BitVec 40
  done   : Bool
  note   : BitVec 56
  nv     : Bool
  of     : Bool
  nx     : Bool
  sat    : Bool
  drop   : BitVec 32
  deriving DecidableEq, Repr

/-- A stream record (R314). -/
structure Stream where
  state    : BitVec 3
  ppend    : Bool
  prio     : BitVec 3
  mirc     : Bool
  part     : PartNo
  prom     : Bool
  demo     : Bool
  pfresh   : Bool
  gen      : BitVec 32
  deadline : Word
  step     : Word
  pos      : Word
  croot    : BitVec 56
  ncell    : Nat
  nout     : Nat
  lastsel  : BitVec 32
  defer    : BitVec 16
  user     : Vector Word 4
  /-- NCELL at the previous mirror point (R334). -/
  mcell    : Nat
  deriving DecidableEq, Repr

/-- A cell move in progress (R323): the stream and cell, its direction, the old place, the index that it has taken, and
whether the cell has been released in the meantime (R325). -/
structure Move where
  part   : PartNo
  stream : Nat
  cell   : Nat
  up     : Bool
  oldVa  : Nat
  newIx  : Nat
  freed  : Bool
  deriving DecidableEq, Repr

/-- Intake of a partition in a quarter: whether a round runs, CONS as the watch was placed or as the round stands, whether the
entry at CONS has its RESULT, the entries processed in the round, and whether the Square has been told that the ring cannot be
watched (R331). -/
structure Intake where
  active : Bool
  cons   : Word
  applied : Bool
  count  : Word
  dead   : Bool
  deriving DecidableEq, Repr

/-- The Hive register block of a partition in a quarter (R317), with its promotion queue. -/
structure HiveRegs where
  en       : Bool
  miren    : Bool
  jrnen    : Bool
  bsfirst  : Bool
  rdy      : Bool
  hbmBase  : Word
  hbmCells : BitVec 21
  hbmFree  : BitVec 21
  low      : BitVec 21
  high     : BitVec 21
  bsBase   : Word
  bsCells  : BitVec 15
  bsFree   : BitVec 15
  ddrBase  : Word
  ddrCells : BitVec 27
  ddrFree  : BitVec 27
  listBase : Word
  listPages : BitVec 21
  listFree : BitVec 21
  freeBase : Word
  intakeEn : Bool
  intakeBase : Word
  miraddr  : BitVec 56
  journal  : BitVec 56
  beatno   : BitVec 32
  mseq     : BitVec 32
  resv     : BitVec 21
  promq    : List Nat
  defers   : Word
  promoted : Word
  demoted  : Word
  moveerr  : Word
  mirlost  : Word
  intake   : Intake
  /-- Demotion runs until FREE − RESV reaches HIGH (R322). -/
  demoting : Bool
  /-- A mirror image is being written for the beat named, and whether a write of it has been lost (R333). -/
  mirroring : Option (BitVec 32)
  mirBad   : Bool
  /-- The cells that the journal has still to copy: beat, stream, cell; and the beat whose remaining cells it skips (R334). -/
  jcells   : List (BitVec 32 × Nat × Nat)
  jfull    : Option (BitVec 32)
  deriving DecidableEq, Repr

/-- A quarter's grant block of a partition (R419). -/
structure Grant where
  bsBase : BitVec 5
  bsSize : BitVec 5
  hbBase : BitVec 6
  hbSize : BitVec 7
  ddBase : BitVec 13
  ddSize : BitVec 13
  sliced : Bool
  deriving DecidableEq, Repr

/-- An error log entry (R431). -/
structure ErrEntry where
  time  : Word
  addr  : BitVec 56
  kind  : Byte
  sev   : BitVec 2
  unit  : BitVec 32
  spot  : Byte
  agent : BitVec 16
  src   : BitVec 4
  deriving DecidableEq, Repr

/-- An error log: a ring of 512 entries by number (R431). -/
structure ErrLog where
  head    : Word
  lost    : Word
  corr    : Word
  unc     : Word
  entries : Tab ErrEntry
  deriving DecidableEq, Repr

/-- A violation log entry (R406). -/
structure VioEntry where
  time   : Word
  addr   : BitVec 56
  src    : BitVec 4
  write  : Bool
  srcid  : BitVec 16
  reason : Byte
  deriving DecidableEq, Repr

/-- A violation log: a ring of 64 entries (R406), or the Square's of 4,096 (R405). -/
structure VioLog where
  head    : Word
  lost    : Word
  entries : Tab VioEntry
  deriving DecidableEq, Repr

/-- A permit held or waited for (R435, R436): the activity and its unit, under the KINDs of R432, and 20 for a stack,
21 for its interface, 22 for a DDR5 channel's interface, 23 for a quarter's clock and 24 for a flash part. -/
structure Permit where
  act  : Activity
  unit : SpotUnit
  deriving DecidableEq, Repr

/-- The permit state of a granter (R438): held, waiting in request order, counters; `till` gives the times at which
recalibrations and retrains of memory interfaces end (R436). -/
structure Permits where
  held  : List Permit
  wait  : List Permit
  till  : List (Permit × Word)
  waits : Word
  skips : Word
  deriving DecidableEq, Repr

/-- A quarter's clock and temperature registers and the ceilings behind them (R450 to R454). -/
structure QClk where
  op      : BitVec 3
  step    : Option (BitVec 3)
  /-- QCLK.REQ by the partition that asked, 64 for the Square, and the thermal, power and neighbour ceilings. -/
  reqs    : Tab (BitVec 3)
  thermal : BitVec 3
  power   : BitVec 3
  neigh   : BitVec 3
  /-- Consecutive samples that are hot, that are cool, and in which a neighbour is too much colder (R451, R453). -/
  hotN    : Nat
  coolN   : Nat
  diffN   : Nat
  plloff  : Bool
  tj      : Byte
  thbm    : Byte
  tpeak   : Byte
  vq      : BitVec 16
  /-- Order number of the quarter's last step (R454). -/
  stepped : Nat
  deriving DecidableEq, Repr

/-- A quarter (R8). -/
structure Quarter where
  ptroot : Tab Word
  walks  : List Walk
  wcache : List WalkEntry
  invals : List Inval
  devnum : DevNo
  nwalks : Word
  wcmiss : Word
  mcgrp  : Tab (Word × Word)
  mcpart : Tab PartNo
  rtags  : Tab RTag
  pepoch : Tab (BitVec 32)
  gridEn : Bool
  gridFired : Bool
  gridList : BitVec 1024
  streams : Tab Stream
  hive   : Tab HiveRegs
  moves  : List Move
  grants : Tab Grant
  relpc  : BitVec 56
  /-- Writes of TRESET, BRESET and PRESET that wait for BUSY to clear: the register's offset, the value and the
  writer's partition (R425). -/
  rheld  : List (Nat × Word × Option PartNo)
  elog   : ErrLog
  permits : Permits
  clk    : QClk
  /-- Main cycles that the quarter clock has counted. -/
  cycles : Nat
  /-- The partition that runs in the quarter now (R423). -/
  running : Option PartNo
  /-- The line that the HBM4 patrol will read next (R200), those that it has skipped (R435), and whether the stack is in
  self-refresh (R460). -/
  patrol : Nat
  patrolSkip : List Nat
  selfRef : Bool
  deriving DecidableEq, Repr

/-! ## Fabric -/

/-- A data flit kept for resending, with its FPO (R339, R342). -/
structure TxFlit where
  seq   : BitVec 12
  fpo   : BitVec 7
  cls   : BitVec 2
  vc    : BitVec 3
  bytes : List Byte
  deriving DecidableEq, Repr

/-- A fabric port (R338, R341 to R343, R353). -/
structure Port where
  state    : BitVec 3
  lanes    : BitVec 2
  peer     : DevNo
  cwcorr   : Word
  cwunc    : Word
  symerr   : Word
  authfail : Word
  naks     : Word
  replays  : Word
  viol     : Word
  beatmiss : Word
  /-- The link session is established; its handshake step; qualification passed. -/
  session  : Bool
  counted  : Bool
  hsStep   : BitVec 2
  expect   : BitVec 12
  waitSeq  : Bool
  nakRun   : Nat
  nakSeq   : BitVec 12
  /-- NAKs received in a row for one SEQ (R342). -/
  nakGot   : Nat
  nakGotSeq : BitVec 12
  nextSeq  : BitVec 12
  acked    : BitVec 12
  replay   : List TxFlit
  /-- By class and virtual channel, 6c + v: the bytes of a packet that is not whole yet, the flits that hold nothing but
  them, the flits buffered in all, and a NAK owed once the buffer frees (R341, R363). -/
  rx       : Tab (List Byte)
  rxOpen   : Tab Nat
  rxFlits  : Tab Nat
  owedNak  : Bool
  freed    : Tab Byte
  freedNew : Nat
  sentCnt  : Tab Byte
  peerFreed : Tab Byte
  /-- Violations, and flits that failed FEC, in the current second (R343, R363). -/
  violSec  : Nat
  uncSec   : Nat
  failedCounts : Nat
  measured : Bool
  /-- Times of the last BEAT received: the peer's sending time and the local arrival time. -/
  beatPeer : Word
  beatHere : Word
  /-- A BEAT has been accepted since the port's own last one; the beat periods without one so far (R353). -/
  heard    : Bool
  missRun  : Nat
  /-- The fragments of the handshake step that is arriving: the step, how many have come, and their bytes (R340). -/
  hsRx     : Option (Byte × Nat × List Byte)
  /-- Control flits sent: the control counter, of which SEQ carries the low bits (R339). -/
  ctlCount : BitVec 63
  deriving DecidableEq, Repr

/-- A reduction-group entry (R358). -/
structure RGroup where
  v       : Bool
  kind    : Bool
  root    : Bool
  ret     : Bool
  part    : PartNo
  group   : BitVec 16
  tag     : BitVec 16
  upport  : BitVec 5
  ggen    : Byte
  child   : BitVec 18
  retaddr : BitVec 44
  nelem   : BitVec 32
  retnote : BitVec 44
  retgot  : BitVec 40
  drops   : BitVec 32
  deriving DecidableEq, Repr

/-- A packet waiting at a switch third, with the port it came by, none for the internal port (R347), and the port that
a reduction packet leaves by whatever the routing table says (R359, R360). -/
structure Queued where
  inPort : Option Nat
  via    : Option Nat
  cls    : BitVec 2
  vc     : BitVec 3
  /-- Receive-buffer flits that forwarding the packet frees. -/
  flits  : Nat
  pkt    : Packet
  /-- A COUNT's progress at its home (R188). -/
  run    : CountRun := .reset
  deriving DecidableEq, Repr

/-- What of this device awaits an answer from another device, besides a tile's requests, DMA transfers and the host: a
tile's fetch and the prefetch behind it (R221), a channel's descriptor, ring control block, completion record and add to PROD
(R256, R262), a Hive slice's journal, intake ring, the watch on it, and the record that an HADOPT copies (R331, R334, R335). -/
inductive Reader where
  | fetch (t : Nat)
  | ahead (t : Nat)
  | desc (k ch : Nat)
  | ring (k ch : Nat)
  | record (k ch : Nat)
  | prod (k ch : Nat)
  | journal (q p : Nat)
  | intake (q p : Nat)
  | intakeWatch (q p : Nat)
  | adopt (id : Nat)
  deriving DecidableEq, Repr

/-- An access of such a part to another device: its city address and length, and, once it is over, the bytes read and whether
it failed (R242, R346, R349). -/
structure FarAccess where
  id    : Nat
  who  : Reader
  city : Nat
  len  : Nat
  /-- An invalidation has overtaken the access, which installs no line (R219). -/
  stale : Bool
  ans  : Option (List Byte × Bool)
  deriving DecidableEq, Repr

/-- What the manager sends a management message for: a heartbeat, the entries of a change, a change that the standby must
acknowledge first, or its own announcement (R355, R357). -/
inductive MgmtAsk where
  | heartbeat
  | entries
  | change
  | announce
  deriving DecidableEq, Repr

/-- Who opened a transaction (R346). -/
inductive TxOwner where
  | req (id : Nat)
  | mirror (q p : Nat)
  | dma (k id : Nat)
  | host (id dpa : Nat) (write : Bool)
  | far (who : Reader) (id : Nat)
  | mgmt (dev : DevNo) (ask : MgmtAsk)
  | other
  deriving DecidableEq, Repr

/-- A transaction in flight (R346). -/
structure Transaction where
  txid  : BitVec 24
  op    : Byte
  city  : Nat
  owner : TxOwner
  unwatched : Bool
  deriving DecidableEq, Repr

/-- A request that found no transaction free and waits at its edge die (R346). -/
structure TxWaiting where
  owner : TxOwner
  op    : Byte
  part  : PartNo
  epoch : BitVec 32
  city  : Nat
  oparg : Word
  data  : List Byte
  deriving DecidableEq, Repr

/-- An edge die: its switch third, tables, error log and permit-free state (R347, R348, R358, R431). -/
structure Edge where
  routes : Tab Word
  groups : Tab RGroup
  queue  : List Queued
  /-- The input that each output serves first: rotating priority (R347, R489). -/
  rot    : Tab Nat
  pepoch : Tab (BitVec 32)
  elog   : ErrLog
  deriving DecidableEq, Repr

/-- A district member (R354). -/
structure Member where
  role  : BitVec 3
  rank  : BitVec 16
  state : BitVec 2
  deriving DecidableEq, Repr

/-- What has been reported to the manager of a member: links fenced, when the first was, and curfew (R355). -/
structure MemberReport where
  fences : Nat
  first  : Word
  curfew : Bool
  deriving DecidableEq, Repr

/-- A change of membership, routes or registry: the new membership table, the entries that members are to apply, and the rank
that a spare takes afterwards (R355, R357). -/
structure Change where
  members : Tab Member
  news    : List (DevNo × MgmtBody)
  vacant  : Option (BitVec 16)
  deriving DecidableEq, Repr

/-- The device's part in its district (R354 to R357). -/
structure District where
  role    : BitVec 3
  manager : DevNo
  mepoch  : BitVec 32
  members : Tab Member
  missed  : Nat
  /-- Nanoseconds that device time lags behind the manager's, and when it was stepped as the device joined (R356). -/
  behind  : Int
  timeSet : Option Word
  /-- The manager's reduction-group registry: the entry of each group on each member (R354, R358). -/
  registry : Tab (Tab RGroup)
  /-- The manager's own record: what has been reported of each member, the change that the standby has not yet acknowledged,
  whether one of its acknowledgements failed, and the rank that a spare is to take (R355, R357). -/
  reports : Tab MemberReport
  change  : Option Change
  failed  : Bool
  vacant  : Option (BitVec 16)
  deriving DecidableEq, Repr

/-- The RETURN packets of a group that the root has still to send, and the counted word that advances when all have gone out
(R360). -/
structure Returning where
  group : BitVec 16
  part  : PartNo
  note  : Nat
  left  : Nat
  deriving DecidableEq, Repr

/-- A stop of a packet on the roads, with an output queue of its own (R289, R292): a street router, a side-street, the
down-port of a router, the edge ring of a base die, an avenue router, an edge die or the host die. -/
inductive Stop where
  | street (q x y : Nat)
  | side (t u : Nat)
  | down (q x y : Nat)
  | ring (q : Nat)
  | avenue (q : Nat)
  | edgeDie (e : Nat)
  | hostDie
  deriving DecidableEq, Repr

/-- A reduction packet on the roads or in a switch (R304, R305): where it is bound, its run, lanes and count, and the stops
that lie before it (R290). -/
structure RPacket where
  tag   : BitVec 16
  part  : PartNo
  epoch : BitVec 32
  home  : Nat
  kind  : Bool
  dest  : Nat
  run   : Nat
  mask  : BitVec 16
  lanes : Vector (BitVec 32) 16
  cnt   : Nat
  flags : BitVec 4
  path  : List Stop
  deriving DecidableEq, Repr

/-! ## Host link, security, Square, monitor, module -/

/-- A partition's host register block (R371), its MSI-X state (R376) and its violation log (R406). -/
structure HostRegs where
  hwin    : Vector (Word × Word) 4
  vfen    : Bool
  msixen  : Bool
  hviol   : Word
  hvaddr  : Word
  hmsidrop : Word
  mask    : BitVec 64
  pend    : BitVec 64
  vlog    : VioLog
  deriving DecidableEq, Repr

/-- The host link (R364 to R376). -/
structure HostLink where
  up       : Bool
  hostviol : Word
  exposed  : BitVec 64
  tlb      : List TlbEntry
  media    : Bool
  /-- The words that the host has written to registers of CXL and PCIe in function fn, the HDM decoders and the MSI-X
  tables among them, by fn × 2^17 + offset. -/
  cxl      : Tab Word
  deriving DecidableEq, Repr

/-- A partition's exchange of keys (R394, R395). -/
inductive Keying where
  | unkeyed | exchanging | keyed
  deriving DecidableEq, Repr

/-- A partition that exists (R418 to R423): its descriptor, whether its image verified and is in place, its keys,
and its saved state while another partition runs in its quarters. -/
structure Partition where
  desc    : PartDesc
  keying  : Keying
  img     : List Byte
  imgOk   : Bool
  released : Bool
  /-- Keys written to the key tables (R396). -/
  inTables : Bool
  saved   : Tab Tile
  savedBlocks : Tab Block
  savedMem : List Host.Cell
  /-- A partition reset (false) or the destruction (true) waits for the last reply (R421, R426). -/
  ending   : Option Bool
  deriving DecidableEq, Repr

/-- The debug unlock (R408, R409) and the attestation state (R391 to R395). -/
structure Security where
  challenge : Option Word
  unlocked  : Bool
  mem       : Bool
  ctl       : Bool
  trace     : Bool
  fw        : Bool
  pqmode    : Byte
  /-- What the last signed response since reset covers (R392). -/
  signed    : Option Word
  /-- Partitions whose exchange of keys a debug unlock has ended (R395). -/
  zeroised  : List Nat
  deriving DecidableEq, Repr

/-- The floor plan record (R415). -/
structure FloorPlan where
  hbm    : BitVec 20
  ddr    : BitVec 24
  port   : BitVec 18
  lane   : BitVec 72
  ucie   : BitVec 4
  tiles  : List Nat
  stags  : List Nat
  banks  : List Nat
  gen    : Word
  time   : Word
  /-- RETLOG: time, unit kind, unit number, cause, newest first, at most 256. -/
  retlog : List (Word × Byte × Nat × Byte)
  /-- A write of the record to the flash is outstanding (R434). -/
  dirty  : Bool
  deriving DecidableEq, Repr

/-- A spot test: scheduled, under test, or repeated with complemented patterns; the log entry that scheduled it, whether
more than 16 corrected errors within 1 s count as its failure, whether the unit ran when the test stopped it, and whether the
monitor waits for the result (R432, R433, R464). -/
structure Spot where
  unit    : SpotUnit
  running : Bool
  again   : Bool
  entry   : Option Nat
  storm   : Bool
  was     : Bool
  asked   : Bool
  deriving DecidableEq, Repr

/-- Boot flash (R386, R485): per part, whether it holds a valid image and its version. -/
structure Flash where
  fwA  : Option (BitVec 64)
  fwB  : Option (BitVec 64)
  /-- The floor plan record as last written, and whether the next write goes to part B (R386). -/
  fp   : FloorPlan
  nextFp : Bool
  deriving DecidableEq, Repr

/-- The Squares (R379 to R381, R410 to R414, R439 to R443). -/
structure Square where
  phase    : BitVec 3
  ready    : Bool
  cause    : Byte
  /-- The UCIe modules in the link, and those that have failed repair (R366, R414). -/
  ucie     : BitVec 4
  ucieBad  : BitVec 4
  tready   : BitVec 32
  active   : Option Bool
  standby  : Bool
  uds0     : Bool
  uds1     : Bool
  uid      : Word
  record   : Option OpRecord
  /-- Partition descriptors that the Square has accepted and not created yet (R418). -/
  descs    : List PartDesc
  dlog     : VioLog
  permits  : Permits
  spots    : List Spot
  /-- Units with one failed test recorded, and when (R433). -/
  failures : List (SpotUnit × Word)
  fp       : FloorPlan
  flash    : Flash
  /-- Whether the active Square acts (R442). -/
  running  : Bool
  /-- The lamplighters that E0 and E1 hear, the 100 µs periods in a row in which each has lacked quorum, and those in
  which the standby has heard no active Square (R442, R443). -/
  heard0   : BitVec 20
  heard1   : BitVec 20
  lost0    : Nat
  lost1    : Nat
  silent   : Nat
  /-- Device time at power good (R414). -/
  pgTime   : Word
  badLinks : List Nat
  deriving DecidableEq, Repr

/-- A transfer of the serial monitor (R466): for an unlock token or a firmware image. -/
structure Xfer where
  recover : Bool
  part    : Bool
  total   : Nat
  got     : Nat
  tok     : Option Token
  deriving DecidableEq, Repr

/-- The serial monitor (R461 to R467). -/
structure Monitor where
  xfer    : Option Xfer
  output  : Bool
  deriving DecidableEq, Repr

/-- The module (R473 to R483): supply, coolant, cages, the reset input. -/
structure Module where
  powerGood : Bool
  millivolt : Nat
  watt     : Nat
  resetLow : Bool
  flow     : Nat
  inlet    : Nat
  outlet   : Nat
  cages    : BitVec 9
  /-- Consecutive 100 µs samples above 16.5 kW, and below 15.5 kW (R454). -/
  overCnt  : Nat
  underCnt : Nat
  deriving DecidableEq, Repr

/-- The memory population (R198, R202 to R204): tall stacks, channels in use, module size; the line that each channel's patrol
will read next, and the lines by channel that the patrols have skipped (R428, R435). -/
structure Population where
  tall      : Bool
  channels  : BitVec 24
  moduleGib : Nat
  ddrPatrol : Tab Nat
  ddrSkip   : List (Nat × Nat)
  ddrSelf   : BitVec 24
  deriving DecidableEq, Repr

/-- The kinds of SPDM response (R391 to R393). -/
inductive SpdmReply where
  | version | capabilities | algorithms | digests | certificate | challengeAuth | measurements | error
  | vendor (code : Byte)
  deriving DecidableEq, Repr

/-- What the device sends to the outside: host data, interrupts, monitor and SMBus answers, messages to the Square's
partners, fabric control messages. -/
inductive Out where
  | hostData (dpa : Nat) (data : Line) (poison : Bool)
  | hostWord (v : Word)
  | hostDone
  | msix (fn : Nat) (vec : Nat)
  | mailbox (cmd : Nat) (ok : Bool) (words : List Word)
  | spdm (r : SpdmReply) (words : List Word)
  | mon (ok : Bool) (code : Nat) (words : List Word)
  | smbus (words : List Word)
  | nack
  | ctl (port : Nat) (count ackseq : BitVec 12) (payload : List Byte)
  | flit (port : Nat) (seq ackseq : BitVec 12) (fpo : BitVec 7) (cls : BitVec 2) (vc : BitVec 3) (bytes : List Byte)
  | toSquare (kind : Nat) (a b : Nat)
  | toManager (kind : Nat) (a : Nat)
  | mgmt (dev : DevNo) (m : MgmtBody)
  deriving DecidableEq, Repr

/-- A line buffered in an operation unit (R205). -/
structure OpLine where
  unit  : Nat
  line  : Nat
  dirty : Bool
  deriving DecidableEq, Repr

/-- The ways the device stops with a fault: none. The spec answers every access and every event, so no meaning
raises a fault; a claim that a fault happens cannot be proved (safe). -/
inductive Fault where
  deriving DecidableEq, Repr

/-- The refusals. -/
inductive Refusal where
  /-- Raised by the dispatch alone, for a command that has no meaning yet (safe: nothing is claimed of it). -/
  | notModelled (mnemonic : String)
  deriving DecidableEq, Repr

/-- The state of the device. -/
structure State where
  /-- The commands that wait, first in, first out. -/
  pending : List Instr
  /-- Device time in ns (R356) and always-on ticks since reset. -/
  time    : Word
  ticks   : Nat
  /-- Every byte of HBM4, the DDR5 tier, the block stores and the tile memories by device address (R194). -/
  mem     : List Host.Cell
  /-- Words with an error: word address, true when uncorrectable (R182, R200). A tally's register address stands for the
  tally, and a queue's QDATA address for the queue's head message (R429). -/
  marks   : Tab Bool
  /-- Address ranges [lo, hi) whose lines stand under a key they were not written with, with the serial of the key
  change (R399). -/
  rekeyed : List (Nat × Nat × Nat)
  /-- The model's own counter of free values. -/
  fresh   : Nat
  /-- Numbers requests, attempts and tally operations. -/
  nextId  : Nat
  tiles   : Tab Tile
  blocks  : Tab Block
  quarters : Tab Quarter
  reqs    : List Req
  attempts : List Attempt
  watches : List Watch
  oplines : List OpLine
  rpackets : List RPacket
  /-- RETURN packets that this device, as a root, has still to send (R360). -/
  returns : List Returning
  ports   : Tab Port
  edges   : Tab Edge
  /-- The routing table as the avenue routers hold it (R347). -/
  avenue  : Tab Word
  txs     : List Transaction
  nextTx  : BitVec 24
  /-- Requests that wait for a transaction to be free, in order (R346). -/
  txWait  : List TxWaiting
  /-- Accesses to other devices whose answers this device's engines await. -/
  far     : List FarAccess
  /-- Packets for this device that have left its switch and not yet been performed. -/
  inbox   : List Queued
  dist    : District
  hregs   : Tab HostRegs
  host    : HostLink
  parts   : Tab Partition
  sec     : Security
  sq      : Square
  mon     : Monitor
  module  : Module
  pop     : Population
  /-- Consecutive failures of one flit on a street or avenue link, by link (R298). -/
  linkFails : Tab (Nat × Nat)
  /-- What the device has sent out, newest first. -/
  out     : List Out
  deriving DecidableEq, Repr

/-! ## The state after reset -/

/-- STATUS after reset: MODE = supervisor (R54, R61). -/
def Ctl.reset : Ctl :=
  { status := 0x1, epc := 0, ecause := 0, eval := 0, evec := 0, escr0 := 0, escr1 := 0
    stklim := 0xE1C, lc0 := 0, lc1 := 0, la0 := 0, la1 := 0, lctl := 0, fcsr := 0
    waitlim := 0x1000000, holdlim := 128, ien := 0, ipend := 0
    tcmp := 0xFFFFFFFFFFFFFFFF, errpend := 0, cachectl := 0, qsel := 0, tstart := 0 }

/-- The core after a tile reset (R17, R61). PC waits for the release message. -/
def Core.reset : Core :=
  { ds := Vector.replicate 32 0, d := 0, rs := Vector.replicate 16 0, rd := 0, pc := 0
    flight := [], branch := none, shLeft := 0, shOld := 1, shNew := 1, cwrs := [], hold := none
    impr := none, issued := 0, doing := .issue, run := .unreleased, cycle := 0 }

/-- Load slots, merging buffer, TLB and caches empty (R17, R219, R426). -/
def GMem.reset : GMem :=
  { slots := [], mb := [], tlb := [], dcache := [], icache := [], seq := 0, relE := 0, acqE := 0, fenE := 0 }

/-- The vector unit after reset (R114). -/
def Vec.reset : Vec := { vs := Vector.replicate 8 0, vd := 0, port := 0 }

/-- The TMU after reset (R128). -/
def Tmu.reset : Tmu :=
  { tr := Vector.replicate 8 (Vector.replicate 8 0), latch := Vector.replicate 8 none
    acc := Vector.replicate 64 0, tcfg := 0x40F03F0, queue := [], sat := false }

/-- A queue after reset: CLOSED and empty (R268, R281). -/
def RQueue.reset : RQueue :=
  { isOpen := false, epoch := 0, msgs := [], drops := 0, stale := 0, waiters := [], resv := false }

/-- A tile after reset. -/
def Tile.reset : Tile :=
  { core := .reset, ctl := .reset, gmem := .reset, vec := .reset, tmu := .reset
    queues := Vector.replicate 8 .reset, qimask := 0xFF, tevts := 0, part := 0
    park := false, parked := false, wake := 0x3F, lslot := true, came := false
    pcsel := Vector.replicate 8 0, pcnt := Vector.replicate 8 0, resetting := none }

/-- A tally after reset (R282). -/
def Tally.reset : Tally :=
  { value := 0, limit := 0xFFFFFFFF, thresh := 0xFFFFFFFF, note := 0, even := false
    ovf := false, unf := false, ign := 0 }

/-- A stag after reset (R169 to R171). -/
def Stag.reset : Stag :=
  { queue := [], run := none, rot := 0, paused := false, ctrs := Vector.replicate 16 0 }

/-- A DMA channel after reset (R253, R265). -/
def Channel.reset : Channel :=
  { chains := [], live := false, runs := [], next := none, lastCq := none, lastIrq := false, cqwait := false, evt := 0 }

/-- A DMA engine after reset (R265, R266). -/
def Dma.reset : Dma :=
  { chans := Vector.replicate 16 .reset, rot := 0, slots := [], tlb := [], ctrs := Vector.replicate 8 0, nextId := 0 }

/-- A trace buffer after reset (R470). -/
def Trace.reset : Trace := { ctl := 0, next := 0, full := false, lost := 0, entries := [] }

/-- A block after reset. -/
def Block.reset : Block :=
  { stag := .reset, dma := .reset, tallies := [], tops := [], watches := [], trot := 0, trace := .reset
    gatedAt := none, waking := false, lost := 0, sweep := 0, skipped := [], resetting := none }

/-- A reduction tag entry after reset (R303). -/
def RTag.reset : RTag :=
  { v := false, kind := false, part := 0, tag := 0, group := 0, dest := 0, expect := 0, landed := 0
    done := false, note := 0, nv := false, of := false, nx := false, sat := false, drop := 0 }

/-- A stream record after reset: FREE, every other field 0 (R314). -/
def Stream.reset : Stream :=
  { state := 0, ppend := false, prio := 0, mirc := false, part := 0, prom := false, demo := false
    pfresh := false, gen := 0, deadline := 0, step := 0, pos := 0, croot := 0, ncell := 0, nout := 0
    lastsel := 0, defer := 0, user := Vector.replicate 4 0, mcell := 0 }

/-- A Hive register block after reset (R317). -/
def HiveRegs.reset : HiveRegs :=
  { en := false, miren := false, jrnen := false, bsfirst := false, rdy := false
    hbmBase := 0, hbmCells := 0, hbmFree := 0, low := 0, high := 0
    bsBase := 0, bsCells := 0, bsFree := 0, ddrBase := 0, ddrCells := 0, ddrFree := 0
    listBase := 0, listPages := 0, listFree := 0, freeBase := 0, intakeEn := false, intakeBase := 0
    miraddr := 0, journal := 0, beatno := 0, mseq := 0, resv := 0, promq := []
    defers := 0, promoted := 0, demoted := 0, moveerr := 0, mirlost := 0
    intake := { active := false, cons := 0, applied := false, count := 0, dead := false }, demoting := false
    mirroring := none, mirBad := false, jcells := [], jfull := none }

/-- A grant block after reset (R419). -/
def Grant.reset : Grant :=
  { bsBase := 0, bsSize := 0, hbBase := 0, hbSize := 0, ddBase := 0, ddSize := 0, sliced := false }

/-- An empty error log (R431). -/
def ErrLog.reset : ErrLog := { head := 0, lost := 0, corr := 0, unc := 0, entries := [] }

/-- An empty violation log (R406). -/
def VioLog.reset : VioLog := { head := 0, lost := 0, entries := [] }

/-- No permit held or waiting (R438). -/
def Permits.reset : Permits := { held := [], wait := [], till := [], waits := 0, skips := 0 }

/-- A quarter's clock registers after reset (R452). -/
def QClk.reset : QClk :=
  { op := 0, step := none, reqs := [], thermal := 0, power := 0, neigh := 0, hotN := 0, coolN := 0, diffN := 0
    plloff := false
    tj := 0, thbm := 0, tpeak := 0, vq := 0, stepped := 0 }

/-- A quarter after reset. -/
def Quarter.reset : Quarter :=
  { ptroot := [], walks := [], wcache := [], invals := [], devnum := 0, nwalks := 0, wcmiss := 0
    mcgrp := [], mcpart := [], rtags := [], pepoch := []
    gridEn := false, gridFired := false, gridList := 0
    streams := [], hive := [], moves := [], grants := [], relpc := 0, rheld := []
    elog := .reset, permits := .reset, clk := .reset, cycles := 0, running := none, patrol := 0, patrolSkip := [], selfRef := false }

/-- A fabric port after reset: DOWN, every register 0 (R343, R353). -/
def Port.reset : Port :=
  { state := 0, lanes := 0, peer := 0, cwcorr := 0, cwunc := 0, symerr := 0, authfail := 0, naks := 0
    replays := 0, viol := 0, beatmiss := 0, session := false, counted := false, hsStep := 0
    expect := 0, waitSeq := false, nakRun := 0, nakSeq := 0, nextSeq := 0, acked := 0, replay := []
    rx := [], rxOpen := [], rxFlits := [], owedNak := false, freed := [], freedNew := 0, sentCnt := [], peerFreed := []
    nakGot := 0, nakGotSeq := 0, violSec := 0, uncSec := 0, heard := false, missRun := 0, hsRx := none, failedCounts := 0, measured := false, beatPeer := 0, beatHere := 0, ctlCount := 0 }

/-- A reduction-group entry after reset (R358). -/
def RGroup.reset : RGroup :=
  { v := false, kind := false, root := false, ret := false, part := 0, group := 0, tag := 0, upport := 0
    ggen := 0, child := 0, retaddr := 0, nelem := 0, retnote := 0, retgot := 0, drops := 0 }

/-- An edge die after reset (R348, R358, R431). -/
def Edge.reset : Edge := { routes := [], groups := [], queue := [], rot := [], pepoch := [], elog := .reset }

/-- A partition's host registers after reset (R371, R376, R406). -/
def HostRegs.reset : HostRegs :=
  { hwin := Vector.replicate 4 (0, 0), vfen := false, msixen := false, hviol := 0, hvaddr := 0
    hmsidrop := 0, mask := BitVec.allOnes 64, pend := 0, vlog := .reset }

/-- A floor plan with no retired unit and GEN 0: what the flash holds before the first boot, of which R415 gives no reset value
(DESIGN CHOICE, log entry 13). -/
def FloorPlan.reset : FloorPlan :=
  { hbm := 0, ddr := 0, port := 0, lane := 0, ucie := 0, tiles := [], stags := [], banks := []
    gen := 0, time := 0, retlog := [], dirty := false }

/-- The Squares before phase 1 (R410, R414). -/
def Square.reset : Square :=
  { phase := 0, ready := false, cause := 0, ucie := 0, ucieBad := 0, tready := 0, active := none, standby := false
    uds0 := false, uds1 := false, uid := 0, record := none, descs := [], dlog := .reset
    permits := .reset, spots := [], failures := [], fp := .reset
    flash := { fwA := none, fwB := none, fp := .reset, nextFp := false }, running := false, heard0 := 0, heard1 := 0
    lost0 := 0, lost1 := 0, silent := 0, pgTime := 0, badLinks := [] }

/-- The module with its power stages off (R473, R474). -/
def Module.reset : Module :=
  { powerGood := false, millivolt := 0, watt := 0, resetLow := false
    flow := 0, inlet := 0, outlet := 0, cages := 0, overCnt := 0, underCnt := 0 }

/-- The device right after reset, before phase 1 of R410: every unit at its reset value, nothing written. -/
def State.reset : State :=
  { pending := [], time := 0, ticks := 0, mem := [], marks := [], rekeyed := [], fresh := 0, nextId := 0
    tiles := [], blocks := [], quarters := [], reqs := [], attempts := [], watches := [], oplines := []
    rpackets := [], returns := [], ports := [], edges := [], avenue := [], txs := [], nextTx := 0, txWait := [], far := [], inbox := []
    dist := { role := 0, manager := 0, mepoch := 0, members := [], missed := 0, behind := 0, timeSet := none,
              registry := [], reports := [], change := none, failed := false, vacant := none }
    hregs := []
    host := { up := false, hostviol := 0, exposed := 0, tlb := [], media := false, cxl := [] }
    parts := []
    sec := { challenge := none, unlocked := false, mem := false, ctl := false, trace := false, fw := false
             pqmode := 0, signed := none, zeroised := [] }
    sq := .reset, mon := { xfer := none, output := false }, module := .reset
    pop := { tall := true, channels := 0, moduleGib := 0, ddrPatrol := [], ddrSkip := [], ddrSelf := 0 }
    linkFails := [], out := [] }

end Sys2Proof.Machine
end

