-- ==== Sys2Proof/Machine/Bits.lean ====
section
/-! DEFINITION. Bit fields, little-endian bytes (R3), and the tables that hold units by number. -/

namespace Sys2Proof.Machine

/-- Bits [lo+len-1:lo] of a word, as a number. -/
def fld {n : Nat} (w : BitVec n) (lo len : Nat) : Nat := (w.toNat >>> lo) % 2 ^ len

/-- Bit i of a word. -/
def bit {n : Nat} (w : BitVec n) (i : Nat) : Bool := w.getLsbD i

/-- A word with bits [lo+len-1:lo] replaced by the low bits of v. -/
def setFld {n : Nat} (w : BitVec n) (lo len v : Nat) : BitVec n :=
  (w &&& ~~~(BitVec.ofNat n (2 ^ len - 1) <<< lo)) ||| (BitVec.ofNat n (v % 2 ^ len) <<< lo)

/-- A word with bit i replaced. -/
def setBit {n : Nat} (w : BitVec n) (i : Nat) (b : Bool) : BitVec n := setFld w i 1 b.toNat

/-- A truth value as a word: 1 or 0. -/
def ofBool64 (b : Bool) : Word := BitVec.ofNat 64 b.toNat

/-- The low n bytes of a number, least significant first (R3). -/
def natBytes : Nat → Nat → List Byte
  | 0, _ => []
  | n + 1, v => BitVec.ofNat 8 v :: natBytes n (v / 256)

/-- The number that bytes spell, least significant first (R3). -/
def leNat : List Byte → Nat
  | [] => 0
  | b :: r => b.toNat + 256 * leNat r

/-- A 64-byte line from its bytes. -/
def lineOf (bs : List Byte) : Line := BitVec.ofNat 512 (leNat bs)

/-- The 64 bytes of a line. -/
def lineBytes (l : Line) : List Byte := natBytes 64 l.toNat

/-- Word i (0 to 7) of a line. -/
def lineWord (l : Line) (i : Nat) : Word := l.extractLsb' (64 * i) 64

/-- The value of an access of 2^size bytes extended to 64 bits (R42). -/
def extend (size : Nat) (zext : Bool) (v : Nat) : Word :=
  match size with
  | 0 => if zext then (BitVec.ofNat 8 v).setWidth 64 else (BitVec.ofNat 8 v).signExtend 64
  | 1 => if zext then (BitVec.ofNat 16 v).setWidth 64 else (BitVec.ofNat 16 v).signExtend 64
  | 2 => if zext then (BitVec.ofNat 32 v).setWidth 64 else (BitVec.ofNat 32 v).signExtend 64
  | _ => BitVec.ofNat 64 v

/-- A counter that stops at its all-ones maximum (R4, type SAT). -/
def satAdd {n : Nat} (c : BitVec n) (k : Nat) : BitVec n :=
  if c.toNat + k < 2 ^ n then BitVec.ofNat n (c.toNat + k) else BitVec.allOnes n

/-- One more in a saturating counter. -/
def satInc {n : Nat} (c : BitVec n) : BitVec n := satAdd c 1

/-- The entry of a vector at a number, or a default outside it. -/
def nth {α : Type} {n : Nat} (v : Vector α n) (i : Nat) (d : α) : α := (v[i]?).getD d

/-! ## Tables -/

/-- The record of unit n, or d where the table does not list it. -/
def Tab.read {α : Type} (d : α) (n : Nat) : Tab α → α
  | [] => d
  | (k, v) :: r => if k = n then v else if n < k then d else Tab.read d n r

/-- Whether the table lists n. -/
def Tab.has {α : Type} (n : Nat) : Tab α → Bool
  | [] => false
  | (k, _) :: r => k == n || (k < n && Tab.has n r)

/-- The table with the record of unit n replaced. -/
def Tab.write {α : Type} (n : Nat) (v : α) : Tab α → Tab α
  | [] => [(n, v)]
  | (k, w) :: r =>
    if k = n then (n, v) :: r
    else if n < k then (n, v) :: (k, w) :: r
    else (k, w) :: Tab.write n v r

/-- The table without n. -/
def Tab.erase {α : Type} (n : Nat) : Tab α → Tab α
  | [] => []
  | (k, w) :: r => if k = n then r else if n < k then (k, w) :: r else (k, w) :: Tab.erase n r

/-- The table without the numbers lo to hi − 1. -/
def Tab.clear {α : Type} (lo hi : Nat) (t : Tab α) : Tab α := t.filter fun e => e.1 < lo || hi ≤ e.1

/-- Insertion by a key, after entries of the same key. -/
def insertBy {α : Type} (f : α → Nat) (x : α) : List α → List α
  | [] => [x]
  | y :: r => if f x < f y then x :: y :: r else y :: insertBy f x r

/-- A list in the order of a key; entries of one key keep their order. -/
def sortBy {α : Type} (f : α → Nat) (l : List α) : List α := l.foldl (fun acc x => insertBy f x acc) []

end Sys2Proof.Machine
end

