-- ==== Sys2Proof/Machine/Ops.lean ====
section
/-! DEFINITION. The named operations over memory, units and a tile's registers: memory by device address, stacks and
results in flight, error logs, taking an exception and returning from one. -/

namespace Sys2Proof.Machine

/-! ## Units -/

/-- The record of a tile. -/
def State.tile (s : State) (t : Nat) : Tile := Tab.read .reset t s.tiles

/-- Replaces the record of a tile. -/
def State.setTile (s : State) (t : Nat) (x : Tile) : State := { s with tiles := Tab.write t x s.tiles }

/-- Changes the record of a tile. -/
def State.modTile (s : State) (t : Nat) (f : Tile → Tile) : State := s.setTile t (f (s.tile t))

/-- The record of a block. -/
def State.block (s : State) (k : Nat) : Block := Tab.read .reset k s.blocks

/-- Replaces the record of a block. -/
def State.setBlock (s : State) (k : Nat) (x : Block) : State := { s with blocks := Tab.write k x s.blocks }

/-- Changes the record of a block. -/
def State.modBlock (s : State) (k : Nat) (f : Block → Block) : State := s.setBlock k (f (s.block k))

/-- The record of a quarter. -/
def State.quarter (s : State) (q : Nat) : Quarter := Tab.read .reset q s.quarters

/-- Replaces the record of a quarter. -/
def State.setQuarter (s : State) (q : Nat) (x : Quarter) : State := { s with quarters := Tab.write q x s.quarters }

/-- Changes the record of a quarter. -/
def State.modQuarter (s : State) (q : Nat) (f : Quarter → Quarter) : State := s.setQuarter q (f (s.quarter q))

/-- The record of an edge die. -/
def State.edge (s : State) (e : Nat) : Edge := Tab.read .reset e s.edges

/-- Replaces the record of an edge die. -/
def State.setEdge (s : State) (e : Nat) (x : Edge) : State := { s with edges := Tab.write e x s.edges }

/-- Changes the record of an edge die. -/
def State.modEdge (s : State) (e : Nat) (f : Edge → Edge) : State := s.setEdge e (f (s.edge e))

/-- The record of a fabric port. -/
def State.port (s : State) (p : Nat) : Port := Tab.read .reset p s.ports

/-- Replaces the record of a port. -/
def State.setPort (s : State) (p : Nat) (x : Port) : State := { s with ports := Tab.write p x s.ports }

/-- Changes the record of a port. -/
def State.modPort (s : State) (p : Nat) (f : Port → Port) : State := s.setPort p (f (s.port p))

/-- The host registers of a partition. -/
def State.hreg (s : State) (p : Nat) : HostRegs := Tab.read .reset p s.hregs

/-- Changes the host registers of a partition. -/
def State.modHreg (s : State) (p : Nat) (f : HostRegs → HostRegs) : State :=
  { s with hregs := Tab.write p (f (s.hreg p)) s.hregs }

/-- The quarter of a tile (R7). -/
def quarterOf (t : Nat) : Nat := t / 1024

/-- The block of a tile, q × 64 + b (R7). -/
def blockOf (t : Nat) : Nat := t / 16

/-- The place of a tile in its block (R7). -/
def tileIn (t : Nat) : Nat := t % 16

/-- Device address of a tile memory's first byte (R7, R194). -/
def tileMemBase (t : Nat) : Nat :=
  0x80A00000000 + quarterOf t * 0x10000000 + blockOf t % 64 * 0x400000 + tileIn t * 0x40000

/-- Whether the device is in curfew (R440). -/
def State.curfew (s : State) : Bool := s.sq.phase == 7

/-- Sends something to the outside. -/
def State.emit (s : State) (o : Out) : State := { s with out := o :: s.out }

/-! ## Memory by device address -/

/-- Whether a memory list is in canonical form: addresses strictly rising, no entry 0. -/
def Memory.wf : List Host.Cell → Bool
  | [] => true
  | [(_, b)] => b != 0
  | (a, b) :: (a', b') :: r => b != 0 && decide (a < a') && Memory.wf ((a', b') :: r)

/-- The byte at an address; a byte that is not listed reads 0. -/
def Memory.read (m : List Host.Cell) (a : Nat) : Byte := Tab.read 0 a m

/-- The memory with one byte written. -/
def Memory.write (a : Nat) (b : Byte) (m : List Host.Cell) : List Host.Cell :=
  if b = 0 then Tab.erase a m else Tab.write a b m

/-- The memory with bytes written from an address on. -/
def Memory.writeAll : Nat → List Byte → List Host.Cell → List Host.Cell
  | _, [], m => m
  | a, b :: r, m => Memory.writeAll (a + 1) r (Memory.write a b m)

/-- The memory with the bytes lo to hi − 1 zeroed. -/
def Memory.clear (lo hi : Nat) (m : List Host.Cell) : List Host.Cell := Tab.clear lo hi m

/-- One byte of the device's memory. -/
def State.byteAt (s : State) (a : Nat) : Byte := Memory.read s.mem a

/-- n bytes of the device's memory. -/
def State.bytesAt (s : State) (a n : Nat) : List Byte := (List.range n).map fun i => s.byteAt (a + i)

/-- The little-endian value of n bytes (R3). -/
def State.valueAt (s : State) (a n : Nat) : Nat := leNat (s.bytesAt a n)

/-- A 64-bit word of the device's memory. -/
def State.wordAt (s : State) (a : Nat) : Word := BitVec.ofNat 64 (s.valueAt a 8)

/-- A 64-byte line of the device's memory. -/
def State.lineAt (s : State) (a : Nat) : Line := BitVec.ofNat 512 (s.valueAt a 64)

/-- Writes bytes from an address on. -/
def State.putBytes (s : State) (a : Nat) (bs : List Byte) : State := { s with mem := Memory.writeAll a bs s.mem }

/-- Whether a 64-bit word of a store is marked uncorrectable (R182). -/
def State.badWord (s : State) (a : Nat) : Bool := Tab.read false (a / 8 * 8) s.marks

/-! ## Packets that leave the device, and watches -/

/-- The device's own number (R196). -/
def State.devnum (s : State) : DevNo := (s.quarter 0).devnum

/-- The usable alternatives of a routing entry for a virtual channel: port and dateline (R348). -/
def State.usable (s : State) (entry : Word) (vc : Nat) : List (Nat × Bool) :=
  ((List.range 4).filter fun k =>
    bit entry (8 * k + 6) && decide (fld entry (8 * k) 5 < 18)
      && (s.port (fld entry (8 * k) 5)).state == 3 && (!bit entry (8 * k + 5) || decide (vc < 5))).map fun k =>
    (fld entry (8 * k) 5, bit entry (8 * k + 5))

/-- The port by which a packet leaves, and whether it crosses a dateline, by a copy of the routing table (R348). -/
def State.route (s : State) (table : Tab Word) (vc : Nat) (p : Packet) : Option (Nat × Bool) :=
  let alts := s.usable (Tab.read 0 p.ddev.toNat table) vc
  alts[Config.routeHash p.sdev.toNat (p.addr.toNat / 64) % alts.length]?

/-- The class that a packet's OP belongs to (R345). -/
def opClass (op : Byte) : BitVec 2 :=
  if op = 0x09 ∨ op = 0x0A then 2 else if 0x10 ≤ op.toNat ∧ op.toNat ≤ 0x14 then 1 else 0

/-- A packet of the device's own agents goes to the switch third of its port, by the avenue router's copy of the routing table
(R347). -/
def State.sendPacket (s : State) (p : Packet) : State :=
  match s.route s.avenue 0 p with
  | some (port, _) => s.modEdge (port / 6) fun e => { e with queue := e.queue ++ [{ inPort := none, via := none, cls := opClass p.op, vc := 0, flits := 0, pkt := p }] }
  | none => s

/-- A reply to a request that came over the fabric (R344, R345). -/
def replyTo (own : DevNo) (sdev : DevNo) (part : PartNo) (epoch : BitVec 32) (txid : BitVec 24) (addr : BitVec 56)
    (op : Byte) (status : Byte) (data : List Byte) : Packet :=
  { op, len := BitVec.ofNat 9 data.length, part, sdev := own, ddev := sdev, hops := 32, addr, epoch, txid, status
    oparg := 0, rsv := false, data }

/-- A watch's party hears that its word has reached x: a tile's request is answered, a remote home's watcher is sent
FIRED (R187, R346). Intake looks at its word itself. -/
def State.fireWatch (s : State) (w : Watch) : State :=
  match w.who with
  | .tile id => { s with reqs := s.reqs.map fun r => if r.id = id then { r with st := .done 0 false } else r }
  | .remote sdev txid =>
    s.sendPacket (replyTo s.devnum sdev w.part w.epoch txid
      (BitVec.ofNat 56 (w.addr + s.devnum.toNat * 0x100000000000)) 0x13 0 [])
  | .intake _ _ => s

/-- Whether a watch fires on the word as it stands (R187). -/
def State.watchMet (s : State) (w : Watch) : Bool :=
  match w.who with
  | .intake _ _ => false
  | _ => decide (w.x.toNat ≤ s.valueAt w.addr 8)

/-- The watches on words of a written range are compared again (R187). -/
def State.checkWatches (s : State) (a n : Nat) : State :=
  if s.watches.isEmpty then s
  else
    let hit (w : Watch) : Bool := decide (w.addr < a + n) && decide (a < w.addr + 8) && s.watchMet w
    (s.watches.filter hit).foldl State.fireWatch { s with watches := s.watches.filter fun w => !hit w }

/-- Writes bytes of memory at their home and compares the watches there. -/
def State.store (s : State) (a : Nat) (bs : List Byte) : State := (s.putBytes a bs).checkWatches a bs.length

/-- A read of a store corrects a single-bit error (R183). -/
def State.correct (s : State) (a : Nat) : State :=
  let w := a / 8 * 8
  if Tab.has w s.marks && !Tab.read true w s.marks then { s with marks := Tab.erase w s.marks } else s

/-- The city address of a device address on this device. -/
def State.cityOf (s : State) (a : Nat) : Nat := s.devnum.toNat * 0x100000000000 + a

/-! ## Error logs, reports and SQUARE messages -/

/-- Whether less than the 15 ns have passed in which a log records at most one entry (R407). -/
def tooSoon (now time : Word) : Bool := decide ((now - time).toNat < 15)

/-- Whether an error log has recorded an entry within the 15 ns (R407). -/
def ErrLog.soon (l : ErrLog) (now : Word) : Bool := l.entries.any fun e => tooSoon now e.2.time

/-- Whether error log n records an entry now, or counts it as lost: how much of the 15 ns has passed the commands do not
show (R407). -/
def ErrLog.room (l : ErrLog) (n : Nat) (now : Word) : Bool := !l.soon now || Config.logged n l.head.toNat l.lost.toNat

/-- Error log n with one error more: its entry, or one lost at the rate limit (R407, R431). -/
def ErrLog.add (l : ErrLog) (n : Nat) (e : ErrEntry) : ErrLog :=
  let l := { l with corr := if e.sev = 0 then satInc l.corr else l.corr, unc := if e.sev = 1 then satInc l.unc else l.unc }
  if l.room n e.time then { l with head := l.head + 1, entries := Tab.write (l.head.toNat % 512) e l.entries }
  else { l with lost := satInc l.lost }

/-- The number of a quarter's error log, and of an edge die's. -/
def quarterLog (q : Nat) : Nat := 65 + q
def edgeLog (e : Nat) : Nat := 85 + e

/-- Who met an error or a violation: agent class and number (R406, R431). -/
structure AgentId where
  src : BitVec 4
  num : BitVec 16
  deriving DecidableEq, Repr

/-- Schedules a spot test of a unit, unless one is scheduled or under test already; a storm of corrected errors counts
as its failure (R432). -/
def State.scheduleSpot (s : State) (u : SpotUnit) (entry : Option Nat) (storm : Bool) : State :=
  let spots := if s.sq.spots.any fun x => x.unit = u then
      s.sq.spots.map fun (x : Spot) => if x.unit = u then { x with storm := x.storm || storm } else x
    else s.sq.spots ++ [{ unit := u, running := false, again := false, entry, storm, was := false, asked := false }]
  { s with sq := { s.sq with spots } }

/-- Whether a log shows more than 16 corrected errors of a unit within the last second (R432). -/
def ErrLog.storm (l : ErrLog) (u : SpotUnit) (now : Word) : Bool :=
  decide (16 < (l.entries.countP fun e =>
    e.2.kind == u.kind && e.2.unit.toNat == u.unit && e.2.sev == 0 && decide (now.toNat < e.2.time.toNat + 1000000000)))

/-- Records an error in a quarter's log, and schedules the unit's spot test (R183, R431, R432). -/
def State.logError (s : State) (q : Nat) (addr : Nat) (u : SpotUnit) (sev : BitVec 2) (who : AgentId) : State :=
  let e : ErrEntry := { time := s.time, addr := BitVec.ofNat 56 addr, kind := u.kind, sev
                        unit := BitVec.ofNat 32 u.unit, spot := 0, agent := who.num, src := who.src }
  let l := (s.quarter q).elog
  let n := if l.room (quarterLog q) s.time then some l.head.toNat else none
  let s := s.modQuarter q fun x => { x with elog := x.elog.add (quarterLog q) e }
  if sev.toNat < 2 then s.scheduleSpot u n ((s.quarter q).elog.storm u s.time) else s

/-- Records a report whose KIND, SEV and ADDR the spec does not give in a quarter's log: free values (R285, R308). -/
def State.recordOpen (s : State) (q unit : Nat) (who : AgentId) : State :=
  let v := Config.free s.fresh
  let e : ErrEntry := { time := s.time, addr := (Config.free (s.fresh + 1)).setWidth 56, kind := v.setWidth 8
                        sev := v.extractLsb' 8 2, unit := BitVec.ofNat 32 unit, spot := 0, agent := who.num, src := who.src }
  { s with fresh := s.fresh + 2 }.modQuarter q fun x => { x with elog := x.elog.add (quarterLog q) e }

/-- Records an error in an edge die's log, and schedules the unit's spot test (R431, R432). -/
def State.logEdgeError (s : State) (d : Nat) (addr : Nat) (u : SpotUnit) (sev : BitVec 2) (who : AgentId) : State :=
  let e : ErrEntry := { time := s.time, addr := BitVec.ofNat 56 addr, kind := u.kind, sev
                        unit := BitVec.ofNat 32 u.unit, spot := 0, agent := who.num, src := who.src }
  let l := (s.edge d).elog
  let n := if l.room (edgeLog d) s.time then some l.head.toNat else none
  let s := s.modEdge d fun x => { x with elog := x.elog.add (edgeLog d) e }
  if sev.toNat < 2 then s.scheduleSpot u n ((s.edge d).elog.storm u s.time) else s

/-- The bank of a tile memory offset (R172). -/
def tileBank (o : Nat) : Nat := (o / 8 % 16) ^^^ (o / 128 % 16) ^^^ (o / 2048 % 16)

/-- The bank of a block-store offset below 20 MiB (R177). -/
def storeBank (o : Nat) : Nat :=
  let l := o / 32
  let u := l / 5
  16 * (l % 5) + ((u % 16) ^^^ (u / 16 % 16) ^^^ (u / 256 % 16) ^^^ (u / 4096 % 16) ^^^ (u / 65536 % 2))

/-- The unit whose bank holds a store address (R432): a tile memory bank or a block-store bank. -/
def sramUnit (a : Nat) : SpotUnit :=
  if a < 0x80A00000000 then
    let o := a - 0x80000000000
    ⟨2, o / 0x2000000 * 80 + storeBank (o % 0x2000000)⟩
  else
    let o := a - 0x80A00000000
    ⟨1, o / 0x40000 * 16 + tileBank (o % 0x40000)⟩

/-- The quarter whose stores hold a store address (R194). -/
def sramQuarter (a : Nat) : Nat :=
  if a < 0x80A00000000 then (a - 0x80000000000) / 0x2000000 / 64 else (a - 0x80A00000000) / 0x10000000

/-- A read meets whatever error a store word holds: a single-bit error is corrected, either is logged (R183). -/
def State.meetSram (s : State) (a : Nat) (who : AgentId) : State :=
  let w := a / 8 * 8
  if Tab.has w s.marks then
    if Tab.read true w s.marks then s.logError (sramQuarter a) w (sramUnit a) 1 who
    else (s.correct a).logError (sramQuarter a) w (sramUnit a) 0 who
  else s

/-- The aligned addresses of the units of 2^k bytes that a range touches. -/
def unitsOf (size a n : Nat) : List Nat :=
  (List.range ((a + n + size - 1) / size - a / size)).map fun i => (a / size + i) * size

/-- Writes bytes of a store: a write of a whole word clears its error, and a narrower one reads the word and merges with it,
so that it meets the error, corrects a single-bit one and leaves an uncorrectable one marked (R182, R183). -/
def State.storeBytes (s : State) (who : AgentId) (a : Nat) (bs : List Byte) : State :=
  let s := if s.marks.isEmpty || bs.isEmpty then s
    else (unitsOf 8 a bs.length).foldl (fun (s : State) w =>
      if a ≤ w ∧ w + 8 ≤ a + bs.length then { s with marks := Tab.erase w s.marks } else s.meetSram w who) s
  s.store a bs

/-- A tile as the error logs name it (R431). -/
def State.tileAgent (_ : State) (t : Nat) : AgentId := { src := 0, num := BitVec.ofNat 16 t }

/-! ## A tile's own memory through its ports -/

/-- Bytes stored into the merging-buffer entries that hold them (R227). -/
def mbOverwrite (mb : List MbEntry) (city : Nat) (b : Byte) : List MbEntry :=
  mb.map fun e =>
    if e.line = city / 64 && bit e.mask (city % 64) then { e with data := setFld e.data (8 * (city % 64)) 8 b.toNat }
    else e

/-- Before bytes of the tile's own memory change, its global loads of them that it holds are performed: they come before the
store in program order (R227). DEDUCED (log entry 138). -/
def State.readFirst (s : State) (t base n : Nat) : State :=
  { s with reqs := s.reqs.map fun (r : Req) =>
    match r.kind, r.st with
    | .load k, .held =>
      let a := r.addr % 0x100000000000
      if r.tile = t ∧ r.addr = s.cityOf a ∧ a < base + n ∧ base < a + 2 ^ k then
        { r with st := .done (lineOf (s.bytesAt a (2 ^ k))) (s.badWord a) }
      else r
    | _, _ => r }

/-- Writes bytes of the tile's own memory at an offset, after its own held loads of them and into the unsent merging-buffer entry that holds them
(R227). -/
def State.portWrite (s : State) (t off : Nat) (bs : List Byte) : State :=
  let base := tileMemBase t + off
  let s := s.readFirst t base bs.length
  let s := if (s.tile t).gmem.mb.isEmpty then s
    else s.modTile t fun x => { x with gmem := { x.gmem with mb :=
      (bs.zipIdx.foldl (fun mb e => mbOverwrite mb (s.cityOf (base + e.2)) e.1) x.gmem.mb) } }
  s.storeBytes (s.tileAgent t) base bs

/-! ## Reports to tiles -/

/-- A wake event comes to a block; a gated block's clock starts after it (R458). -/
def State.wakeBlock (s : State) (k : Nat) : State :=
  if (s.block k).gatedAt.isSome then s.modBlock k fun b => { b with waking := true } else s

/-- A SQUARE message reaches a tile (R58, R458). -/
def State.squareMsg (s : State) (t : Nat) : State :=
  (s.modTile t fun x => { x with ctl := { x.ctl with ipend := setBit x.ctl.ipend 5 true } }).wakeBlock (blockOf t)

/-- An error report reaches a tile: bit i of ERRPEND (R458, R492). -/
def State.errorReport (s : State) (t i : Nat) : State :=
  (s.modTile t fun x => { x with ctl := { x.ctl with errpend := setBit x.ctl.errpend i true } }).wakeBlock (blockOf t)

/-- The good tiles of a partition's quarters start at the lowest number: the first tile of the partition that the
floor plan keeps (R431). -/
def State.lowestTile (s : State) (p : PartNo) : Option Nat :=
  ((s.tiles.filter fun e => e.2.part = p && !s.sq.fp.tiles.contains e.1).map (·.1)).head?

/-- TILEID (R59). -/
def State.tileId (s : State) (t : Nat) : Word := BitVec.ofNat 64 (t + (s.tile t).part.toNat * 65536)

/-- A tile stops as a double fault stops it: the Square hears of the cause and TILEID, logs it with SEV 3 and sends a SQUARE
message to the partition's lowest-numbered good tile (R74, R431). -/
def State.reportStop (s : State) (t : Nat) (code : Byte) : State :=
  let e : VioEntry := { time := s.time, addr := 0, src := 0, write := false, srcid := BitVec.ofNat 16 t, reason := code }
  let s := { s with sq := { s.sq with dlog := { s.sq.dlog with
    head := s.sq.dlog.head + 1, entries := Tab.write (s.sq.dlog.head.toNat % 4096) e s.sq.dlog.entries } } }
  let s := s.emit (.toSquare 3 code.toNat (s.tileId t).toNat)
  match s.lowestTile (s.tile t).part with
  | some u => s.squareMsg u
  | none => s

/-! ## Counters and trace -/

/-- Adds n events of a kind to the tile's performance counters that select it (R469). -/
def State.count (s : State) (t evt n : Nat) : State :=
  let x := s.tile t
  if (List.range 8).any fun k => (nth x.pcsel k 0).toNat = evt then
    s.setTile t { x with pcnt := (List.range 8).foldl (fun v k =>
      if (nth x.pcsel k 0).toNat = evt then v.setIfInBounds k (satAdd (nth v k 0) n) else v) x.pcnt }
  else s

/-- A trace buffer with one event offered to it (R470, R471). -/
def Trace.add (r : Trace) (time : Word) (kind tile : Nat) (data : Nat) : Trace :=
  if !bit r.ctl 0 || !bit r.ctl (7 + kind) then r
  else if r.full && !bit r.ctl 1 then { r with lost := satInc r.lost }
  else { r with
    entries := Tab.write r.next.toNat (time, BitVec.ofNat 64 (kind + 16 * tile + 256 * data)) r.entries
    next := r.next + 1
    full := r.full || r.next = 0xFFF }

/-- Offers an event to a block's trace buffer. -/
def State.trace (s : State) (k kind tile data : Nat) : State :=
  if bit (s.block k).trace.ctl 0 then
    s.modBlock k fun b => { b with trace := b.trace.add s.time kind tile data }
  else s

/-! ## Modes and clocks of a tile -/

/-- The mode in which the next instruction runs: the old one in a SETM shadow, else STATUS.MODE (R51). -/
def Tile.mode (x : Tile) : BitVec 2 :=
  if x.core.shLeft = 0 then x.ctl.status.extractLsb' 0 2 else x.core.shOld

/-- Whether the next instruction runs in user mode (R54). -/
def Tile.user (x : Tile) : Bool := x.mode == 0

/-- STATUS.PRECISE (R54). -/
def Tile.precise (x : Tile) : Bool := bit x.ctl.status 7

/-- The data stack limit of the mode (R19). -/
def Tile.dlim (x : Tile) : Nat := if x.user then fld x.ctl.stklim 0 6 else 32

/-- The return stack limit of the mode (R19). -/
def Tile.rlim (x : Tile) : Nat := if x.user then fld x.ctl.stklim 8 5 else 16

/-- CYCLE of a tile: the cycles of its own instructions and those that its quarter's clock has counted, less the
cycles its block spent gated (R58). -/
def State.cycle (s : State) (t : Nat) : Word :=
  let b := s.block (blockOf t)
  let q := s.quarter (quarterOf t)
  (s.tile t).core.cycle + BitVec.ofNat 64 (b.gatedAt.getD q.cycles - b.lost)

/-- IPEND: the stored SQUARE bit and the level sources, of which TIMER is CYCLE ≥ TCMP (R58, R254, R279, R285, R492). -/
def State.ipend (s : State) (t : Nat) : Word :=
  let x := s.tile t
  let b := s.block (blockOf t)
  let queue := (List.range 8).any fun k => bit x.qimask k && !(nth x.queues k .reset).msgs.isEmpty
  let dma := (nth b.dma.chans (tileIn t) .reset).evt != 0
  let v := setBit (setBit x.ctl.ipend 0 queue) 1 dma
  setBit (setBit (setBit v 2 (x.tevts != 0)) 4 (x.ctl.errpend != 0)) 3 (decide (x.ctl.tcmp ≤ s.cycle t))

/-! ## Stacks -/

/-- The entry n below T (R18). -/
def Core.entry (c : Core) (n : Nat) : Word := nth c.ds (c.d - 1 - n) 0

/-- Writes a data-stack slot (R18). -/
def Core.setSlot (c : Core) (i : Nat) (v : Word) : Core := { c with ds := c.ds.setIfInBounds i v }

/-- The return stack's top. -/
def Core.rtop (c : Core) : Word := nth c.rs (c.rd - 1) 0

/-! ## Results in flight (R26 to R30) -/

/-- One result lands: it writes its slot or bytes, sets its FCSR flags, and raises its exception, of which the one
whose producer issued first stays pending (R26, R27, R65). -/
def State.land (s : State) (t : Nat) (f : Flight) : State :=
  let s := match f.dest with
    | .data i v => s.modTile t fun x => { x with core := x.core.setSlot i v }
    | .vec i v => s.modTile t fun x => { x with vec := { x.vec with vs := x.vec.vs.setIfInBounds i v } }
    | .scatter ls => ls.foldl (fun (s : State) (e : Nat × List Byte) => s.portWrite t e.1 e.2) s
    | .flagsOnly => s
  s.modTile t fun x =>
    { x with
      ctl := { x.ctl with fcsr := x.ctl.fcsr ||| f.flags.setWidth 64 }
      core := { x.core with impr :=
        match f.exc with
        | none => x.core.impr
        | some c =>
          match x.core.impr with
          | some (c', p', o') => if f.ord < o' then some (c, f.pc, f.ord) else some (c', p', o')
          | none => some (c, f.pc, f.ord) } }

/-- Takes results out of flight and lands them in the order given. -/
def State.landList (s : State) (t : Nat) (l rest : List Flight) : State :=
  l.foldl (fun s f => s.land t f) (s.modTile t fun x => { x with core := { x.core with flight := rest } })

/-- Lands every result that is due, in issue order (R26, R27). -/
def State.landDue (s : State) (t : Nat) : State :=
  let fl := (s.tile t).core.flight
  if fl.isEmpty then s
  else s.landList t (fl.filter fun f => f.rem = 0) (fl.filter fun f => f.rem ≠ 0)

/-- The cycles that the results in flight still take to land. -/
def longest (fl : List Flight) : Nat := fl.foldl (fun n f => Nat.max n f.rem) 0

/-- Cycles pass for a tile in which nothing issues: CYCLE counts them and the vector port's occupancy runs (R58, R125). -/
def Tile.idle (x : Tile) (n : Nat) : Tile :=
  { x with core := { x.core with cycle := x.core.cycle + BitVec.ofNat 64 n }, vec := { x.vec with port := x.vec.port - n } }

/-- Lands every result in flight at one instruction boundary, in issue order, in the cycles that they still take (R27, R28,
R72). -/
def State.drain (s : State) (t : Nat) : State :=
  let fl := (s.tile t).core.flight
  if fl.isEmpty then s else (s.landList t fl []).modTile t fun x => x.idle (longest fl)

/-! ## Control-register writes that have a rule of their own (R52 to R59) -/

/-- The value that a CWR leaves in a register, from the value it holds (R54 to R59). -/
def ctlWrite (c : Ctl) (i : Byte) (v : Word) : Ctl :=
  match i.toNat with
  | 0x00 =>
    let old := c.status
    let rw := 0xCFFC#64
    let w := (old &&& ~~~rw) ||| (v &&& rw)
    { c with status := if bit v 12 then setBit w 12 false else w }
  | 0x01 => { c with epc := (v.setWidth 56) &&& ~~~1#56 }
  | 0x02 => { c with ecause := v &&& 0x703FF }
  | 0x03 => { c with eval := v }
  | 0x04 => { c with evec := v &&& 0xFFFFFFFFFFFF00 }
  | 0x05 => { c with escr0 := v }
  | 0x06 => { c with escr1 := v }
  | 0x09 =>
    let d := fld v 0 6
    let r := fld v 8 5
    let d := if d = 0 then 1 else if d > 32 then 32 else d
    let r := if r > 16 then 16 else r
    { c with stklim := BitVec.ofNat 64 (d + 256 * r) }
  | 0x0A => { c with lc0 := v }
  | 0x0B => { c with lc1 := v }
  | 0x0C => { c with la0 := (v.setWidth 56) &&& ~~~1#56 }
  | 0x0D => { c with la1 := (v.setWidth 56) &&& ~~~1#56 }
  | 0x0E => { c with lctl := v &&& 0x3FFFF }
  | 0x10 => { c with fcsr := (c.fcsr &&& 0x7F &&& ~~~v) ||| (v &&& 0x11F00) }
  | 0x11 => { c with waitlim := v &&& 0xFFFFFFFFFF }
  | 0x12 => { c with holdlim := if fld v 0 10 > 512 then 512 else v &&& 0x3FF }
  | 0x13 => { c with ien := v &&& 0x3F }
  | 0x16 => { c with tcmp := v }
  | 0x17 => { c with errpend := c.errpend &&& ~~~v }
  | 0x18 => { c with cachectl := v &&& 7 }
  | 0x19 => { c with qsel := (c.qsel &&& 0x700) ||| (v &&& 1) }
  | 0x1A => { c with tstart := v &&& 0xF }
  | _ => c

/-- STATUS as CRD reads it: HOLDA follows the open window (R54). -/
def Tile.statusRead (x : Tile) : Word := setBit x.ctl.status 13 x.core.hold.isSome

/-- DEPTH (R56). -/
def Tile.depth (x : Tile) : Word :=
  BitVec.ofNat 64 (x.core.d + 0x100 * x.core.rd + 0x10000 * x.gmem.slots.length + 0x100000 * x.gmem.mb.length)

/-- The value of a control register (R53). -/
def State.ctlRead (s : State) (t : Nat) (i : Byte) : Word :=
  let x := s.tile t
  let c := x.ctl
  match i.toNat with
  | 0x00 => x.statusRead
  | 0x01 => c.epc.setWidth 64
  | 0x02 => c.ecause
  | 0x03 => c.eval
  | 0x04 => c.evec
  | 0x05 => c.escr0
  | 0x06 => c.escr1
  | 0x08 => x.depth
  | 0x09 => c.stklim
  | 0x0A => c.lc0
  | 0x0B => c.lc1
  | 0x0C => c.la0.setWidth 64
  | 0x0D => c.la1.setWidth 64
  | 0x0E => c.lctl
  | 0x10 => c.fcsr
  | 0x11 => c.waitlim
  | 0x12 => c.holdlim
  | 0x13 => c.ien
  | 0x14 => s.ipend t
  | 0x15 => s.cycle t
  | 0x16 => c.tcmp
  | 0x17 => c.errpend
  | 0x18 => c.cachectl
  | 0x19 => c.qsel
  | 0x1A => c.tstart
  | 0x1C => 0x3F02
  | 0x1D => s.tileId t
  | _ => 0

/-- Applies the control-register writes whose instruction distance has run out (R52). -/
def Tile.applyCwrs (x : Tile) : Tile :=
  { x with
    ctl := (x.core.cwrs.filter fun w => w.rem = 0).foldl (fun c w => ctlWrite c w.index w.value) x.ctl
    core := { x.core with cwrs := x.core.cwrs.filter fun w => w.rem ≠ 0 } }

/-- Applies every control-register write under way. -/
def Tile.flushCwrs (x : Tile) : Tile :=
  { x with
    ctl := x.core.cwrs.foldl (fun c w => ctlWrite c w.index w.value) x.ctl
    core := { x.core with cwrs := [] } }

/-! ## Taking an exception and returning from one -/

/-- The registers that entry writes on a tile whose results have landed (R71). -/
def Tile.entered (x : Tile) (code : Byte) (intr impr : Bool) (obj : Nat) (value : Word) : Tile :=
  let c := x.ctl
  let st := c.status
  let sh := x.core.shLeft
  let st := setFld (setFld st 9 1 (if sh > 0 then 1 else 0)) 10 2 sh
  let st := setFld (setFld st 2 2 (if sh > 0 then x.core.shOld.toNat else fld c.status 0 2))
              14 2 (if sh > 0 then x.core.shNew.toNat else 0)
  let st := setFld (setFld st 8 1 (if x.core.branch.isSome then 1 else 0)) 5 1 (fld c.status 4 1)
  let st := setFld (setFld (setFld st 4 1 0) 6 1 1) 0 2 1
  let cause := BitVec.ofNat 64 (code.toNat + 256 * intr.toNat + 512 * impr.toNat + 65536 * obj)
  { x with
    ctl := { c with
      status := st
      ecause := cause
      epc := match x.core.branch with | some b => b.pc | none => x.core.pc
      eval := match x.core.branch with | some b => b.target.setWidth 64 | none => value }
    core := { x.core with
      branch := none, shLeft := 0, hold := none, doing := .issue
      pc := c.evec.setWidth 56 + (if intr then 0x80 else 0) } }

/-- Takes an exception (R71): every result lands, and a precise fault under EXL is a double fault, which stops the
tile with its entire state (R74). The handler's first instruction issues 4 cycles later and after any miss on its vector
(R72). -/
def State.enter (s : State) (t : Nat) (code : Byte) (intr impr : Bool) (obj : Nat) (value : Word) : State :=
  let s := s.drain t
  let x := s.tile t
  if !intr && !impr && bit x.ctl.status 6 then
    (s.setTile t { x with core := { x.core with run := .halted, doing := .issue } }).reportStop t code
  else
    let y := (x.flushCwrs.entered code intr impr obj value).idle (4 + Config.freeze t x.core.issued)
    let s := (s.setTile t { y with core := { y.core with issued := y.core.issued + 1 } }).count t 12 1
    s.trace (blockOf t) 6 (tileIn t) (fld y.ctl.ecause 0 10 + 1024 * fld y.ctl.epc 1 46)

/-- Takes a precise fault (R64). -/
def State.fault (s : State) (t : Nat) (code : Byte) (value : Word) : State := s.enter t code false false 0 value

/-- What ERET does to the tile's registers (R73): `branch` stands so that the delay-slot instruction issues at EPC + 2
and the core then continues at EVAL. DESIGN CHOICE (log entry 124): a PMODE or NMODE of 0b10 or 0b11, to which the spec gives no
mode, comes into MODE as it is, and the tile then runs as supervisor code does. DEDUCED (log entry 125): EVAL stands as entry
wrote it, although the fetch of a delay slot of several parcels may have failed before its length was known. -/
def Tile.returned (x : Tile) : Tile :=
  let c := x.ctl
  let st := c.status
  let sh := bit st 9
  let ds := bit st 8
  let st := setFld (setFld st 4 1 (fld c.status 5 1)) 6 1 0
  let st := setFld st 0 2 (if sh then fld c.status 14 2 else fld c.status 2 2)
  let st := if sh then setFld (setFld st 9 1 0) 10 2 0 else st
  let st := if ds then setFld st 8 1 0 else st
  { x with
    ctl := { c with status := st }
    core := { x.core with
      hold := none
      shLeft := if sh then fld c.status 10 2 else 0
      shOld := c.status.extractLsb' 2 2
      shNew := c.status.extractLsb' 14 2
      branch := if ds then some { pc := c.epc, target := c.eval.setWidth 56 &&& ~~~1#56, follow := false, link := none
                                  lctl := c.lctl }
                else none
      pc := if ds then c.epc + 2 else c.epc } }

/-- A window that has run its cycles expires: HOLDX is set where interrupts are enabled and one is pending (R83). -/
def State.expireHold (s : State) (t : Nat) : State :=
  let pend := bit (s.tile t).ctl.status 4 && (s.ipend t &&& (s.tile t).ctl.ien) != 0
  s.modTile t fun x =>
    { x with
      core := { x.core with hold := none }
      ctl := { x.ctl with status := if pend then setBit x.ctl.status 12 true else x.ctl.status } }

/-- Expires a window whose end CYCLE has reached. -/
def State.checkHold (s : State) (t : Nat) : State :=
  match (s.tile t).core.hold with
  | some e => if e ≤ s.cycle t then s.expireHold t else s
  | none => s

/-! ## What comes before the next instruction -/

/-- The highest-priority source that is pending and enabled (R76). -/
def intSource (pend : Word) : Option Nat := [4, 5, 3, 2, 1, 0].find? fun i => bit pend i

/-- The interrupt that a tile may take now: STATUS.IE, no open window, no result in flight, a source pending and enabled
(R29, R58, R82). -/
def State.interrupt? (s : State) (t : Nat) : Option Nat :=
  let x := s.tile t
  if bit x.ctl.status 4 && x.core.hold.isNone && x.core.flight.isEmpty then intSource (s.ipend t &&& x.ctl.ien) else none

/-- Whether a pending imprecise exception is taken before the next instruction (R65). -/
def Tile.imprReady (x : Tile) : Bool :=
  x.core.impr.isSome && x.core.flight.isEmpty && !bit x.ctl.status 6 && x.core.branch.isNone

/-- Whether an imprecise exception or an interrupt is taken before the next instruction (R29, R65, R66, R70). -/
def State.entersFirst (s : State) (t : Nat) : Bool :=
  (s.tile t).imprReady || ((s.tile t).core.branch.isNone && (s.interrupt? t).isSome)

end Sys2Proof.Machine
end

