-- ==== Sys2Proof/Machine/Flags.lean ====
section
/-! DEFINITION. FCSR: the sticky flags, and the exception that an operation's flags raise (R57, R65, R67). -/

namespace Sys2Proof.Machine

/-- FCSR.NX. -/
def flagNX : BitVec 7 := 0x01

/-- FCSR.UF. -/
def flagUF : BitVec 7 := 0x02

/-- FCSR.OF. -/
def flagOF : BitVec 7 := 0x04

/-- FCSR.DZ. -/
def flagDZ : BitVec 7 := 0x08

/-- FCSR.NV. -/
def flagNV : BitVec 7 := 0x10

/-- FCSR.SAT. -/
def flagSAT : BitVec 7 := 0x20

/-- FCSR.IDZ. -/
def flagIDZ : BitVec 7 := 0x40

/-- The arithmetic exception that an operation's flags raise: an integer division by zero always does, and the
floating-point conditions do under FCSR.TEN, the first in the order NV, DZ, OF, UF, NX (R32, R67). -/
def trapCode (fcsr : Word) (f : BitVec 7) : Option Byte :=
  let en := f &&& (fcsr.extractLsb' 8 7) &&& 0x1F
  if f &&& flagIDZ ≠ 0 then some 0x20
  else if en &&& flagNV ≠ 0 then some 0x21
  else if en &&& flagDZ ≠ 0 then some 0x22
  else if en &&& flagOF ≠ 0 then some 0x23
  else if en &&& flagUF ≠ 0 then some 0x24
  else if en &&& flagNX ≠ 0 then some 0x25
  else none

/-- FCSR.NOSAT. -/
def nosat (fcsr : Word) : Bool := bit fcsr 16

end Sys2Proof.Machine
end

