-- ==== Sys2Proof/Machine/Operands.lean ====
section
/-! DEFINITION. The operand forms of an instruction's parcel (R20, R31, R33, R35, R42, R117, R118, R121): which
operand bytes are defined, and what they name. -/

namespace Sys2Proof.Machine

/-- A reserved operand byte: it must be 0 (R20). -/
def opNone (b : Byte) : Bool := b == 0

/-- An operand byte whose bits above the low n are reserved (R20). -/
def opLow (n : Nat) (b : Byte) : Bool := b.toNat < 2 ^ n

/-- An operand byte whose value lies from lo to hi. -/
def opRange (lo hi : Nat) (b : Byte) : Bool := decide (lo ≤ b.toNat) && decide (b.toNat ≤ hi)

/-- A signed displacement (R33, R35, R124). -/
def disp (b : Byte) : Int := b.toInt

/-- The target of a relative branch at A (R35). -/
def relTarget (pc : BitVec 56) (b : Byte) : BitVec 56 := pc + 2 + BitVec.ofInt 56 (2 * disp b)

/-- A local access's offset off + disp × s, formed in 64 bits (R33). -/
def localOff (off : Word) (b : Byte) (s : Nat) : Word := off + BitVec.ofInt 64 (disp b * s)

/-- A global load's size and extension fields (R42). -/
def opLoad (b : Byte) : Bool := opLow 3 b

/-- A global store's size field (R42). -/
def opStore (b : Byte) : Bool := opLow 2 b

/-- The format field F (R116). -/
def fmtOf (b : Byte) : Nat := fld b 0 3

/-- Bytes per element of a format (R116). -/
def elemBytes (f : Nat) : Nat :=
  match f with
  | 0 => 8 | 1 => 4 | 2 => 2 | 3 => 2 | 4 => 8 | 5 => 4 | 6 => 2 | _ => 1

/-- Whether F names a floating-point format (R116). -/
def isFp (f : Nat) : Bool := f < 4

/-- The R117 operand byte with a function code below `fns`; U and S are reserved for a floating-point F. -/
def opArith (fns : Nat) (b : Byte) : Bool :=
  decide (fld b 5 3 < fns) && (!isFp (fmtOf b) || fld b 3 2 = 0)

/-- The element bytes that a width code names: 1, 2, 4 or 8 (R118). -/
def widthOf (code : Nat) : Nat := 2 ^ code

/-- The bits of a VCVT format code, none for a reserved one (R121). -/
def cvtBits (c : Nat) : Option Nat :=
  match c with
  | 0x0 => some 64 | 0x1 => some 32 | 0x2 => some 16 | 0x3 => some 16 | 0x4 => some 8 | 0x5 => some 8
  | 0x8 => some 64 | 0x9 => some 32 | 0xA => some 16 | 0xB => some 8 | 0xC => some 4 | 0xD => some 8 | 0xE => some 4
  | _ => none

end Sys2Proof.Machine
end

