-- ==== Sys2Proof/Machine/Issue.lean ====
section
/-! DEFINITION. What one instruction at a tile is made of: the checks of R70 that look at the parcel and the depths, the
instruction's own effect, and what follows every instruction: the next PC, the delay slot, the loop-back, the SETM
shadow, the results and register writes whose distance runs (R19, R26, R35 to R41, R51, R52). -/

namespace Sys2Proof.Machine

/-- What an instruction's parcel says of it: its opcode and operand byte, its length in parcels, whether the operand
byte is defined (R20), whether only supervisor mode has it (R50), where it may not stand (R36, R40, R78, R125), and
its stack effects (R19, R115). `need` is the number of data entries it reaches where that exceeds what it pops. -/
structure Form where
  opc      : Byte
  opb      : Byte
  parcels  : Nat := 1
  legal    : Bool := true
  sup      : Bool := false
  noSlot   : Bool := false
  noEnd    : Bool := false
  noShadow : Bool := false
  port     : Bool := false
  /-- The place is one that the instruction's own rule refuses (R40). -/
  barred   : Bool := false
  need     : Nat := 0
  din      : Nat := 0
  dout     : Nat := 0
  rin      : Nat := 0
  rout     : Nat := 0
  vneed    : Nat := 0
  vin      : Nat := 0
  vout     : Nat := 0
  deriving DecidableEq, Repr

/-- The instruction's first parcel, zero-extended (R20). -/
def Form.parcel (f : Form) : Word := BitVec.ofNat 64 (f.opc.toNat * 256 + f.opb.toNat)

/-- Where the core goes on: at the next instruction, through a delay slot, or at an address. -/
inductive Flow where
  | seq
  | branch (b : Branch)
  | jump (pc : BitVec 56)
  deriving DecidableEq, Repr

/-- What an instruction does once the checks of its parcel have passed: its effect and where the core goes on, a
precise fault in a state, or a hold of issue. -/
inductive Res where
  | ok (s : State) (f : Flow)
  | trap (s : State) (code : Byte) (value : Word) (obj : Nat)
  | hold (s : State)

/-! ## Loop levels (R38 to R41) -/

/-- Whether a loop level is active. -/
def Ctl.act (c : Ctl) (l : Nat) : Bool := bit c.lctl (16 + l)

/-- First byte of a level's body. -/
def Ctl.bodyStart (c : Ctl) (l : Nat) : Nat := if l = 0 then c.la0.toNat else c.la1.toNat

/-- First byte after a level's body. -/
def Ctl.bodyEnd (c : Ctl) (l : Nat) : Nat := c.bodyStart l + 2 * fld c.lctl (8 * l) 8

/-- Whether an address lies in the body of an active level. -/
def Ctl.inBody (c : Ctl) (l a : Nat) : Bool :=
  c.act l && decide (c.bodyStart l ≤ a) && decide (a < c.bodyEnd l)

/-- Whether an instruction is the last one of an active level's body. -/
def Ctl.isLast (c : Ctl) (a len : Nat) : Bool :=
  (c.inBody 0 a && c.bodyEnd 0 == a + len) || (c.inBody 1 a && c.bodyEnd 1 == a + len)

/-- The loop-back decisions at an instruction, level 1 first: the registers afterwards and the address, if the body
starts again (R38, R39). -/
def Ctl.loopBack (c : Ctl) (a len : Nat) : Ctl × Option (BitVec 56) :=
  let one (c : Ctl) : Ctl × Option (BitVec 56) :=
    if c.inBody 1 a && c.bodyEnd 1 == a + len then
      let c' := { c with lc1 := c.lc1 - 1 }
      if c'.lc1 ≠ 0 then (c', some c.la1) else ({ c' with lctl := setBit c.lctl 17 false }, none)
    else (c, none)
  let zero (c : Ctl) : Ctl × Option (BitVec 56) :=
    if c.inBody 0 a && c.bodyEnd 0 == a + len then
      let c' := { c with lc0 := c.lc0 - 1 }
      if c'.lc0 ≠ 0 then (c', some c.la0) else ({ c' with lctl := setBit c.lctl 16 false }, none)
    else (c, none)
  match one c with
  | (c, some p) => (c, some p)
  | (c, none) => zero c

/-- A taken branch or jump at A ends the levels whose bodies it leaves, with the levels inside them (R41). -/
def Ctl.leave (c : Ctl) (a target : Nat) : Ctl :=
  let out (l : Nat) : Bool := c.inBody l a && !(decide (c.bodyStart l ≤ target) && decide (target < c.bodyEnd l))
  let inner : Bool := c.act 1 && decide (c.bodyStart 0 ≤ c.bodyStart 1) && decide (c.bodyEnd 1 ≤ c.bodyEnd 0)
  let end1 := out 1 || (out 0 && inner)
  let w := if out 0 then setBit c.lctl 16 false else c.lctl
  { c with lctl := if end1 then setBit w 17 false else w }

/-! ## The checks of R70, steps 2 to 5 -/

/-- Whether an instruction is the last one of a loop body: of a level active now, or, for a delay slot, of one that was active
when its branch issued (R40). -/
def Tile.endsBody (x : Tile) (len : Nat) : Bool :=
  x.ctl.isLast x.core.pc.toNat len ||
    match x.core.branch with
    | some b => { x.ctl with lctl := b.lctl }.isLast x.core.pc.toNat len
    | none => false

/-- The first of the precise conditions that the parcel, the place and the depths decide, with its EVAL (R19, R36,
R40, R50, R67, R70, R78, R115, R125, R127). DEDUCED (log entry 126): an instruction that leaves a depth above the limit of its
mode overflows, whether or not it raises that depth. -/
def Tile.check (x : Tile) (f : Form) : Option (Byte × Word) :=
  let c := x.core
  if !f.legal then some (0x01, f.parcel)
  else if f.sup && x.user then some (0x02, f.parcel)
  else if f.barred || (f.noSlot && c.branch.isSome) || (f.noShadow && c.shLeft ≠ 0)
      || ((f.noEnd || c.branch.isSome) && x.endsBody (2 * f.parcels))
      || (f.port && x.vec.port ≠ 0) then some (0x03, f.parcel)
  else if c.d < f.din ∨ c.d < f.need then some (0x04, 0)
  else if c.rd < f.rin then some (0x04, 1)
  else if c.d - f.din + f.dout > x.dlim then some (0x05, 0)
  else if c.rd - f.rin + f.rout > x.rlim then some (0x05, 1)
  else if x.vec.vd < f.vin ∨ x.vec.vd < f.vneed then some (0x30, BitVec.ofNat 64 x.vec.vd)
  else if x.vec.vd - f.vin + f.vout > 8 then some (0x31, BitVec.ofNat 64 x.vec.vd)
  else none

/-! ## Effects -/

/-- Pops data entries and puts results in flight for the new slots (R18, R26). -/
def State.push (s : State) (t pops : Nat) (vals : List Word) (d : Nat) : State :=
  s.modTile t fun x =>
    let c := x.core
    let base := c.d - pops
    let fl := vals.mapIdx fun i v =>
      { ord := c.issued, rem := d + 1, dest := .data (base + i) v, flags := 0, exc := none, pc := c.pc : Flight }
    { x with core := { c with d := base + vals.length, flight := c.flight ++ fl } }

/-- Pops vector entries and puts results in flight for the new vector slots (R114). -/
def State.pushV (s : State) (t pops : Nat) (vals : List Line) (d : Nat) : State :=
  s.modTile t fun x =>
    let c := x.core
    let base := x.vec.vd - pops
    let fl := vals.mapIdx fun i v =>
      { ord := c.issued, rem := d + 1, dest := .vec (base + i) v, flags := 0, exc := none, pc := c.pc : Flight }
    { x with vec := { x.vec with vd := base + vals.length }, core := { c with flight := c.flight ++ fl } }

/-- Puts an instruction's FCSR flags, and the exception they raise, in flight with its results (R57, R65). -/
def State.putFlags (s : State) (t d : Nat) (flags : BitVec 7) (exc : Option Byte) : State :=
  if flags = 0 ∧ exc = none then s
  else s.modTile t fun x =>
    { x with core := { x.core with flight := x.core.flight ++
      [{ ord := x.core.issued, rem := d + 1, dest := .flagsOnly, flags, exc, pc := x.core.pc }] } }

/-- An arithmetic instruction's outcome: its exception is precise under PRECISE, and then it has no effect (R80); else
its results, flags and exception fly. -/
def State.arith (s : State) (t pops : Nat) (vals : List Word) (vpops : Nat) (vvals : List Line) (d : Nat)
    (flags : BitVec 7) : Res :=
  let x := s.tile t
  match trapCode x.ctl.fcsr flags, x.precise with
  | some c, true => .trap s c (x.core.pc.setWidth 64) 0
  | e, _ => .ok ((((s.push t pops vals d).pushV t vpops vvals d)).putFlags t d flags e) .seq

/-- An instruction's outcome that pops and pushes data entries and sets no flag. -/
def State.gives (s : State) (t pops : Nat) (vals : List Word) (d : Nat) : Res := .ok (s.push t pops vals d) .seq

/-- Changes what the tile does with its instruction stream. -/
def State.setDoing (s : State) (t : Nat) (d : Doing) : State :=
  s.modTile t fun x => { x with core := { x.core with doing := d } }

/-! ## What follows every instruction -/

/-- Where the core goes on after an instruction that completes at its address (R35, R38). -/
def Tile.advance (x : Tile) (len : Nat) (flow : Flow) : Tile :=
  let c := x.core
  match flow with
  | .jump a => { x with core := { c with pc := a } }
  | .branch b => { x with core := { c with branch := some b, pc := c.pc + 2 } }
  | .seq =>
    match c.branch with
    | some b => { x with core := { c with branch := none, pc := b.target } }
    | none =>
      let (ctl, back) := x.ctl.loopBack c.pc.toNat len
      { x with ctl := ctl, core := { c with pc := back.getD (c.pc + BitVec.ofNat 56 len) } }

/-- One instruction counts: the shadow, the results, the register writes, the port and CYCLE, with the freezes before the
instruction, move on (R21, R26, R51, R52, R58, R125). -/
def Tile.tickIssue (x : Tile) (t : Nat) (f : Form) : Tile :=
  let c := x.core
  { x with
    vec := { x.vec with port := x.vec.port - 1 }
    core := { c with
      shLeft := if f.noShadow then c.shLeft else c.shLeft - 1
      flight := c.flight.map fun r => { r with rem := r.rem - 1 }
      cwrs := c.cwrs.map fun w => { w with rem := w.rem - 1 }
      cycle := c.cycle + BitVec.ofNat 64 (1 + Config.freeze t c.issued)
      doing := .issue } }

/-- An instruction completes (R26, R30, R38). A result of distance 0 lands now, after the older ones due at the same
boundary; PRECISE lands every result. -/
def State.retire (s : State) (t : Nat) (f : Form) (flow : Flow) : State :=
  let x := s.tile t
  let prec := x.precise
  let x := ((x.advance (2 * f.parcels) flow).tickIssue t f).applyCwrs
  let ord := x.core.issued
  let now := x.core.flight.any fun r => r.rem = 0 && r.ord == ord
  let s := s.setTile t { x with core := { x.core with issued := ord + 1 } }
  let s := if prec then s.drain t else if now then s.landDue t else s
  let s := (s.count t 1 1).count t 2 1
  if 0xA0 ≤ f.opc.toNat ∧ f.opc.toNat ≤ 0xBF then s.count t 13 1 else s

/-- What an instruction's outcome does to the machine. -/
def Res.conclude (t : Nat) (f : Form) (r : Res) : State :=
  match r with
  | .ok s' flow => s'.retire t f flow
  | .trap s' code v obj => s'.enter t code false false obj v
  | .hold s' => s'

/-- Whether the tile can issue an instruction: it runs, is not parked, and holds issue for nothing. -/
def Tile.canIssue (x : Tile) : Bool :=
  x.core.run == .running && x.core.doing == .issue && !x.parked && x.resetting == none

/-- The delay-slot instruction shows its length: the address after it is known (R35). -/
def Tile.resolveSlot (x : Tile) (parcels : Nat) : Tile :=
  match x.core.branch with
  | none => x
  | some b =>
    let extra := BitVec.ofNat 56 (2 * (parcels - 1))
    let rs := match b.link with
      | some i => x.core.rs.setIfInBounds i (nth x.core.rs i 0 + extra.setWidth 64)
      | none => x.core.rs
    { x with core := { x.core with
      rs := rs
      branch := some { b with target := if b.follow then b.target + extra else b.target, follow := false, link := none } } }

/-- What a command answers. -/
abbrev Ans := Host.Outcome State Fault Refusal

/-- The entry n below T of a tile's data stack. -/
def State.arg (s : State) (t n : Nat) : Word := (s.tile t).core.entry n

/-- The entry n below VT of a tile's vector stack. -/
def State.varg (s : State) (t n : Nat) : Line := let v := (s.tile t).vec; nth v.vs (v.vd - 1 - n) 0

/-- Rewrites the entry n below T in place, as a long instruction does with its operands (R49). -/
def State.setArg (s : State) (t n : Nat) (v : Word) : State :=
  s.modTile t fun x => { x with core := x.core.setSlot (x.core.d - 1 - n) v }

/-- Whether the tile's core goes on at all: it runs and is not under reset (R74, R426). -/
def Tile.alive (x : Tile) : Bool := x.core.run == .running && x.resetting == none

/-- The waiting instruction that the core spins in, if any (R46). -/
def Tile.waitsIn (x : Tile) : Option (Byte × Byte) :=
  match x.core.doing with
  | .wait opc opb => if x.alive then some (opc, opb) else none
  | _ => none

/-- The long instruction that holds issue, if any (R49). -/
def Tile.longIn (x : Tile) : Option (Byte × Byte) :=
  match x.core.doing with
  | .long opc opb => if x.alive then some (opc, opb) else none
  | _ => none

/-- The form of an instruction that a tile holds, as its events complete it. -/
def heldForm (opc opb : Byte) : Form := { opc, opb }

end Sys2Proof.Machine
end

