-- ==== Sys2Proof/Machine/Home.lean ====
section
/-! DEFINITION. Homes: the device address space, who owns an address, the answer to an access that the ownership map
denies, and reads and writes at the home (R194 to R205, R183, R243, R405). -/

namespace Sys2Proof.Machine

/-- 1 GiB. -/
def gib : Nat := 0x40000000

/-- The parts of the device address space (R194). -/
inductive Region where
  | hbm (q : Nat)
  | ddr
  | store (k : Nat)
  | tmem (t : Nat)
  | qctl (q : Nat)
  | edge (e : Nat)
  | square
  | reserved
  deriving DecidableEq, Repr

/-- The region that holds a device address (R194). -/
def regionOf (a : Nat) : Region :=
  if a < 0x14000000000 then .hbm (a / 0x1000000000)
  else if a < 0x20000000000 then .reserved
  else if a < 0x80000000000 then .ddr
  else if a < 0x80A00000000 then .store ((a - 0x80000000000) / 0x2000000)
  else if a < 0x80B40000000 then
    let o := a - 0x80A00000000
    .tmem (o / 0x40000)
  else if a < 0xF0000000000 then .reserved
  else if a < 0xF1400000000 then .qctl ((a - 0xF0000000000) / 0x100000000)
  else if a < 0xFF000000000 then .reserved
  else if a < 0xFF300000000 then .edge ((a - 0xFF000000000) / 0x100000000)
  else if a < 0xFF800000000 then .reserved
  else if a < 0xFF900000000 then .square
  else .reserved

/-- Populated DDR5 channels in use, after R416. -/
def State.channelCount (s : State) : Nat := (List.range 24).countP fun c => bit s.pop.channels c

/-- V: the visible DDR5 tier in bytes (R203). -/
def State.tierSize (s : State) : Nat := 7 * s.channelCount * s.pop.moduleGib * gib / 8

/-- The host region's size in bytes (R204). -/
def State.hostSize (s : State) : Nat :=
  match s.sq.record with
  | some r => r.hostGib.toNat * gib
  | none => 0

/-- First device address of the host region (R204). -/
def State.hostBase (s : State) : Nat := 0x20000000000 + s.tierSize - s.hostSize

/-- Bytes of a stack (R198). -/
def State.stackSize (s : State) : Nat := if s.pop.tall then 64 * gib else 48 * gib

/-- The edge die and channel of a DDR5 tier address (R203). -/
def State.ddrChannel (s : State) (a : Nat) : Nat :=
  let c := s.channelCount
  let i := (a - 0x20000000000) / 4096 % c
  let die := i % 3
  let mine := (List.range 8).filter fun k => bit s.pop.channels (8 * die + k)
  8 * die + mine.getD (i / 3) 0

/-- The data address of a DDR5 tier address in its channel (R203). -/
def State.channelData (s : State) (a : Nat) : Nat :=
  (a - 0x20000000000) / 4096 / s.channelCount * 4096 + a % 4096

/-- The MAC slot of a DDR5 tier line, at bits 55:0 of the 8 bytes at this address of its module: the slots fill the module's top
eighth, which no device address reaches (R203, R398). -/
def State.macSlot (s : State) (a : Nat) : Nat := 7 * s.pop.moduleGib * gib / 8 + s.channelData a / 64 * 8

/-- The pseudo-channel of a stack offset (R199). -/
def pseudoChannel (o : Nat) : Nat :=
  (o / 0x100 % 64) ^^^ (o / 0x4000 % 64) ^^^ (o / 0x100000 % 64) ^^^ (o / 0x4000000 % 64) ^^^ (o / 0x100000000 % 16)

/-- Who makes an access: its class and number in the logs, its partition (none for the Square in machine mode), and
whether it is a user-mode access. -/
structure Who where
  src  : BitVec 4
  num  : BitVec 16
  part : Option PartNo
  user : Bool
  deriving DecidableEq, Repr

/-- The Square in machine mode (R197). -/
def whoSquare : Who := { src := 0, num := 0, part := none, user := false }

/-- The log's name of an agent. -/
def Who.agent (w : Who) : AgentId := { src := w.src, num := w.num }

/-- A tile's accesses. -/
def State.whoTile (s : State) (t : Nat) : Who :=
  { src := 0, num := BitVec.ofNat 16 t, part := some (s.tile t).part, user := (s.tile t).user }

/-- The owner of an address by the ownership map (R419), none where no partition has it. -/
def State.ownerOf (s : State) (a : Nat) : Option PartNo :=
  match regionOf a with
  | .hbm q =>
    let o := a % 0x1000000000
    ((s.quarter q).grants.find? fun g =>
      decide (g.2.hbBase.toNat * gib ≤ o) && decide (o < (g.2.hbBase.toNat + g.2.hbSize.toNat) * gib)).map
      fun g => BitVec.ofNat 6 g.1
  | .ddr =>
    let o := a - 0x20000000000
    ((s.quarters.flatMap fun e => e.2.grants).find? fun g =>
      decide (g.2.ddBase.toNat * gib ≤ o) && decide (o < (g.2.ddBase.toNat + g.2.ddSize.toNat) * gib)).map
      fun g => BitVec.ofNat 6 g.1
  | .store k =>
    let o := (a - 0x80000000000) % 0x2000000
    ((s.quarter (k / 64)).grants.find? fun g =>
      decide (g.2.bsBase.toNat * 0x100000 ≤ o) && decide (o < (g.2.bsBase.toNat + g.2.bsSize.toNat) * 0x100000)).map
      fun g => BitVec.ofNat 6 g.1
  | .tmem t => (s.quarter (t / 1024)).running
  | .qctl q => (s.quarter q).running
  | _ => none

/-- Whether a partition holds a quarter, running there or switched out (R419, R422). -/
def State.holds (s : State) (p : PartNo) (q : Nat) : Bool := Tab.has p.toNat (s.quarter q).grants

/-- How a home answers an access: it serves it, denies it for a reason of R406, or absorbs it without a record
(R195, R243, R405, R416). -/
inductive Access where
  | serve
  | deny (reason : Byte)
  | absorb
  deriving DecidableEq, Repr

/-- The answer to an access to memory, by its address and requester (R195, R197, R204, R243, R416, R424). -/
def State.access (s : State) (w : Who) (a : Nat) : Access :=
  let mine (o : Option PartNo) : Access :=
    match w.part with
    | none => .serve
    | some p => if o = some p then .serve else .deny 1
  match regionOf a with
  | .hbm q =>
    if s.stackSize ≤ a % 0x1000000000 ∨ bit s.sq.fp.hbm q then .deny 3 else mine (s.ownerOf a)
  | .ddr =>
    if 0x20000000000 + s.tierSize ≤ a then .deny 3
    else if s.hostBase ≤ a then .serve
    else mine (s.ownerOf a)
  | .store k =>
    let o := (a - 0x80000000000) % 0x2000000
    if 0x1400000 ≤ o then .deny 3
    else if s.sq.fp.banks.contains (k * 80 + storeBank o) then .absorb
    else if (s.block k).resetting.isSome then .absorb
    else mine (s.ownerOf a)
  | .tmem t =>
    if (s.tile t).resetting.isSome then .absorb
    else match w.part with
      | none => .serve
      | some p =>
        if s.ownerOf a = some p then .serve
        else if s.holds p (t / 1024) then .absorb
        else .deny 1
  | .reserved => .deny 2
  | _ => .deny 4

/-! ## Violation logs (R405 to R407) -/

/-- Whether a violation log has recorded an entry within the 15 ns (R407). -/
def VioLog.soon (l : VioLog) (now : Word) : Bool := l.entries.any fun e => tooSoon now e.2.time

/-- Whether violation log n records an entry now, or counts it as lost (R407). -/
def VioLog.room (l : VioLog) (n : Nat) (now : Word) : Bool := !l.soon now || Config.logged n l.head.toNat l.lost.toNat

/-- Violation log n with one entry more, or one lost at the rate limit; `size` is its ring (R405 to R407). -/
def VioLog.add (l : VioLog) (n size : Nat) (e : VioEntry) : VioLog :=
  if l.room n e.time then { l with head := l.head + 1, entries := Tab.write (l.head.toNat % size) e l.entries }
  else { l with lost := satInc l.lost }

/-- The device log of a Square, of 4,096 entries, with one more (R405, R407). -/
def VioLog.addDevice (l : VioLog) (e : VioEntry) : VioLog := l.add 64 4096 e

/-- The log of a partition, of 64 entries, with one more (R405 to R407). -/
def VioLog.addPart (l : VioLog) (p : Nat) (e : VioEntry) : VioLog := l.add p 64 e

/-- Records a violation in a partition's own log alone (R308, R406). -/
def State.partViolation (s : State) (w : Who) (city : Nat) (write : Bool) (reason : Byte) : State :=
  let e : VioEntry := { time := s.time, addr := BitVec.ofNat 56 city, src := w.src, write, srcid := w.num, reason }
  match w.part with
  | some p => s.modHreg p.toNat fun h => { h with vlog := h.vlog.addPart p.toNat e }
  | none => s

/-- Records an access that R195 answers silently: in the requester's log, in a different owner's, and in the Square's
(R405). What another device asks for is a fabric request (R363, R406; DEDUCED, log entry 148). -/
def State.violation (s : State) (w : Who) (owner : Option PartNo) (city : Nat) (write : Bool) (reason : Byte) : State :=
  let reason := if w.src = 5 then 8 else reason
  let e : VioEntry := { time := s.time, addr := BitVec.ofNat 56 city, src := w.src, write, srcid := w.num, reason }
  let s := match w.part with
    | some p => s.modHreg p.toNat fun h => { h with vlog := h.vlog.addPart p.toNat e }
    | none => s
  let s := match owner with
    | some o => if w.part = some o then s else s.modHreg o.toNat fun h => { h with vlog := h.vlog.addPart o.toNat e }
    | none => s
  { s with sq := { s.sq with dlog := s.sq.dlog.addDevice e } }

/-! ## Keys (R396, R399) -/

/-- The serial of the key change that an address's line has not been written since, if any. -/
def State.staleSerial (s : State) (a : Nat) : Option Nat :=
  (s.rekeyed.find? fun r => decide (r.1 ≤ a) && decide (a < r.2.1)).map fun r => r.2.2

/-- An interval list without one 64-byte line. -/
def cutLine (l : Nat) : List (Nat × Nat × Nat) → List (Nat × Nat × Nat)
  | [] => []
  | (lo, hi, n) :: r =>
    if lo ≤ l ∧ l < hi then
      ((if lo < l then [(lo, l, n)] else []) ++ (if l + 64 < hi then [(l + 64, hi, n)] else [])) ++ cutLine l r
    else (lo, hi, n) :: cutLine l r

/-- The address ranges lo to hi − 1 stand under a new key (R399). -/
def State.rekey (s : State) (lo hi : Nat) : State :=
  if lo < hi then { s with rekeyed := (lo, hi, s.fresh) :: s.rekeyed, fresh := s.fresh + 1 } else s

/-! ## Reads at the home -/

/-- One byte of DRAM as it decrypts: a line under a key it was not written with gives any value (R399). -/
def State.dramByte (s : State) (a : Nat) : Byte :=
  match s.staleSerial a with
  | some n => Config.staleByte n a
  | none => s.byteAt a

/-- Whether a DRAM line reads as uncorrectable: its code fails, or, in the DDR5 tier, its MAC does (R200, R398). -/
def State.dramBad (s : State) (a : Nat) : Bool :=
  let l := a / 64 * 64
  Tab.read false l s.marks || (0x20000000000 ≤ a && (s.staleSerial l).isSome)

/-- A read of DRAM meets whatever error its line holds, which the log of its quarter or edge die records (R183,
R200, R431). -/
def State.meetDram (s : State) (a : Nat) (who : AgentId) : State :=
  let l := a / 64 * 64
  let log (s : State) (sev : BitVec 2) : State :=
    match regionOf a with
    | .hbm q => s.logError q l ⟨9, q * 64 + pseudoChannel (a % 0x1000000000)⟩ sev who
    | _ => s.logEdgeError (s.ddrChannel a / 8) l ⟨10, s.ddrChannel a⟩ sev who
  if s.dramBad a then log s 1
  else if Tab.has l s.marks then log { s with marks := Tab.erase l s.marks } 0
  else s

/-- A request to a stack or a DDR5 channel ends its self-refresh (R460). -/
def State.leaveSelf (s : State) (a : Nat) : State :=
  match regionOf a with
  | .hbm q => if (s.quarter q).selfRef then s.modQuarter q fun x => { x with selfRef := false } else s
  | .ddr =>
    if s.pop.ddrSelf = 0 then s
    else { s with pop := { s.pop with ddrSelf := setBit s.pop.ddrSelf (s.ddrChannel a) false } }
  | _ => s

/-- What a read at its home gives: the state with errors corrected and logged, the bytes, and whether one is
uncorrectable. Denied and absorbed reads give zeros (R195, R243). -/
def State.readHome (s : State) (w : Who) (a n : Nat) : State × List Byte × Bool :=
  match s.access w a with
  | .absorb => (s, List.replicate n 0, false)
  | .deny r =>
    (s.violation w (s.ownerOf a) (a + s.devnum.toNat * 0x100000000000) false r, List.replicate n 0, false)
  | .serve =>
    if a < 0x80000000000 then
      let bad := (unitsOf 64 a n).any fun l => s.dramBad l
      let bs := (List.range n).map fun i => s.dramByte (a + i)
      ((unitsOf 64 a n).foldl (fun (s : State) l => s.meetDram l w.agent) (s.leaveSelf a), bs, bad)
    else
      let bad := (unitsOf 8 a n).any fun x => s.badWord x
      let bs := s.bytesAt a n
      (if s.marks.isEmpty then s else (unitsOf 8 a n).foldl (fun (s : State) x => s.meetSram x w.agent) s, bs, bad)

/-! ## Writes at the home -/

/-- A partial write merges with the line as it decrypts (R397): a stale HBM4 line's bytes are stored as they read, and
a stale DDR5 line stays uncorrectable. -/
def State.settleLine (s : State) (l : Nat) (whole : Bool) : State :=
  match s.staleSerial l with
  | none => if whole then { s with marks := Tab.erase l s.marks } else s
  | some n =>
    let s1 := { s with rekeyed := cutLine l s.rekeyed }
    if whole then { s1 with marks := Tab.erase l s1.marks }
    else if l < 0x20000000000 then s1.putBytes l ((List.range 64).map fun i => Config.staleByte n (l + i))
    else { s1 with marks := Tab.write l true s1.marks }

/-- Writes bytes inside one 64-byte line of DRAM. -/
def State.storeDram (s : State) (a : Nat) (bs : List Byte) : State :=
  ((s.leaveSelf a).settleLine (a / 64 * 64) (bs.length == 64)).store a bs

/-- Cuts bytes at an address into pieces that lie in one aligned 64-byte line each. -/
def linePieces : Nat → Nat → List Byte → List (Nat × List Byte)
  | 0, _, _ => []
  | fuel + 1, a, bs =>
    if bs.isEmpty then []
    else
      let k := 64 - a % 64
      (a, bs.take k) :: linePieces fuel (a + k) (bs.drop k)

/-- Writes bytes to memory that serves the access. -/
def State.storeMem (s : State) (w : Who) (a : Nat) (bs : List Byte) : State :=
  if a < 0x80000000000 then
    (linePieces (bs.length / 64 + 2) a bs).foldl (fun (s : State) p => s.storeDram p.1 p.2) s
  else s.storeBytes w.agent a bs

/-- A write at its home: served, dropped and recorded, or absorbed (R195, R224, R243). -/
def State.writeHome (s : State) (w : Who) (a : Nat) (bs : List Byte) : State :=
  match s.access w a with
  | .absorb => s
  | .deny r => s.violation w (s.ownerOf a) (a + s.devnum.toNat * 0x100000000000) true r
  | .serve => s.storeMem w a bs

/-- The runs of consecutive masked bytes of a line: offset and bytes. -/
def maskRuns (mask : BitVec 64) (data : Line) : List (Nat × List Byte) :=
  ((List.range 64).foldl (fun (acc : List (Nat × List Byte)) i =>
    if bit mask i then
      let b : Byte := data.extractLsb' (8 * i) 8
      match acc with
      | (o, bs) :: r => if o + bs.length = i then (o, bs ++ [b]) :: r else (i, [b]) :: (o, bs) :: r
      | [] => [(i, [b])]
    else acc) []).reverse

/-- Records an access that its home denies, once however long it is (R405). -/
def State.denied (s : State) (w : Who) (a : Nat) (write : Bool) (reason : Byte) : State :=
  s.violation w (s.ownerOf a) (s.cityOf a) write reason

/-- Writes the masked bytes of one 64-bit word of a store, which merges them in one access (R182). -/
def State.mergeWord (s : State) (w : Who) (a : Nat) (mask : Byte) (data : Word) : State :=
  if s.access w a ≠ .serve then s
  else
    let bs := (List.range 8).map fun i => if bit mask i then data.extractLsb' (8 * i) 8 else s.byteAt (a + i)
    if mask = 0xFF then s.storeBytes w.agent a bs else (s.meetSram a w.agent).store a bs

/-- A masked write of a line at its home. -/
def State.writeMasked (s : State) (w : Who) (line : Nat) (mask : BitVec 64) (data : Line) : State :=
  match s.access w line with
  | .deny r => s.denied w line true r
  | _ =>
    if line < 0x80000000000 then
      (maskRuns mask data).foldl (fun (s : State) r => s.writeHome w (line + r.1) r.2) s
    else
      (List.range 8).foldl (fun (s : State) i =>
        let m : Byte := mask.extractLsb' (8 * i) 8
        if m = 0 then s else s.mergeWord w (line + 8 * i) m (data.extractLsb' (64 * i) 64)) s

/-- Cuts a range into pieces that lie in one aligned unit of `size` bytes each: address and length. -/
def rangePieces (size : Nat) : Nat → Nat → Nat → List (Nat × Nat)
  | 0, _, _ => []
  | fuel + 1, a, n =>
    if n = 0 then []
    else
      let k := Nat.min n (size - a % size)
      (a, k) :: rangePieces size fuel (a + k) (n - k)

/-- A read of a longer range: denied whole, or each line of DRAM and each 32-byte piece of a store read on its own (R177, R195,
R200). -/
def State.readSpan (s : State) (w : Who) (a n : Nat) : State × List Byte × Bool :=
  match s.access w a with
  | .deny r => (s.denied w a false r, List.replicate n 0, false)
  | _ => (rangePieces (if a < 0x80000000000 then 64 else 32) (n / 32 + 2) a n).foldl (fun (x : State × List Byte × Bool) p =>
    let (s1, bs, bad) := x.1.readHome w p.1 p.2
    (s1, x.2.1 ++ bs, x.2.2 || bad)) (s, [], false)

/-- One word of a range that is read word by word; the error of a DRAM line is met with the line's first word. -/
def State.readOne (s : State) (w : Who) (a : Nat) : State × Word × Bool :=
  let (s1, bs, bad) := s.readHome w a 8
  (if a < 0x80000000000 ∧ a % 64 ≠ 0 then s else s1, BitVec.ofNat 64 (leNat bs), bad)

/-- A count reads up to n further words of its range at a, each on its own (R188). -/
def countWords (read : State → Nat → State × Word × Bool) (a : Nat) (val mask : Word) : Nat → State → CountRun → State × CountRun
  | 0, s, r => (s, r)
  | n + 1, s, r =>
    if 128 ≤ r.got then (s, r)
    else
      let (s1, v, bad) := read s (a + 8 * r.got)
      countWords read a val mask n s1
        { got := r.got + 1, sum := if v &&& mask = val &&& mask then r.sum + 1 else r.sum, bad := r.bad || bad }

/-- A count whose remaining words read as zeros (R195, R311). -/
def CountRun.zeros (r : CountRun) (val mask : Word) : CountRun :=
  { r with got := 128, sum := if val &&& mask = 0 then r.sum + BitVec.ofNat 64 (128 - r.got) else r.sum }

/-- A count of a range of memory reads up to n further words of it; a denied range reads as zeros and is recorded once (R188,
R195). -/
def State.countRange (s : State) (w : Who) (a : Nat) (val mask : Word) (n : Nat) (r : CountRun) : State × CountRun :=
  match s.access w a with
  | .deny c => (s.denied w a false c, r.zeros val mask)
  | _ => countWords (fun s b => s.readOne w b) a val mask n s r

/-- A write of a longer range: denied whole, or each 64-byte piece of DRAM or 32-byte piece of a store written on its own. -/
def State.writeSpan (s : State) (w : Who) (a : Nat) (bs : List Byte) : State :=
  match s.access w a with
  | .deny r => s.denied w a true r
  | _ =>
    let size := if a < 0x80000000000 then 64 else 32
    (rangePieces size (bs.length / size + 2) a bs.length).foldl
      (fun (s : State) p => s.writeHome w p.1 ((bs.drop (p.1 - a)).take p.2)) s

/-! ## Epochs (R269, R311) -/

/-- Whether an epoch is older than the one that a home holds (R269). -/
def epochOld (e home : BitVec 32) : Bool :=
  let d := (home - e).toNat
  decide (1 ≤ d) && decide (d ≤ 2 ^ 31)

/-- The epoch of a partition as the home of an address holds it (R311). -/
def State.homeEpoch (s : State) (p : PartNo) (a : Nat) : BitVec 32 :=
  let inQuarter (q : Nat) : BitVec 32 := Tab.read 0 p.toNat (s.quarter q).pepoch
  match regionOf a with
  | .hbm q => inQuarter q
  | .ddr => Tab.read 0 p.toNat (s.edge (s.ddrChannel a / 8)).pepoch
  | .store k => inQuarter (k / 64)
  | .tmem t => inQuarter (t / 1024)
  | .qctl q => inQuarter q
  | _ => inQuarter 0

/-- The epoch of a partition as a quarter holds it (R311). -/
def State.epochOf (s : State) (q : Nat) (p : PartNo) : BitVec 32 := Tab.read 0 p.toNat (s.quarter q).pepoch

/-! ## Who writes a register (R197) -/

/-- The writer as the logs and the ownership map see it. -/
def State.writerWho (s : State) (w : Writer) : Who :=
  match w with
  | .tile t => s.whoTile t
  | .host => { src := 4, num := 0, part := none, user := false }
  | _ => whoSquare

/-- Whether a writer reaches the control space of a quarter: supervisor code of a partition that owns the quarter, the
Square, and the monitor acting for it (R197). -/
def State.mayCtl (s : State) (w : Writer) (q : Nat) : Bool :=
  match w with
  | .tile t => !(s.tile t).user && s.holds (s.tile t).part q
  | .host => false
  | _ => true

/-- Whether a writer reaches the edge dies' control space and the Square's (R197). -/
def mayEdge (w : Writer) : Bool :=
  match w with
  | .square => true
  | .monitor => true
  | _ => false

/-- A control-space access that R197 denies: it reads zero or is ignored, and is recorded (R195, R405). -/
def State.deniedCtl (s : State) (w : Writer) (a : Nat) (write : Bool) : State :=
  s.violation (s.writerWho w) (s.ownerOf a) (s.cityOf a) write 4

/-! ## Accesses that a spot test keeps waiting (R432) -/

/-- Whether a running spot test keeps accesses to a device address waiting: the march over its bank of a store, or the test of a
DRAM row of its channel; which bank of the channel holds a line the spec does not give, so the whole channel waits. -/
def State.underTest (s : State) (a : Nat) : Bool :=
  s.sq.spots.any fun x => x.running && match regionOf a with
    | .hbm q => x.unit == ⟨9, q * 64 + pseudoChannel (a % 0x1000000000)⟩
    | .ddr => x.unit == ⟨10, s.ddrChannel a⟩
    | .store _ => x.unit == sramUnit a
    | .tmem _ => x.unit == sramUnit a
    | _ => false

/-! ## Operations on their way to a tally (R284) -/

/-- Sends an operation to tally i of block k; one of a tile carries the tile's place among its ordering instructions
(R231, R235). Every operation carries its sender's partition and epoch (R311). -/
def State.sendTally (s : State) (k i : Nat) (tile : Option Nat) (part : PartNo) (epoch : BitVec 32) (op : TallyReq) : State :=
  let g := (tile.map fun t => (s.tile t).gmem).getD .reset
  let o : TallyOp := { id := s.nextId, i, tile, relE := g.relE, acqE := g.acqE, fenE := g.fenE, seq := g.seq, part, epoch, op }
  { s.modBlock k fun b => { b with tops := b.tops ++ [o] } with nextId := s.nextId + 1 }

/-! ## Operations at the memory (R185, R205) -/

/-- MCNT: the sum of an unsigned word and a signed x, kept between 0 and 2^64 − 1 (R185). -/
def mcntSum (w x : Word) : Word :=
  let r : Int := w.toNat + x.toInt
  if r < 0 then 0 else if r ≥ 2 ^ 64 then BitVec.allOnes 64 else BitVec.ofInt 64 r

/-- The new value of a word under AADD, ACAS, MCMP or MCNT (R31, R185). -/
def opResult (k : ReqKind) (w : Word) : Word :=
  match k with
  | .aadd x => w + x
  | .acas new cmp => if w = cmp then new else w
  | .mcmp new cmp => if w = cmp then new else w
  | .mcnt x => mcntSum w x
  | _ => w

/-- The operation unit of a DRAM address, numbered 0 to 1,279 for the stacks' pseudo-channels and on from there for
the DDR5 channels (R205). -/
def State.opUnit (s : State) (a : Nat) : Nat :=
  match regionOf a with
  | .hbm q => q * 64 + pseudoChannel (a % 0x1000000000)
  | _ => 1280 + s.ddrChannel a

/-- An operation holds its DRAM line in its unit's buffer of 16 lines, oldest out first (R205). -/
def State.bufferLine (s : State) (a : Nat) (dirty : Bool) : State :=
  if a < 0x80000000000 then
    let u := s.opUnit a
    let l := a / 64 * 64
    let was := s.oplines.any fun o => o.line = l && o.dirty
    let rest := s.oplines.filter fun o => o.line ≠ l
    let mine := rest.filter fun o => o.unit = u
    let rest := if mine.length ≥ 16 then
        match mine.head? with | some o => rest.filter fun x => x.line ≠ o.line | none => rest
      else rest
    { s with oplines := rest ++ [{ unit := u, line := l, dirty := dirty || was }] }
  else s

/-- An operation at the word's home: the state, the old value and whether the word was uncorrectable, in which case it
stays as it is (R183, R185, R205). -/
def State.operate (s : State) (w : Who) (a : Nat) (k : ReqKind) : State × Word × Bool :=
  let (s1, bs, bad) := s.readHome w a 8
  let old : Word := BitVec.ofNat 64 (leNat bs)
  if bad then (s1, old, true)
  else if s.access w a = .serve then
    let new := opResult k old
    let s2 := s1.bufferLine a (new ≠ old)
    (if new = old then s2 else s2.storeMem w a (natBytes 8 new.toNat), old, false)
  else (s1, old, false)

/-- Adds to a counted word at its home, saturating as MCNT does (R185). -/
def State.countWord (s : State) (w : Who) (a : Nat) (x : Word) : State := (s.operate w a (.mcnt x)).1

/-- How many watches a home holds: 64 per block store, 16 per tile memory, 256 per stack, 64 per DDR5 channel
(R187, R205). -/
def watchLimit (a : Nat) : Nat :=
  match regionOf a with
  | .hbm _ => 256
  | .tmem _ => 16
  | _ => 64

/-- Whether two addresses have the same watch holder. -/
def State.sameHome (s : State) (a b : Nat) : Bool :=
  match regionOf a, regionOf b with
  | .ddr, .ddr => s.ddrChannel a == s.ddrChannel b
  | x, y => x == y

/-- Whether a home can hold one more watch. -/
def State.watchFree (s : State) (a : Nat) : Bool :=
  decide ((s.watches.filter fun w => s.sameHome w.addr a).length < watchLimit a)

end Sys2Proof.Machine
end

