-- ==== Sys2Proof/Machine/Trans.lean ====
section
/-! DEFINITION. Translation: the table walk and its cache, the TLB of a tile, permissions, and the hold of a missing
access (R206 to R213). -/

namespace Sys2Proof.Machine

/-- The kinds of a translated access: load, store, fetch, and the operations that read and write (R209). -/
abbrev Kind := BitVec 2

/-- A load. -/
def kLoad : Kind := 0

/-- A store. -/
def kStore : Kind := 1

/-- An instruction fetch. -/
def kFetch : Kind := 2

/-- A read and write (R209). -/
def kBoth : Kind := 3

/-- The cause of a failed walk (R209). -/
def xlateCode (k : Kind) : Byte := if k = kStore then 0x11 else if k = kFetch then 0x12 else 0x10

/-- The cause of a permission that a leaf lacks, if it lacks one (R209). -/
def protFault (e : TlbEntry) (k : Kind) (user : Bool) : Option Byte :=
  if k = kStore then (if !e.w || (user && !e.u) then some 0x14 else none)
  else if k = kFetch then (if !e.x || (user && !e.u) then some 0x15 else none)
  else if !e.r || (user && !e.u) then some 0x13
  else if k = kBoth && !e.w then some 0x14
  else none

/-- Whether an entry maps a virtual address; one with an uncorrectable error is as one that is not there (R207, R429). -/
def TlbEntry.covers (e : TlbEntry) (p : PartNo) (va : Nat) : Bool :=
  e.part == p && !e.bad && (if e.big then va / 0x40000000 == e.page else va / 0x200000 == e.page)

/-- The city address that an entry gives a virtual address it covers (R207). -/
def TlbEntry.addr (e : TlbEntry) (va : Nat) : Nat := e.city + (if e.big then va % 0x40000000 else va % 0x200000)

/-! ## The walk (R207 to R211) -/

/-- Index of a virtual address at a level (R207). -/
def levelIndex (va l : Nat) : Nat :=
  match l with
  | 0 => va / 0x1000000000000 % 256
  | 1 => va / 0x8000000000 % 512
  | 2 => va / 0x40000000 % 512
  | _ => va / 0x200000 % 512

/-- The virtual address bits that name the pointer entry of a level. -/
def levelPrefix (va l : Nat) : Nat :=
  match l with
  | 0 => va / 0x1000000000000
  | 1 => va / 0x8000000000
  | _ => va / 0x40000000

/-- What a table entry says at a level: no translation, a pointer to the next table, or a page (R208, R209). -/
inductive Entry where
  | bad
  | pointer (next : Nat)
  | page (big : Bool) (city : Nat)
  deriving DecidableEq, Repr

/-- Reads a table entry at a level (R208, R209). -/
def readEntry (e : Word) (l : Nat) : Entry :=
  if !bit e 0 ∨ fld e 7 5 ≠ 0 ∨ fld e 56 8 ≠ 0 then .bad
  else if bit e 1 then
    if l = 2 then (if fld e 12 18 = 0 then .page true (fld e 0 56 / 0x1000 * 0x1000) else .bad)
    else if l = 3 then (if fld e 12 9 = 0 then .page false (fld e 0 56 / 0x1000 * 0x1000) else .bad)
    else .bad
  else if l = 3 ∨ fld e 2 5 ≠ 0 ∨ fld e 44 12 ≠ 0 then .bad
  else
    let next := fld e 12 32 * 0x1000
    if next < 0x14000000000 then .pointer next else .bad

/-- What a walk found, and what it did: to the walk cache and the counter of its misses, the table entries that it read, and the
entry that its partition may not read, with the reason (R195, R200, R209). -/
structure WalkResult where
  leaf   : Option TlbEntry
  wcache : List WalkEntry
  misses : Nat
  part   : PartNo
  reads  : List Nat
  denied : Option (Nat × Byte)

/-- A walk of partition p's table that found no leaf. -/
def WalkResult.none_ (p : PartNo) (wc : List WalkEntry) (n : Nat) (rs : List Nat) : WalkResult :=
  { leaf := none, wcache := wc, misses := n, part := p, reads := rs, denied := none }

/-- Walks the levels given from a table on; `wc` is the walk cache, most recently used first, and `rs` the entries read so
far. An entry in memory that is not the partition's reads as zero (R195). -/
def walkLevels (s : State) (p : PartNo) (va : Nat) : List Nat → Nat → List WalkEntry → Nat → List Nat → WalkResult
  | [], _, wc, n, rs => .none_ p wc n rs
  | l :: ls, table, wc, n, rs =>
    let key := levelPrefix va l
    match if l < 3 then wc.find? (fun w => w.part = p && w.level = l && w.index = key && !w.bad) else none with
    | some w =>
      walkLevels s p va ls w.next (w :: wc.filter fun x => !(x.part = p && x.level = l && x.index = key)) n rs
    | none =>
      let a := table + 8 * levelIndex va l
      let n := if l < 3 then n + 1 else n
      match s.access { src := 0, num := 0, part := some p, user := false } a with
      | .deny c => { WalkResult.none_ p wc n rs with denied := some (a, c) }
      | _ =>
        let rs := rs ++ [a]
        if s.dramBad a then .none_ p wc n rs
        else
          let e : Word := BitVec.ofNat 64 (leNat ((List.range 8).map fun i => s.dramByte (a + i)))
          match readEntry e l with
          | .bad => .none_ p wc n rs
          | .page big city =>
            { WalkResult.none_ p wc n rs with
              leaf := some { part := p, big, page := if big then va / 0x40000000 else va / 0x200000, city
                             r := bit e 2, w := bit e 3, x := bit e 4, u := bit e 5, nc := bit e 6 } }
          | .pointer next =>
            walkLevels s p va ls next
              (({ part := p, level := l, index := key, next } ::
                wc.filter fun x => !(x.part = p && x.level = l && x.index = key)).take 4096) n rs

/-- A walk of partition p's table by a quarter's walker (R209, R211, R212). -/
def State.walk (s : State) (q : Nat) (p : PartNo) (va : Word) : WalkResult :=
  let x := s.quarter q
  let root := Tab.read 0 p.toNat x.ptroot
  let table := fld root 12 32 * 0x1000
  if fld va 56 8 ≠ 0 ∨ !bit root 0 ∨ 0x14000000000 ≤ table then .none_ p x.wcache 0 []
  else walkLevels s p va.toNat [0, 1, 2, 3] table x.wcache 0 []

/-- The walk's effect on its quarter: the cache, the counters, and the log entries of the errors that its reads have met and of
an entry that its partition may not read (R195, R200, R209, R212). -/
def State.walked (s : State) (q : Nat) (r : WalkResult) (who : AgentId) : State :=
  let s := s.modQuarter q fun x =>
    { x with wcache := r.wcache, nwalks := satInc x.nwalks, wcmiss := satAdd x.wcmiss r.misses }
  let s := if s.marks.isEmpty && s.rekeyed.isEmpty then s else r.reads.foldl (fun (s : State) a => s.meetDram a who) s
  match r.denied with
  | some (a, c) => s.denied { src := who.src, num := who.num, part := some r.part, user := false } a false c
  | none => s

/-! ## The TLB of a tile (R210) -/

/-- A TLB with an entry most recently used, at most 64 entries. -/
def tlbInstall (tlb : List TlbEntry) (e : TlbEntry) : List TlbEntry :=
  (e :: tlb.filter fun x => !(x.part = e.part && x.big = e.big && x.page = e.page)).take 64

/-- The entry of a tile's TLB that covers a virtual address. -/
def Tile.tlbFind (x : Tile) (va : Nat) : Option TlbEntry := x.gmem.tlb.find? fun e => e.covers x.part va

/-- A hit makes its entry the most recently used. -/
def Tile.tlbTouch (x : Tile) (e : TlbEntry) : Tile := { x with gmem := { x.gmem with tlb := tlbInstall x.gmem.tlb e } }

/-- Starts every open merging-buffer entry draining (R217). -/
def GMem.drainAll (g : GMem) : GMem := { g with mb := g.mb.map fun e => { e with drain := true } }

/-- The outcome of translating an access at its issue. -/
inductive Look where
  | hit (s : State) (city : Nat) (e : TlbEntry)
  | fault (code : Byte)
  | miss

/-- Translates an access: by the translation that a walk has just delivered, where it covers the address, else by the
TLB (R206, R209, R210). A virtual address above 56 bits fails without a walk. -/
def State.look (s : State) (t : Nat) (tr : Option TlbEntry) (va : Word) (k : Kind) : Look :=
  let x := s.tile t
  let use (s : State) (e : TlbEntry) : Look :=
    match protFault e k x.user with
    | some c => .fault c
    | none => .hit s (e.addr va.toNat) e
  if fld va 56 8 ≠ 0 then .fault (xlateCode k)
  else
    match x.tlbFind va.toNat with
    | some e => use (s.modTile t fun x => x.tlbTouch e) e
    | none =>
      match tr with
      | some e => if e.covers x.part va.toNat then use s e else .miss
      | none => .miss

/-- A TLB miss: the tile holds the instruction while its merging buffer drains and a walk runs (R211). -/
def State.startWalk (s : State) (t : Nat) (opc opb : Byte) (va : Word) (k : Kind) : State :=
  (s.modTile t fun x =>
    { x with gmem := x.gmem.drainAll, core := { x.core with doing := .walk opc opb va k false } }).count t 7 1

/-- Whether a city address names this device (R196). -/
def State.isLocal (s : State) (city : Nat) : Bool := city / 0x100000000000 == s.devnum.toNat

/-- The device address of a city address. -/
def devAddr (city : Nat) : Nat := city % 0x100000000000

/-- Whether a device address is memory: HBM4, the DDR5 tier, a block store or a tile memory (R215). -/
def isMemory (a : Nat) : Bool :=
  match regionOf a with
  | .hbm _ => true
  | .ddr => true
  | .store _ => true
  | .tmem _ => true
  | _ => false

/-- Whether a line is cacheable for a tile (R215). -/
def State.cacheable (s : State) (t city : Nat) (nc : Bool) : Bool :=
  !nc && isMemory (devAddr city) &&
    !(s.isLocal city && decide (tileMemBase t ≤ devAddr city) && decide (devAddr city < tileMemBase t + 0x40000))

/-- Whether a city address lies in the tile's own tile memory (R227). -/
def State.ownMem (s : State) (t city : Nat) : Bool :=
  s.isLocal city && decide (tileMemBase t ≤ devAddr city) && decide (devAddr city < tileMemBase t + 0x40000)

end Sys2Proof.Machine
end

