-- ==== Sys2Proof/Machine/Long.lean ====
section
/-! DEFINITION. The vector port and the instructions that move lines and rows through it or into the merging buffer: VCOPY,
VFILL, and TLOAD and TSTORE without requests (R49, R124, R126, R136, R137, R217, R227); then the issue of an instruction
(R21, R28, R70). -/

namespace Sys2Proof.Machine

/-! ## Tile memory through the ports -/

/-- The bytes that a merging-buffer entry holds of the line at a city address. -/
def mbByte (mb : List MbEntry) (city : Nat) : Option Byte :=
  (mb.filter fun e => e.line = city / 64 && bit e.mask (city % 64)).getLast?.map fun e =>
    e.data.extractLsb' (8 * (city % 64)) 8

/-- Reads bytes of the tile's own memory at an offset, taking those that an unsent merging-buffer entry holds (R227). -/
def State.portRead (s : State) (t off n : Nat) : List Byte :=
  let base := tileMemBase t + off
  let mb := (s.tile t).gmem.mb
  if mb.isEmpty then s.bytesAt base n
  else (List.range n).map fun i => (mbByte mb (s.cityOf (base + i))).getD (s.byteAt (base + i))

/-- Whether a read of n bytes at an offset meets an uncorrectable word of the tile's own memory. -/
def State.portBad (s : State) (t off n : Nat) : Bool :=
  !s.marks.isEmpty && (unitsOf 8 (tileMemBase t + off) n).any fun a => s.badWord a

/-- A port read's errors are corrected and logged (R183). -/
def State.portMeet (s : State) (t off n : Nat) : State :=
  if s.marks.isEmpty then s
  else (unitsOf 8 (tileMemBase t + off) n).foldl (fun (s : State) a => s.meetSram a (s.whoTile t).agent) s

/-! ## Stores into the merging buffer (R217) -/

/-- CACHECTL.DEN. -/
def Tile.den (x : Tile) : Bool := bit x.ctl.cachectl 0

/-- A line with the masked bytes of another. -/
def overlay (mask : BitVec 64) (over_ under_ : Line) : Line :=
  (List.range 64).foldl (fun (d : Line) i =>
    if bit mask i then setFld d (8 * i) 8 (fld over_ (8 * i) 8) else d) under_

/-- A merging-buffer entry with bytes stored into it; a store of a whole word writes over its error (R182, R429). -/
def MbEntry.put (e : MbEntry) (o : Nat) (bs : List Byte) (seq : Nat) : MbEntry :=
  let d := bs.zipIdx.foldl (fun (d : Line) b => setFld d (8 * (o + b.2)) 8 b.1.toNat) e.data
  let m := e.mask ||| ((BitVec.ofNat 64 (2 ^ bs.length - 1)) <<< o)
  let bad := if e.bad = 0 then 0 else (List.range 8).foldl (fun (w : Byte) i =>
    if o ≤ 8 * i ∧ 8 * i + 8 ≤ o + bs.length then setBit w i false else w) e.bad
  { e with data := d, mask := m, seq, bad, drain := e.drain || m = BitVec.allOnes 64 }

/-- A store of bytes inside one line at a city address: it merges into its line's open entry or takes a new one, and
more than 4 occupied entries start every entry draining (R217); none where no entry can take it. -/
def GMem.merge (g : GMem) (city : Nat) (bs : List Byte) (plain user : Bool) : Option GMem :=
  let line := city / 64
  let o := city % 64
  let open_ (e : MbEntry) : Bool := plain && e.line = line && e.plain && !e.drain
  if g.mb.any open_ then
    some { g with seq := g.seq + 1, mb := g.mb.map fun e => if open_ e then e.put o bs g.seq else e }
  else if g.mb.length < 8 then
    let e : MbEntry := { line, mask := 0, data := 0, seq := g.seq, relE := g.relE, fenE := g.fenE, drain := !plain, plain, user, bad := 0 }
    let g := { g with seq := g.seq + 1, mb := g.mb ++ [e.put o bs g.seq] }
    some (if g.mb.length > 4 then g.drainAll else g)
  else none

/-- A store updates the bytes of a line that the data cache holds, and of the fills of its line under way (R217,
R226). -/
def State.storeCached (s : State) (t city : Nat) (bs : List Byte) : State :=
  let line := city / 64
  let m : BitVec 64 := (BitVec.ofNat 64 (2 ^ bs.length - 1)) <<< (city % 64)
  let d : Line := (BitVec.ofNat 512 (leNat bs)) <<< (8 * (city % 64))
  let s := if (s.tile t).den then
      s.modTile t fun x => { x with gmem := { x.gmem with dcache := x.gmem.dcache.map fun l =>
        if l.line = line then { l with data := overlay m d l.data } else l } }
    else s
  { s with reqs := s.reqs.map fun r =>
    match r.kind with
    | .fill p fm fd =>
      if r.tile = t && r.addr / 64 = line then { r with kind := .fill p (fm ||| m) (overlay m d fd) } else r
    | _ => r }

/-! ## Lines of VCOPY and VFILL (R49, R126) -/

/-- Whether an interrupt may come to the tile: interrupts are on and a source is enabled (R58). -/
def Tile.interruptible (x : Tile) : Bool := bit x.ctl.status 4 && x.ctl.ien != 0

/-- The fault of n lines at an offset, if one lies beyond tile memory: EVAL names the first such line (R124). -/
def lineRange (off n : Word) : Option Word :=
  if n = 0 ∨ off.toNat + 64 * n.toNat ≤ 0x40000 then none
  else if 0x40000 < off.toNat + 64 then some off
  else some (BitVec.ofNat 64 (off.toNat + (0x40000 - off.toNat) / 64 * 64))

/-- Copies a line within tile memory, unless an earlier line stopped the copy; an uncorrectable word is met as any
vector-port read meets it (R126, R183). The count of lines copied comes along. -/
def copyLine (t : Nat) (dst src : Nat) (stops : Bool) (a : State × Nat × Bool) (i : Nat) : State × Nat × Bool :=
  let (s, k, bad) := a
  if bad && stops then a
  else
    let b := s.portBad t (src + 64 * i) 64
    let d := s.portRead t (src + 64 * i) 64
    let s := s.portMeet t (src + 64 * i) 64
    if b && stops then (s, k, true) else (s.portWrite t (dst + 64 * i) d, k + 1, bad || b)

/-- An instruction that a tile holds meets an uncorrectable word and goes on: LOCAL_DATA_ERROR is pending (R65, R67). -/
def State.raiseHeld (s : State) (t : Nat) (bad : Bool) : State :=
  let c := (s.tile t).core
  if bad then s.land t { ord := c.issued, rem := 0, dest := .flagsOnly, flags := 0, exc := some 0x1C, pc := c.pc } else s

/-- VCOPY copies at most k of its lines, keeps its progress in dst, src and n, and completes when n is 0; under PRECISE an
uncorrectable word stops it before its line (R49, R80, R126). -/
def vcopyLines (t : Nat) (opb : Byte) (k : Nat) (s : State) : Res :=
  let n := s.arg t 0
  let src := s.arg t 1
  let dst := s.arg t 2
  let stops := (s.tile t).precise
  let (s, m, bad) := (List.range (Nat.min k n.toNat)).foldl (copyLine t dst.toNat src.toNat stops) (s, 0, false)
  if m = n.toNat then .ok ((s.push t 3 [] 0).putFlags t 0 0 (if bad then some 0x1C else none)) .seq
  else
    let s := ((s.setArg t 0 (n - BitVec.ofNat 64 m)).setArg t 1 (src + BitVec.ofNat 64 (64 * m))).setArg t 2
      (dst + BitVec.ofNat 64 (64 * m))
    if bad && stops then .trap s 0x1C ((s.tile t).core.pc.setWidth 64) 0
    else .hold ((s.raiseHeld t bad).setDoing t (.long 0xB6 opb))

/-- VFILL fills at most k of its lines and keeps its progress in dst and n (R49, R126). -/
def vfillLines (t : Nat) (opb : Byte) (k : Nat) (s : State) : Res :=
  let n := s.arg t 0
  let dst := s.arg t 1
  let line := (List.replicate 8 (natBytes 8 (s.arg t 2).toNat)).flatten
  let m := Nat.min k n.toNat
  let s := (List.range m).foldl (fun (s : State) i => s.portWrite t (dst.toNat + 64 * i) line) s
  if m = n.toNat then .ok (s.push t 3 [] 0) .seq
  else
    .hold (((s.setArg t 0 (n - BitVec.ofNat 64 m)).setArg t 1 (dst + BitVec.ofNat 64 (64 * m))).setDoing t (.long 0xB7 opb))

/-! ## Rows of TLOAD and TSTORE (R136, R137) -/

/-- ROWSM1 of TCFG (R129). -/
def cfgRows (c : Word) : Nat := fld c 17 3

/-- STRIDE of TCFG (R129). -/
def cfgStride (c : Word) : Nat := fld c 20 28

/-- Row i of a tile register. -/
def Tmu.row (u : Tmu) (r i : Nat) : Line := nth (nth u.tr r (Vector.replicate 8 0)) i 0

/-- The unit with a row of a tile register replaced. -/
def Tmu.setRow (u : Tmu) (r i : Nat) (v : Line) : Tmu :=
  { u with tr := u.tr.setIfInBounds r ((nth u.tr r (Vector.replicate 8 0)).setIfInBounds i v) }

/-- The first row that a TLOAD or TSTORE still has to move (R137). -/
def Tile.firstRow (x : Tile) : Nat := if bit x.ctl.tstart 3 then fld x.ctl.tstart 0 3 else 0

/-- TSTART names the next row, with ACT set (R137). -/
def State.setRowNext (s : State) (t r : Nat) : State :=
  s.modTile t fun x => { x with ctl := { x.ctl with tstart := BitVec.ofNat 64 (r % 8 + 8) } }

/-- A TLOAD or TSTORE completes: TSTART clears and a is popped (R137). -/
def State.rowsDone (s : State) (t : Nat) : Res :=
  .ok ((s.modTile t fun x => { x with ctl := { x.ctl with tstart := 0 } }).push t 1 [] 0) .seq

/-- The rows that remain. -/
def Tile.rowsLeft (x : Tile) : List Nat :=
  (List.range 8).filter fun r => decide (x.firstRow ≤ r) && decide (r ≤ cfgRows x.tmu.tcfg)

/-- The address or offset of a row. -/
def Tile.rowAddr (x : Tile) (a : Word) (r : Nat) : Word := a + BitVec.ofNat 64 (r * cfgStride x.tmu.tcfg)

/-- A row reaches its tile register (R136, R137). -/
def State.putRow (s : State) (t reg r : Nat) (v : Line) : State :=
  (s.modTile t fun x => { x with tmu := x.tmu.setRow reg r v }).setRowNext t (r + 1)

/-- TLOAD of rows from tile memory: an uncorrectable word is met as any vector-port read meets it (R136, R183); `more` says
that rows after these remain. -/
def tloadLocal (t : Nat) (opb : Byte) (a : Word) (more : Bool) : List Nat → Bool → State → Res
  | [], bad, s =>
    if more then .hold ((s.raiseHeld t bad).setDoing t (.long 0xC2 opb))
    else match s.rowsDone t with
      | .ok s f => .ok (s.putFlags t 0 0 (if bad then some 0x1C else none)) f
      | r => r
  | r :: rest, bad, s =>
    let off := ((s.tile t).rowAddr a r).toNat
    let b := s.portBad t off 64
    let v := lineOf (s.portRead t off 64)
    let s := s.portMeet t off 64
    if b && (s.tile t).precise then .trap (s.setRowNext t r) 0x1C ((s.tile t).core.pc.setWidth 64) 0
    else tloadLocal t opb a more rest (bad || b) (s.putRow t (fld opb 0 3) r v)

/-- TSTORE of rows, to tile memory or through the merging buffer under the rules for GST (R136, R137); `more` says that rows
after these remain. -/
def tstoreRows (t : Nat) (opb : Byte) (a : Word) (tr : Option TlbEntry) (more : Bool) : List Nat → State → Res
  | [], s => if more then .hold (s.setDoing t (.long 0xC3 opb)) else s.rowsDone t
  | r :: rest, s =>
    let v := (s.tile t).tmu.row (fld opb 0 3) r
    let va := (s.tile t).rowAddr a r
    if !bit opb 3 then
      tstoreRows t opb a tr more rest ((s.portWrite t va.toNat (lineBytes v)).setRowNext t (r + 1))
    else match s.look t tr va kStore with
      | .fault c => .trap (s.setRowNext t r) c va 0
      | .miss => .hold ((s.setRowNext t r).startWalk t 0xC3 opb va kStore)
      | .hit s city e =>
        let bs := lineBytes v
        match (s.tile t).gmem.merge city bs (s.cacheable t city e.nc) (s.tile t).user with
        | none => .hold ((s.setRowNext t r).setDoing t (.wait 0xC3 opb))
        | some g =>
          tstoreRows t opb a tr more rest
            (((s.modTile t fun x => { x with gmem := g }).storeCached t city bs).setRowNext t (r + 1))

/-! ## An instruction that moves lines or rows by itself goes on -/

/-- Whether a held instruction moves its lines or rows without an answer from elsewhere: VCOPY, VFILL, TSTORE, and TLOAD from
tile memory. -/
def movesItself (opc opb : Byte) : Bool := opc == 0xB6 || opc == 0xB7 || opc == 0xC3 || (opc == 0xC2 && !bit opb 3)

/-- Lines or rows that such an instruction still has to move. -/
def State.unitsLeft (s : State) (t : Nat) (opc : Byte) : Nat :=
  if opc == 0xB6 || opc == 0xB7 then (s.arg t 0).toNat else (s.tile t).rowsLeft.length

/-- Such an instruction goes on by at most k lines or rows. -/
def State.moveOn (s : State) (t : Nat) (opc opb : Byte) (k : Nat) : Res :=
  let rows := (s.tile t).rowsLeft
  match opc.toNat with
  | 0xB6 => vcopyLines t opb k s
  | 0xB7 => vfillLines t opb k s
  | 0xC2 => tloadLocal t opb (s.arg t 0) (decide (k < rows.length)) (rows.take k) false s
  | 0xC3 => tstoreRows t opb (s.arg t 0) none (decide (k < rows.length)) (rows.take k) s
  | _ => .hold s

/-- Lines of tile memory: no instruction moves more. -/
def allLines : Nat := 0x1000

/-- Such an instruction begins: where an interrupt may come it is held, so that one can stop it at a line or row boundary
(R49, R66, R126, R137); else it moves everything. -/
def State.beginMove (s : State) (t : Nat) (opc opb : Byte) : Res :=
  if (s.tile t).interruptible && s.unitsLeft t opc ≠ 0 then .hold (s.setDoing t (.long opc opb))
  else s.moveOn t opc opb allLines

/-- Whether a tile's issue may go on: its block's clock runs (R456), and no spot test marches over a bank of its memory (R21,
R432). -/
def State.unfrozen (s : State) (t : Nat) : Bool :=
  (s.block (blockOf t)).gatedAt.isNone && !s.sq.spots.any fun x => x.running && x.unit.kind == 1 && x.unit.unit / 16 == t

/-- Such an instruction that the tile holds moves what remains: time passes without an interrupt. -/
def State.finishLines (s : State) (t : Nat) : State :=
  match (s.tile t).longIn with
  | some (opc, opb) =>
    if movesItself opc opb && s.unfrozen t then
      (s.moveOn t opc opb allLines).conclude t (heldForm opc opb)
    else s
  | none => s

/-! ## Issue -/

/-- A tile stops before its next instruction as a double fault stops it: a register of it holds an uncorrectable error. Which
cause its report names the spec does not say (R74, R429). -/
def State.breakDown (s : State) (t : Nat) : State :=
  let code := (Config.free s.fresh).setWidth 8
  ({ s with fresh := s.fresh + 1 }.modTile t fun x => { x with core := { x.core with run := .halted } }).reportStop t code

/-- One instruction issues at a tile that can issue and that nothing freezes: the checks of its parcel, then its own effect. An
instruction that moves lines or rows is finished before. A tile that cannot issue, or takes a pending imprecise exception or an
interrupt first (R29, R65, R66, R70), does nothing more; one with a broken register stops (R429). -/
def State.issue (s : State) (t : Nat) (f : Form) (body : State → Res) : State :=
  let s := s.finishLines t
  if !((s.tile t).canIssue && s.unfrozen t) then s
  else if (s.tile t).broken then s.breakDown t
  else
    let s1 := (s.landDue t).checkHold t
    if s1.entersFirst t then s
    else
      let s2 := s1.modTile t fun x => x.resolveSlot f.parcels
      match (s2.tile t).check f with
      | some (code, v) => s2.fault t code v
      | none => (body s2).conclude t f

end Sys2Proof.Machine
end

