-- ==== Sys2Proof/Machine/LocalMem.lean ====
section
/-! DEFINITION. The local loads and stores (R33, R34, R183, R227). -/

namespace Sys2Proof.Machine

/-- The fault of a local access at an offset, if any: out of range first, then misaligned (R33, R70). -/
def localFault (off : Word) (size : Nat) : Option Byte :=
  if off.toNat ≥ 0x40000 then some 0x07 else if off.toNat % size ≠ 0 then some 0x06 else none

/-- Issues a local load of 2^k bytes (R33): ready distance 2; an uncorrectable word is followed by LOCAL_DATA_ERROR,
precisely under PRECISE (R67, R80, R183). -/
def loadOp (t : TileNo) (opc b : Byte) (k : Nat) (zext : Bool) (s : State) : State :=
  s.issue t { opc, opb := b, din := 1, dout := 1 } fun s =>
    let off := localOff (s.arg t 0) b (2 ^ k)
    match localFault off (2 ^ k) with
    | some c => .trap s c off 0
    | none =>
      let v := extend k zext (leNat (s.portRead t off.toNat (2 ^ k)))
      let bad := s.portBad t off.toNat (2 ^ k)
      let s := s.portMeet t off.toNat (2 ^ k)
      if bad && (s.tile t).precise then .trap s 0x1C ((s.tile t).core.pc.setWidth 64) 0
      else .ok ((s.push t 1 [v] 2).putFlags t 2 0 (if bad then some 0x1C else none)) .seq

/-- Writes of a VSCATTER that end in the cycle in which the next instruction issues land before that instruction's own store,
whose bytes remain (R125, R175). -/
def State.landScatters (s : State) (t : Nat) : State :=
  let fl := (s.tile t).core.flight
  let due (f : Flight) : Bool := f.rem ≤ 1 && match f.dest with | .scatter _ => true | _ => false
  if fl.any due then s.landList t (fl.filter due) (fl.filter fun f => !due f) else s

/-- Issues a local store of 2^k bytes (R33, R34): it takes effect at issue. -/
def storeOp (t : TileNo) (opc b : Byte) (k : Nat) (s : State) : State :=
  s.issue t { opc, opb := b, din := 2 } fun s =>
    let off := localOff (s.arg t 0) b (2 ^ k)
    match localFault off (2 ^ k) with
    | some c => .trap s c off 0
    | none => .ok (((s.landScatters t).portWrite t off.toNat (natBytes (2 ^ k) (s.arg t 1).toNat)).push t 2 [] 0) .seq

/-- LDB: sign-extends a byte (R33). -/
def execLdb (t : TileNo) (b : Byte) (s : State) : Ans := .next (loadOp t 0x50 b 0 false s)

/-- LDBU: zero-extends a byte (R33). -/
def execLdbu (t : TileNo) (b : Byte) (s : State) : Ans := .next (loadOp t 0x51 b 0 true s)

/-- LDH: sign-extends 2 bytes (R33). -/
def execLdh (t : TileNo) (b : Byte) (s : State) : Ans := .next (loadOp t 0x52 b 1 false s)

/-- LDHU: zero-extends 2 bytes (R33). -/
def execLdhu (t : TileNo) (b : Byte) (s : State) : Ans := .next (loadOp t 0x53 b 1 true s)

/-- LDW: sign-extends 4 bytes (R33). -/
def execLdw (t : TileNo) (b : Byte) (s : State) : Ans := .next (loadOp t 0x54 b 2 false s)

/-- LDWU: zero-extends 4 bytes (R33). -/
def execLdwu (t : TileNo) (b : Byte) (s : State) : Ans := .next (loadOp t 0x55 b 2 true s)

/-- LDD: 8 bytes (R33). -/
def execLdd (t : TileNo) (b : Byte) (s : State) : Ans := .next (loadOp t 0x56 b 3 true s)

/-- STB (R33). -/
def execStb (t : TileNo) (b : Byte) (s : State) : Ans := .next (storeOp t 0x58 b 0 s)

/-- STH (R33). -/
def execSth (t : TileNo) (b : Byte) (s : State) : Ans := .next (storeOp t 0x59 b 1 s)

/-- STW (R33). -/
def execStw (t : TileNo) (b : Byte) (s : State) : Ans := .next (storeOp t 0x5A b 2 s)

/-- STD (R33). -/
def execStd (t : TileNo) (b : Byte) (s : State) : Ans := .next (storeOp t 0x5B b 3 s)

end Sys2Proof.Machine
end

