-- ==== Sys2Proof/Machine/Paths.lean ====
section
/-! DEFINITION. The fixed paths of packets over the streets and avenues (R289, R290, R292): the stops that a packet makes, from
its source on, each one an output queue of its own. -/

namespace Sys2Proof.Machine

/-! ## Where a packet goes -/

/-- The destination of a packet (R290): a tile, a block store, a base die, an edge die or the host die. -/
inductive Goal where
  | tile (t : Nat)
  | store (k : Nat)
  | base (q : Nat)
  | edge (e : Nat)
  | host
  deriving DecidableEq, Repr

/-- The destination that serves a city address; for another device the edge die of the port that its packets leave by (R11,
R194, R203, R204, R347). -/
def State.goalOf (s : State) (city : Nat) : Goal :=
  if !s.isLocal city then
    .edge (match s.usable (Tab.read 0 (city / 0x100000000000) s.avenue) 0 with
      | p :: _ => p.1 / 6
      | [] => 0)
  else
    let a := devAddr city
    match regionOf a with
    | .hbm q => .base q
    | .ddr => if s.hostBase ≤ a ∧ a < 0x20000000000 + s.tierSize then .host else .edge (s.ddrChannel a / 8)
    | .store k => .store k
    | .tmem t => .tile t
    | .qctl q => if a % 0x100000000 < 0x40000000 then .tile (q * 1024 + a % 0x100000000 / 0x100000) else .base q
    | .edge e => .edge e
    | .square => .edge 0
    | .reserved => .edge 0

/-! ## The streets of a quarter (R7, R289, R290) -/

/-- The column of a tile's router in its quarter. -/
def tileX (t : Nat) : Nat := 4 * (t / 16 % 8) + t % 4

/-- The row of a tile's router in its quarter. -/
def tileY (t : Nat) : Nat := 4 * (t / 128 % 8) + t / 4 % 4

/-- The numbers from a to b, up or down, with both ends. -/
def walkTo (a b : Nat) : List Nat :=
  if a ≤ b then (List.range (b - a + 1)).map (a + ·) else (List.range (a - b + 1)).map (a - ·)

/-- The routers from one place of a quarter to another: X first, then Y. -/
def streetWalk (q x y x' y' : Nat) : List Stop :=
  (walkTo x x').map (fun i => .street q i y) ++ (walkTo y y').tail.map fun j => .street q x' j

/-- The coordinate in a block's range of four that is nearest to a. -/
def nearest (b a : Nat) : Nat := max (4 * b) (min a (4 * b + 3))

/-- Whether two tiles are neighbours, which a side-street joins (R289). -/
def besides (t u : Nat) : Bool :=
  quarterOf t == quarterOf u &&
    (tileX t - tileX u + (tileX u - tileX t)) + (tileY t - tileY u + (tileY u - tileY t)) == 1

/-- Whether a number under R432 names a street link: the direction leads to another router of the quarter (R289). -/
def streetLink (u : Nat) : Bool :=
  let x := u / 4 % 32
  let y := u / 128 % 32
  decide (u < 81920) && match u % 4 with
    | 0 => y != 0
    | 1 => x != 31
    | 2 => y != 31
    | _ => x != 0

/-! ## The avenues (R292) -/

/-- Whether a number under R432 names an avenue link: to another quarter, or west, east and south to an edge die; to the north of
quarters 0 to 4 there is none (R11, R292). -/
def avenueLink (u : Nat) : Bool := decide (u < 80) && !(u % 4 == 0 && decide (u < 20))

/-- The quarter at a place of the grid. -/
def gridQuarter (x y : Nat) : Nat := y * 5 + x

/-- The avenue routers from one quarter to another: X first, then Y. -/
def avenueWalk (q q' : Nat) : List Stop :=
  (walkTo (q % 5) (q' % 5)).map (fun i => .avenue (gridQuarter i (q / 5))) ++
    (walkTo (q / 5) (q' / 5)).tail.map fun j => .avenue (gridQuarter (q' % 5) j)

/-- The quarter where a packet leaves the grid for an edge die: the west or east end of its row, or the south end of its
column (R292). -/
def edgeExit (q e : Nat) : Nat :=
  match e with
  | 0 => gridQuarter 0 (q / 5)
  | 1 => gridQuarter 4 (q / 5)
  | _ => gridQuarter (q % 5) 3

/-! ## Whole paths (R290, R292) -/

/-- From a quarter's edge ring into the quarter: along the ring to the destination's column, then south. For a block store that
column is the block's first (DESIGN CHOICE, log entry 140). -/
def ringIn (q : Nat) (g : Goal) : List Stop :=
  match g with
  | .tile t => .ring q :: (List.range (tileY t + 1)).map fun j => .street q (tileX t) j
  | .store k =>
    let x := 4 * (k % 8)
    .ring q :: (List.range (4 * (k / 8 % 8) + 1)).map (fun j => .street q x j) ++ [.down q x (4 * (k / 8 % 8))]
  | _ => [.ring q]

/-- The quarter that a destination stands in, or where the avenues reach it: the host die is joined at quarter 2 (R12). -/
def Goal.quarter (q : Nat) (g : Goal) : Nat :=
  match g with
  | .tile t => quarterOf t
  | .store k => k / 64
  | .base p => p
  | .edge e => edgeExit q e
  | .host => 2

/-- From a quarter's edge ring to a destination, over the avenues where it is not in the quarter. -/
def ringPath (q : Nat) (g : Goal) : List Stop :=
  let crossing := .ring q :: avenueWalk q (g.quarter q)
  match g with
  | .edge e => crossing ++ [.edgeDie e]
  | .host => crossing ++ [.hostDie]
  | _ => if g.quarter q = q then ringIn q g else crossing ++ ringIn (g.quarter q) g

/-- From the street router at (x, y) of a quarter to a destination (R290). -/
def streetPath (q x y : Nat) (g : Goal) : List Stop :=
  let north := (List.range (y + 1)).map fun j => .street q x (y - j)
  match g with
  | .tile t => if quarterOf t = q then streetWalk q x y (tileX t) (tileY t) else north ++ ringPath q g
  | .store k =>
    if k / 64 = q then
      let x' := nearest (k % 8) x
      let y' := nearest (k / 8 % 8) y
      streetWalk q x y x' y' ++ [.down q x' y']
    else north ++ ringPath q g
  | _ => north ++ ringPath q g

/-- From a tile to a destination: a neighbour is reached by the side-street (R289). -/
def tilePath (t : Nat) (g : Goal) : List Stop :=
  match g with
  | .tile u => if besides t u then [.side t u] else streetPath (quarterOf t) (tileX t) (tileY t) g
  | _ => streetPath (quarterOf t) (tileX t) (tileY t) g

/-- From an edge die to a destination: it enters the grid in the destination's own row or column (R11, R292). -/
def edgePath (e : Nat) (g : Goal) : List Stop :=
  let q := g.quarter 0
  let crossing := .edgeDie e :: avenueWalk (edgeExit q e) q
  match g with
  | .edge f => [.edgeDie e, .edgeDie f]
  | .host => crossing ++ [.hostDie]
  | _ => crossing ++ ringIn q g

/-- The tile of a block at whose router a stag's packet of run j enters the streets (R289). -/
def stagEntry (k run : Nat) : Nat := k * 16 + [5, 6, 9, 10].getD (run % 4) 5

/-! ## Streets that run (R291, R309, R459) -/

/-- Whether a quarter's streets run: they stop while its PLL is off (R309, R459). -/
def State.streetsRun (s : State) (q : Nat) : Bool := !(s.quarter q).clk.plloff

/-- The quarter whose streets a stop belongs to; the rings, avenues and dies run on the road clock (R291). -/
def Stop.streets (x : Stop) : Option Nat :=
  match x with
  | .street q _ _ => some q
  | .down q _ _ => some q
  | .side t _ => some (quarterOf t)
  | _ => none

/-- Whether a packet gets to the end of its path: the streets on its way run. Where they stand, it waits until the PLL of
their quarter has locked again (R459). -/
def State.roadOpen (s : State) (path : List Stop) : Bool :=
  path.all fun x => match x.streets with
    | some q => s.streetsRun q
    | none => true

/-- The path of a tile's request to a city address. -/
def State.pathOf (s : State) (t city : Nat) : List Stop := tilePath t (s.goalOf city)

/-- Whether a request of a tile gets to a city address, and finds no spot test there (R432). -/
def State.reachable (s : State) (t city : Nat) : Bool :=
  s.roadOpen (s.pathOf t city) && !(s.isLocal city && s.underTest (devAddr city))

/-- Whether an access from outside the streets, of an edge die, the host or the Square, gets to a device address. -/
def State.enters (s : State) (a : Nat) : Bool := s.roadOpen (edgePath 0 (s.goalOf (s.cityOf a))) && !s.underTest a

end Sys2Proof.Machine
end

