-- ==== Sys2Proof/Machine/GlobalMem.lean ====
section
/-! DEFINITION. Global memory access of a tile at issue: load slots, the data cache, the merging buffer, the ordering
instructions and the instructions that act at a word's home (R42 to R46, R184 to R188, R214 to R220, R226 to R236,
R490). Each body may be given the translation that a walk has just delivered; the events of the requests that it
makes are given with the memory events. -/

namespace Sys2Proof.Machine

/-! ## Order among a tile's accesses (R226, R231 to R236) -/

/-- Whether a Hive instruction changes records, and so is a signalling action: all but HGET and HCELL with fn 1
(R325). -/
def hiveSignals (opc opb : Byte) : Bool := !(opc == 0xEA || (opc == 0xEB && fld opb 0 2 == 1))

/-- Whether a request writes, for REL (R231, R236). -/
def ReqKind.writes : ReqKind → Bool
  | .write _ _ => true
  | .aadd _ => true
  | .acas _ _ => true
  | .mcmp _ _ => true
  | .mcnt _ => true
  | .hive opc opb _ _ _ _ => hiveSignals opc opb
  | _ => false

/-- Whether a request reads, for ACQ (R233, R236). -/
def ReqKind.reads : ReqKind → Bool
  | .write _ _ => false
  | .hive _ _ _ _ _ _ => false
  | _ => true

/-- Whether a request is an atomic or an operation at memory with a result (R43). -/
def ReqKind.isOp : ReqKind → Bool
  | .aadd _ => true
  | .acas _ _ => true
  | .mcmp _ _ => true
  | .mcnt _ => true
  | _ => false

/-- Whether a request has been performed (R224). -/
def Req.performed (r : Req) : Bool :=
  match r.st with
  | .done _ _ => true
  | _ => false

/-- The commands of a stag that have not started (R231). -/
def Stag.waiting (x : Stag) : List StagCmd := if x.run.isSome then x.queue.tail else x.queue

/-- The chains of a channel that have not started (R231). -/
def Channel.waiting (c : Channel) : List Chain := if c.live then c.chains.tail else c.chains

/-- Whether every write and signalling action of a tile with an earlier REL number has been acknowledged (R231). A
message counts with the answer to its first attempt, a stag command and a DMA chain with their start. -/
def State.relMet (s : State) (t relE : Nat) : Bool :=
  relE = 0 ||
  (((s.tile t).gmem.mb.all fun e => decide (relE ≤ e.relE)) &&
   (s.reqs.all fun r => r.tile ≠ t || !r.kind.writes || decide (relE ≤ r.relE)) &&
   (s.attempts.all fun a => a.tile ≠ t || decide (relE ≤ a.relE) || a.acked) &&
   (s.blocks.all fun b =>
     (b.2.tops.all fun o => o.tile ≠ some t || decide (relE ≤ o.relE)) &&
     (b.2.stag.waiting.all fun c => c.tile ≠ t || decide (relE ≤ c.relE)) &&
     (b.2.dma.chans.toList.all fun c => c.waiting.all fun h => h.tile ≠ t || decide (relE ≤ h.relE))))

/-- Whether every access of a tile with an earlier FENCEG number has been performed (R235). -/
def State.fenMet (s : State) (t fenE : Nat) : Bool :=
  fenE = 0 ||
  (((s.tile t).gmem.mb.all fun e => decide (fenE ≤ e.fenE)) &&
   (s.reqs.all fun r => r.tile ≠ t || decide (fenE ≤ r.fenE) || (r.performed && !r.kind.writes)) &&
   (s.attempts.all fun a => a.tile ≠ t || decide (fenE ≤ a.fenE) || a.acked) &&
   (s.blocks.all fun b =>
     (b.2.tops.all fun o => o.tile ≠ some t || decide (fenE ≤ o.fenE)) &&
     (b.2.stag.waiting.all fun c => c.tile ≠ t || decide (fenE ≤ c.fenE)) &&
     (b.2.dma.chans.toList.all fun c => c.waiting.all fun h => h.tile ≠ t || decide (fenE ≤ h.fenE))))

/-- Whether a read of a tile may be performed: every read before the last ACQ, and every earlier GLDA, has been
(R233, R234). -/
def State.acqMet (s : State) (t acqE seq : Nat) : Bool :=
  s.reqs.all fun r => r.tile ≠ t || !r.kind.reads || r.performed ||
    (decide (acqE ≤ r.acqE) && !(r.glda && decide (r.seq < seq)))

/-- Whether an earlier access of the tile to the same line is still to be performed (R226); an operation also waits for
a merging-buffer entry of its line that has not been sent. -/
def State.lineMet (s : State) (t line seq : Nat) (op : Bool) : Bool :=
  (s.reqs.all fun r => r.tile ≠ t || r.addr / 64 ≠ line || r.performed || decide (seq ≤ r.seq)) &&
  (!op || (s.tile t).gmem.mb.all fun e => e.line ≠ line || decide (seq ≤ e.seq))

/-- Whether a request may be performed now: the ordering before it holds, and its path is open (R226, R231 to R236, R290,
R309). -/
def State.mayPerform (s : State) (r : Req) : Bool :=
  s.reachable r.tile r.addr && s.fenMet r.tile r.fenE && (!r.kind.writes || s.relMet r.tile r.relE) &&
  (!r.kind.reads || s.acqMet r.tile r.acqE r.seq) &&
  s.lineMet r.tile (r.addr / 64) r.seq (r.kind.isOp || match r.kind with
    | .gldb _ => true
    | .row _ => true
    | .watch _ => true
    | .count _ _ _ => true
    | _ => false)

/-! ## Requests and load slots -/

/-- A request of a tile, numbered, with the tile's place in program order. -/
def State.mkReq (s : State) (t : Nat) (kind : ReqKind) (city : Nat) (slot : Option Nat) (glda big : Bool) (st : ReqState) :
    Req :=
  let x := s.tile t
  { id := s.nextId, tile := t, kind, addr := city, slot, seq := x.gmem.seq, relE := x.gmem.relE, acqE := x.gmem.acqE
    fenE := x.gmem.fenE, glda, noInstall := false, big, user := x.user, part := x.part
    epoch := s.epochOf (quarterOf t) x.part, st }

/-- Puts a request on the roads and counts the access in the tile's program order. -/
def State.addReq (s : State) (t : Nat) (kind : ReqKind) (city : Nat) (slot : Option Nat) (glda : Bool)
    (st : ReqState) (big : Bool := false) : State :=
  let r := s.mkReq t kind city slot glda big st
  { (s.modTile t fun x => { x with gmem := { x.gmem with seq := x.gmem.seq + 1 } }) with
    reqs := s.reqs ++ [r], nextId := s.nextId + 1 }

/-- Fills the next load slot (R42). -/
def State.addSlot (s : State) (t : Nat) (sl : Slot) : State :=
  s.modTile t fun x => { x with gmem := { x.gmem with slots := x.gmem.slots ++ [sl] } }

/-- An empty slot of a value that is still to come. -/
def newSlot (id : Nat) (va : Word) (size : Nat) (zext : Bool) (pc : BitVec 56) : Slot :=
  { id, fill := none, va, size, zext, fwdMask := 0, fwd := 0, val := none, poison := false, pc }

/-- The value of a load from the bytes that arrive and those that forwarding has fixed (R42, R226). -/
def Slot.value (sl : Slot) (raw : Word) : Word :=
  let w := (List.range 8).foldl (fun (w : Word) i =>
    if bit sl.fwdMask i then setFld w (8 * i) 8 (fld sl.fwd (8 * i) 8) else w) raw
  extend sl.size sl.zext w.toNat

/-! ## The data cache (R214 to R220) -/

/-- The line a cache holds at a city line number; one with an uncorrectable error is invalid (R429). -/
def cacheFind (c : List CacheLine) (line : Nat) : Option CacheLine := c.find? fun l => l.line = line && !l.bad

/-- A cache with a line most recently used: four ways in each of 64 sets (R214). -/
def cacheInstall (c : List CacheLine) (l : CacheLine) : List CacheLine :=
  let rest := c.filter fun x => x.line ≠ l.line
  let mine := rest.filter fun x => x.line % 64 = l.line % 64
  match mine[3]? with
  | some v => l :: rest.filter fun x => x.line ≠ v.line
  | none => l :: rest

/-- Drops the lines of a data cache that a test names. -/
def GMem.dropLines (g : GMem) (p : Nat → Bool) : GMem := { g with dcache := g.dcache.filter fun l => !p l.line }

/-- Line fills of a tile install no line, where a test names their lines (R218, R219, R233). -/
def State.noInstall (s : State) (t : Nat) (p : Nat → Bool) : State :=
  { s with reqs := s.reqs.map fun r =>
    match r.kind with
    | .fill _ _ _ => if r.tile = t && p (r.addr / 64) then { r with noInstall := true } else r
    | _ => r }

/-- The fill that a load of a line can join (R216). -/
def State.joinable (s : State) (t line : Nat) : Option Req :=
  s.reqs.find? fun r => r.tile = t && r.addr / 64 = line && !r.noInstall &&
    match r.kind with
    | .fill _ _ _ => true
    | _ => false

/-- Miss registers in use: fills whose line has not arrived (R216). -/
def State.missRegs (s : State) (t : Nat) : Nat :=
  (s.reqs.filter fun r => r.tile = t && match r.kind with
    | .fill _ _ _ => true
    | _ => false).length

/-- A free miss register for a demand miss, which never waits for a prefetch: where all 8 are busy, the newest prefetch gives
its register up and installs nothing (R216). DEDUCED (log entry 137). -/
def State.takeReg (s : State) (t : Nat) : Option State :=
  if s.missRegs t < 8 then some s
  else (s.reqs.filter fun r => r.tile = t && match r.kind with
    | .fill p _ _ => p
    | _ => false).getLast?.map fun p => { s with reqs := s.reqs.filter fun r => r.id ≠ p.id }

/-- The bytes of a line that unsent merging-buffer entries hold: mask and data (R226). -/
def mbLine (mb : List MbEntry) (line : Nat) : BitVec 64 × Line :=
  (mb.filter fun e => e.line = line).foldl (fun a e => (a.1 ||| e.mask, overlay e.mask e.data a.2)) (0, 0)

/-- The bytes of an access that forwarding fixes at issue: those in unsent merging-buffer entries, unless an operation
of the tile on the line came after them (R226, R236). -/
def State.forwarded (s : State) (t city n : Nat) : Byte × Word :=
  let line := city / 64
  let lastOp := (s.reqs.filter fun r => r.tile = t && r.addr / 64 = line && r.kind.isOp && !r.performed).foldl
    (fun m r => max m (r.seq + 1)) 0
  let mb := (s.tile t).gmem.mb.filter fun e => e.line = line && decide (lastOp ≤ e.seq + 1)
  let (mask, data) := mbLine mb line
  let o := city % 64
  (List.range n).foldl (fun (a : Byte × Word) i =>
    if bit mask (o + i) then (setBit a.1 i true, setFld a.2 (8 * i) 8 (fld data (8 * (o + i)) 8)) else a) (0, 0)

/-- The bytes of a joined fill that stores after its request have replaced (R226). -/
def fillBytes (mask : BitVec 64) (data : Line) (city n : Nat) (a : Byte × Word) : Byte × Word :=
  let o := city % 64
  (List.range n).foldl (fun (a : Byte × Word) i =>
    if bit mask (o + i) && !bit a.1 i then (setBit a.1 i true, setFld a.2 (8 * i) 8 (fld data (8 * (o + i)) 8)) else a) a

/-- The prefetch of the next line after a cacheable demand miss (R216). -/
def State.prefetch (s : State) (t city : Nat) (big : Bool) : State :=
  let next := city / 64 + 1
  let page := if big then 0x40000000 else 0x200000
  if bit (s.tile t).ctl.cachectl 2 || s.missRegs t ≥ 8 || (next * 64) / page ≠ city / page || !s.cacheable t (next * 64) false
      || (cacheFind (s.tile t).gmem.dcache next).isSome || (s.joinable t next).isSome then s
  else
    let (m, d) := mbLine (s.tile t).gmem.mb next
    s.addReq t (.fill true m d) (next * 64) none false .sent

/-- A demand miss joins a fill under way, which is no prefetch any more (R216). -/
def State.demand (s : State) (id : Nat) : State :=
  { s with reqs := s.reqs.map fun (x : Req) =>
    match x.kind with
    | .fill _ m d => if x.id = id then { x with kind := .fill false m d } else x
    | _ => x }

/-- A load slot that joins a fill, with the bytes of the tile's stores since the fill's request (R216, R226). -/
def Slot.join (sl : Slot) (r : Req) (city : Nat) : Slot :=
  match r.kind with
  | .fill _ m d =>
    let f := fillBytes m d city (2 ^ sl.size) (sl.fwdMask, sl.fwd)
    { sl with fill := some r.id, fwdMask := f.1, fwd := f.2 }
  | _ => sl

/-- The request of a line fill, with the bytes of its line that the merging buffer holds (R216, R226). -/
def State.addFill (s : State) (t city : Nat) (glda : Bool) : State :=
  let (m, d) := mbLine (s.tile t).gmem.mb (city / 64)
  s.addReq t (.fill false m d) city none glda .sent

/-- Requests a line for a load, joins a request under way, or leaves the load in its slot until a miss register frees
(R216). -/
def State.missLoad (s : State) (t city : Nat) (sl : Slot) (glda big : Bool) : State :=
  match if glda then none else s.joinable t (city / 64) with
  | some r => (((s.count t 5 1).demand r.id).addSlot t (sl.join r city)).prefetch t city big
  | none =>
    match s.takeReg t with
    | some s =>
      let s := (s.count t 5 1).addSlot t { sl with fill := some s.nextId }
      (s.addFill t city glda).prefetch t city big
    | none => (s.addSlot t sl).addReq t (.load sl.size) city (some sl.id) glda .held big

/-- Whether no access of the tile to a line waits at the tile itself: a later load of the line goes after it (R226). -/
def State.noneHeld (s : State) (t line : Nat) : Bool :=
  s.reqs.all fun r => r.tile ≠ t || r.addr / 64 ≠ line || r.st != .held

/-- Whether a load takes bytes of a merging-buffer word that holds an uncorrectable error: its value is poisoned (R429). -/
def GMem.mbBad (g : GMem) (city n : Nat) : Bool :=
  g.mb.any fun e => e.line = city / 64 && bit e.bad (city % 64 / 8) && (List.range n).any fun i => bit e.mask (city % 64 + i)

/-- A translated load takes its slot and goes to the cache, to the tile's own memory, or to its home (R42, R216, R220,
R226, R227, R234). A load that an ordering instruction holds, or one of the tile's own memory behind a store on its way, looks
its line up when it is performed. -/
def State.loadAt (s : State) (t : Nat) (va : Word) (k : Nat) (zext glda : Bool) (city : Nat) (e : TlbEntry) : State :=
  let x := s.tile t
  let n := 2 ^ k
  let line := city / 64
  let cached := x.den && s.cacheable t city e.nc
  let s := if glda && cached then
      (s.modTile t fun x => { x with gmem := x.gmem.dropLines (· == line) }).noInstall t (· == line)
    else s
  let (fm, fw) := s.forwarded t city n
  let sl := { newSlot s.nextId va k zext x.core.pc with fwdMask := fm, fwd := fw, poison := x.gmem.mbBad city n }
  let s := { s with nextId := s.nextId + 1 }
  let free := s.acqMet t x.gmem.acqE x.gmem.seq && s.fenMet t x.gmem.fenE && s.noneHeld t line
  if fm.toNat = 2 ^ n - 1 then s.addSlot t { sl with val := some (sl.value 0) }
  else if free && s.ownMem t city && s.lineMet t line x.gmem.seq false then
    let off := devAddr city - tileMemBase t
    let raw : Word := BitVec.ofNat 64 (leNat (s.portRead t off n))
    let bad := s.portBad t off n
    ((s.portMeet t off n).addSlot t sl).addReq t (.load k) city (some sl.id) glda (.done (raw.setWidth 512) bad)
  else if (cached && !free) || s.ownMem t city then (s.addSlot t sl).addReq t (.load k) city (some sl.id) glda .held e.big
  else if cached then
    match if glda then none else cacheFind (s.tile t).gmem.dcache line with
    | some l =>
      let s := s.modTile t fun x => { x with gmem := { x.gmem with dcache := cacheInstall x.gmem.dcache l } }
      s.addSlot t { sl with val := some (sl.value (BitVec.ofNat 64 (fld l.data (8 * (city % 64)) (8 * n)))) }
    | none => s.missLoad t city sl glda e.big
  else (s.addSlot t sl).addReq t (.load k) city (some sl.id) glda .sent

/-- DEPTH.GL as EVAL gives it for LOAD_SLOT (R67). -/
def Tile.slotCount (x : Tile) : Word := BitVec.ofNat 64 x.gmem.slots.length

/-- GLD and GLDA once their parcel has passed (R42). -/
def gldBody (t : Nat) (opc opb : Byte) (tr : Option TlbEntry) (s : State) : Res :=
  let va := s.arg t 0
  let k := fld opb 0 2
  if (s.tile t).gmem.slots.length ≥ 8 then .trap s 0x08 (s.tile t).slotCount 0
  else if va.toNat % 2 ^ k ≠ 0 then .trap s 0x06 va 0
  else match s.look t tr va kLoad with
    | .fault c => .trap s c va 0
    | .miss => .hold (s.startWalk t opc opb va kLoad)
    | .hit s city e => .ok (((s.loadAt t va k (bit opb 2) (opc == 0x61) city e).count t 8 1).push t 1 [] 0) .seq

/-- GLD: a global load into the next load slot (R42). -/
def execGld (t : TileNo) (b : Byte) (s : State) : Ans :=
  .next (s.issue t { opc := 0x60, opb := b, legal := opLoad b, din := 1 } (gldBody t 0x60 b none))

/-- GLDA: a GLD that reads its line at the home and holds later reads until it is performed (R234). -/
def execGlda (t : TileNo) (b : Byte) (s : State) : Ans :=
  .next (s.issue t { opc := 0x61, opb := b, legal := opLoad b, din := 1 } (gldBody t 0x61 b none))

/-! ## GTAKE and GFILL -/

/-- Logs that an instruction consumed a poisoned value (R431, SEV 2). -/
def State.logConsumed (s : State) (t : Nat) (va : Word) : State :=
  s.logError (quarterOf t) (va.toNat % 2 ^ 56) ⟨3, t⟩ 2 (s.whoTile t).agent

/-- GTAKE: waits for the oldest slot's value, which it pushes, freeing the slot (R42, R46). A poisoned value stays in
its slot (R67). -/
def gtakeBody (t : Nat) (opb : Byte) (s : State) : Res :=
  let s := s.drain t
  match (s.tile t).gmem.slots with
  | [] => .trap s 0x08 0 0
  | sl :: rest =>
    match sl.val with
    | none => .hold (s.setDoing t (.wait 0x62 opb))
    | some v =>
      if sl.poison then .trap (s.logConsumed t sl.va) 0x1D sl.va 0
      else
        let s := s.modTile t fun x => { x with gmem := { x.gmem with slots := rest } }
        .ok (s.push t 0 [v] 0) .seq

/-- GTAKE (R42). -/
def execGtake (t : TileNo) (b : Byte) (s : State) : Ans :=
  .next (s.issue t { opc := 0x62, opb := b, legal := opNone b, dout := 1 } (gtakeBody t b))

/-- GFILL fills the next load slot with x as an arrived value (R45). -/
def execGfill (t : TileNo) (b : Byte) (s : State) : Ans :=
  .next (s.issue t { opc := 0x65, opb := b, legal := opNone b, sup := true, din := 1 } fun s =>
    if (s.tile t).gmem.slots.length ≥ 8 then .trap s 0x08 (s.tile t).slotCount 0
    else
      let sl := { newSlot s.nextId 0 3 true (s.tile t).core.pc with val := some (s.arg t 0) }
      .ok (({ s with nextId := s.nextId + 1 }.addSlot t sl).push t 1 [] 0) .seq)

/-! ## GST and the merging buffer (R217) -/

/-- GST once its parcel has passed: a waiting instruction, which waits where the merging buffer can take no entry
(R44, R46). -/
def gstBody (t : Nat) (opb : Byte) (tr : Option TlbEntry) (s : State) : Res :=
  let s := s.drain t
  let va := s.arg t 0
  let k := fld opb 0 2
  if va.toNat % 2 ^ k ≠ 0 then .trap s 0x06 va 0
  else match s.look t tr va kStore with
    | .fault c => .trap s c va 0
    | .miss => .hold (s.startWalk t 0x63 opb va kStore)
    | .hit s city e =>
      let bs := natBytes (2 ^ k) (s.arg t 1).toNat
      match (s.tile t).gmem.merge city bs (s.cacheable t city e.nc) (s.tile t).user with
      | none => .hold (s.setDoing t (.wait 0x63 opb))
      | some g => .ok (((s.modTile t fun x => { x with gmem := g }).storeCached t city bs).push t 2 [] 0) .seq

/-- GST: a global store through the merging buffer (R42, R44). -/
def execGst (t : TileNo) (b : Byte) (s : State) : Ans :=
  .next (s.issue t { opc := 0x63, opb := b, legal := opStore b, din := 2 } (gstBody t b none))

/-! ## Atomics and operations at memory with a result (R43, R185, R218) -/

/-- Open merging-buffer entries whose lines a test names start to drain (R217). -/
def GMem.drainLines (g : GMem) (p : Nat → Bool) : GMem :=
  { g with mb := g.mb.map fun e => if p e.line then { e with drain := true } else e }

/-- Writes and operations at memory of a tile that have been sent and not acknowledged (R232, R236). -/
def State.unacked (s : State) (t : Nat) : Nat :=
  (s.reqs.filter fun r => r.tile = t && match r.kind with
    | .write _ _ => true
    | _ => r.kind.isOp && r.st != .held && (r.performed || s.relMet t r.relE && s.fenMet t r.fenE)).length

/-- AADD, ACAS, MCMP and MCNT once their parcel has passed: `pops` operands, va on top. -/
def opBody (t : Nat) (opc opb : Byte) (pops : Nat) (kind : State → ReqKind) (tr : Option TlbEntry) (s : State) : Res :=
  let va := s.arg t 0
  if (s.tile t).gmem.slots.length ≥ 8 then .trap s 0x08 (s.tile t).slotCount 0
  else if va.toNat % 8 ≠ 0 then .trap s 0x06 va 0
  else match s.look t tr va kBoth with
    | .fault c => .trap s c va 0
    | .miss => .hold (s.startWalk t opc opb va kBoth)
    | .hit s city _ =>
      let k := kind s
      let line := city / 64
      let s := if (s.tile t).den then s.modTile t fun x => { x with gmem := x.gmem.dropLines (· == line) } else s
      let s := (s.noInstall t (· == line)).modTile t fun x => { x with gmem := x.gmem.drainLines (· == line) }
      let id := s.nextId
      let s := { s with nextId := id + 1 }
      let s := s.addSlot t (newSlot id va 3 true (s.tile t).core.pc)
      let st : ReqState := if s.unacked t < 64 then .sent else .held
      .ok ((s.addReq t k city (some id) false st).push t pops [] 0) .seq

/-- The body of AADD ( x va -- ). -/
def aaddBody (t : Nat) (b : Byte) : Option TlbEntry → State → Res := opBody t 0x68 b 2 fun s => .aadd (s.arg t 1)

/-- The body of ACAS ( new cmp va -- ). -/
def acasBody (t : Nat) (b : Byte) : Option TlbEntry → State → Res :=
  opBody t 0x69 b 3 fun s => .acas (s.arg t 2) (s.arg t 1)

/-- The body of MCMP ( new cmp va -- ). -/
def mcmpBody (t : Nat) (b : Byte) : Option TlbEntry → State → Res :=
  opBody t 0x6A b 3 fun s => .mcmp (s.arg t 2) (s.arg t 1)

/-- The body of MCNT ( x va -- ). -/
def mcntBody (t : Nat) (b : Byte) : Option TlbEntry → State → Res := opBody t 0x6B b 2 fun s => .mcnt (s.arg t 1)

/-- AADD: an atomic add at the home (R43). -/
def execAadd (t : TileNo) (b : Byte) (s : State) : Ans :=
  .next (s.issue t { opc := 0x68, opb := b, legal := opNone b, din := 2 } (aaddBody t b none))

/-- ACAS: an atomic compare-and-swap at the home (R43). -/
def execAcas (t : TileNo) (b : Byte) (s : State) : Ans :=
  .next (s.issue t { opc := 0x69, opb := b, legal := opNone b, din := 3 } (acasBody t b none))

/-- MCMP: a memory-side compare-and-swap (R185). -/
def execMcmp (t : TileNo) (b : Byte) (s : State) : Ans :=
  .next (s.issue t { opc := 0x6A, opb := b, legal := opNone b, din := 3 } (mcmpBody t b none))

/-- MCNT: a memory-side saturating add (R185). -/
def execMcnt (t : TileNo) (b : Byte) (s : State) : Ans :=
  .next (s.issue t { opc := 0x6B, opb := b, legal := opNone b, din := 2 } (mcntBody t b none))

/-! ## WAITM (R187) -/

/-- WAITM once its parcel has passed: it lands every result, asks its home for a watch and waits (R46, R47, R187). -/
def waitmBody (t : Nat) (opb : Byte) (tr : Option TlbEntry) (s : State) : Res :=
  let s := s.drain t
  let va := s.arg t 0
  if va.toNat % 8 ≠ 0 then .trap s 0x06 va 0
  else match s.look t tr va kLoad with
    | .fault c => .trap s c va 0
    | .miss => .hold (s.startWalk t 0x6E opb va kLoad)
    | .hit s city _ =>
      let line := city / 64
      let x := s.arg t 1
      let s := s.modTile t fun y => { y with gmem := y.gmem.drainLines (· == line) }
      .hold ((s.addReq t (.watch x) city none false .sent).setDoing t (.wait 0x6E opb))

/-- WAITM: waits until the word at va, unsigned, is at least x (R187). -/
def execWaitm (t : TileNo) (b : Byte) (s : State) : Ans :=
  .next (s.issue t { opc := 0x6E, opb := b, legal := opNone b, din := 2 } (waitmBody t b none))

/-! ## MRCNT and MRCNTM (R188) -/

/-- The operands of a range count: acc, mask, val, va and n. -/
structure RangeArgs where
  acc  : Word
  mask : Word
  val  : Word
  va   : Word
  n    : Word

/-- The operands of MRCNT ( acc val va n -- ) or MRCNTM ( acc mask val va n -- ). -/
def State.rangeArgs (s : State) (t : Nat) (opc : Byte) : RangeArgs :=
  { n := s.arg t 0, va := s.arg t 1, val := s.arg t 2
    mask := if opc = 0x6D then s.arg t 3 else BitVec.allOnes 64
    acc := if opc = 0x6D then s.arg t 4 else s.arg t 3 }

/-- Pops of MRCNT and MRCNTM. -/
def rangePops (opc : Byte) : Nat := if opc = 0x6D then 5 else 4

/-- The ranges whose counts a tile has requested and not yet added, by their va. -/
def State.rangesAsked (s : State) (t : Nat) : List Word :=
  s.reqs.filterMap fun r => match r.kind with
    | .count va _ _ => if r.tile = t then some va else none
    | _ => none

/-- Requests the first k ranges of a count, in order, that are not yet requested and whose pages translate (R188); the
first range's translation may be one that a walk has just delivered. -/
def State.rangeRequest (s : State) (t : Nat) (tr : Option TlbEntry) (a : RangeArgs) : Nat → State
  | 0 => s
  | k + 1 =>
    let s := s.rangeRequest t tr a k
    let va := a.va + BitVec.ofNat 64 (1024 * k)
    if k < a.n.toNat ∧ !(s.rangesAsked t).contains va then
      match s.look t tr va kLoad with
      | .hit s city _ =>
        let here (l : Nat) : Bool := decide (city / 64 ≤ l) && decide (l < city / 64 + 16)
        let s := s.modTile t fun y => { y with gmem := y.gmem.drainLines here }
        s.addReq t (.count va a.val a.mask) city none false .sent
      | _ => s
    else s

/-- MRCNT and MRCNTM once their parcel has passed: with n = 0 they push acc; else they hold issue while their ranges,
at most 8 at a time, are counted (R49, R188). -/
def mrcntBody (t : Nat) (opc opb : Byte) (tr : Option TlbEntry) (s : State) : Res :=
  let s := s.drain t
  let a := s.rangeArgs t opc
  if a.va.toNat % 1024 ≠ 0 then .trap s 0x06 a.va 0
  else if a.n = 0 then .ok (s.push t (rangePops opc) [a.acc] 0) .seq
  else match s.look t tr a.va kLoad with
    | .fault c => .trap s c a.va 0
    | .miss => .hold (s.startWalk t opc opb a.va kLoad)
    | .hit _ _ _ => .hold ((s.rangeRequest t tr a 8).setDoing t (.long opc opb))

/-- MRCNT: counts the words equal to val in n aligned 1 KiB ranges (R188). -/
def execMrcnt (t : TileNo) (b : Byte) (s : State) : Ans :=
  .next (s.issue t { opc := 0x6C, opb := b, legal := opNone b, din := 4, dout := 1 } (mrcntBody t 0x6C b none))

/-- MRCNTM: as MRCNT, comparing under mask (R188). -/
def execMrcntm (t : TileNo) (b : Byte) (s : State) : Ans :=
  .next (s.issue t { opc := 0x6D, opb := b, legal := opNone b, din := 5, dout := 1 } (mrcntBody t 0x6D b none))

/-! ## GLDB (R490) -/

/-- Lines that a GLDB has requested and not yet written, by their tile memory offsets. -/
def State.gldbLines (s : State) (t : Nat) : List Nat :=
  s.reqs.filterMap fun r => match r.kind with
    | .gldb la => if r.tile = t then some la else none
    | _ => none

/-- Requests the lines of a GLDB, in order, that are not yet requested and whose pages translate, while fewer than 8
are out (R490); the first line's translation may be one that a walk has just delivered. -/
def State.gldbRequest (s : State) (t : Nat) (tr : Option TlbEntry) (la va : Word) (n : Nat) : Nat → State
  | 0 => s
  | k + 1 =>
    let s := s.gldbRequest t tr la va n k
    let o := la.toNat + 64 * k
    if k < n ∧ !(s.gldbLines t).contains o then
      match s.look t tr (va + BitVec.ofNat 64 (64 * k)) kLoad with
      | .hit s city _ =>
        let s := s.modTile t fun x => { x with gmem := x.gmem.drainLines (· == city / 64) }
        s.addReq t (.gldb o) city none false .sent
      | _ => s
    else s

/-- GLDB once its parcel has passed: the checks of R490, then, unless n = 0, the copy (R49). -/
def gldbBody (t : Nat) (opb : Byte) (tr : Option TlbEntry) (s : State) : Res :=
  let s := s.drain t
  let n := s.arg t 0
  let va := s.arg t 1
  let la := s.arg t 2
  let last := la.toNat + 64 * n.toNat
  if last > 0x40000 then .trap s 0x07 (BitVec.ofNat 64 (last - 1)) 0
  else if la.toNat % 64 ≠ 0 then .trap s 0x06 la 0
  else if va.toNat % 64 ≠ 0 then .trap s 0x06 va 0
  else if n = 0 then .ok (s.push t 3 [] 0) .seq
  else match s.look t tr va kLoad with
    | .fault c => .trap s c va 0
    | .miss => .hold (s.startWalk t 0x64 opb va kLoad)
    | .hit _ _ _ => .hold ((s.gldbRequest t tr la va n.toNat 8).setDoing t (.long 0x64 opb))

/-- GLDB ( la va n -- ): copies n lines of 64 B from va to tile memory offset la (R490). -/
def execGldb (t : TileNo) (b : Byte) (s : State) : Ans :=
  .next (s.issue t { opc := 0x64, opb := b, legal := opNone b, din := 3 } (gldbBody t b none))

/-! ## Ordering instructions and invalidations (R219, R231 to R235) -/

/-- REL orders the tile's earlier writes before its later ones and starts every open entry draining (R231). -/
def execRel (t : TileNo) (b : Byte) (s : State) : Ans :=
  .next (s.issue t { opc := 0x70, opb := b, legal := opNone b } fun s =>
    .ok (s.modTile t fun x => { x with gmem := { x.gmem.drainAll with relE := x.gmem.relE + 1 } }) .seq)

/-- Whether a line lies in the sets that ACQ selects (R233). -/
def acqSets (va len : Word) (line : Nat) : Bool :=
  let first := va.toNat / 64
  let last := (va.toNat + len.toNat - 1) / 64
  len == 0 || decide (last - first ≥ 63) || decide ((line + 64 - first % 64) % 64 ≤ last - first)

/-- ACQ invalidates the data-cache lines of the sets that va to va + len − 1 select and orders the tile's earlier reads
before its later ones; with the cache disabled it only orders (R233). -/
def execAcq (t : TileNo) (b : Byte) (s : State) : Ans :=
  .next (s.issue t { opc := 0x71, opb := b, legal := opNone b, din := 2 } fun s =>
    let len := s.arg t 0
    let va := s.arg t 1
    let s := if (s.tile t).den then
        (s.modTile t fun x => { x with gmem := x.gmem.dropLines (acqSets va len) }).noInstall t fun _ => true
      else s
    .ok ((s.modTile t fun x => { x with gmem := { x.gmem with acqE := x.gmem.acqE + 1 } }).push t 2 [] 0) .seq)

/-- FENCEG acts as REL, invalidates the whole data cache, and orders every earlier access before every later one
(R235). -/
def execFenceg (t : TileNo) (b : Byte) (s : State) : Ans :=
  .next (s.issue t { opc := 0x72, opb := b, legal := opNone b } fun s =>
    let s := if (s.tile t).den then
        (s.modTile t fun x => { x with gmem := x.gmem.dropLines fun _ => true }).noInstall t fun _ => true
      else s
    .ok (s.modTile t fun x => { x with gmem :=
      { x.gmem.drainAll with relE := x.gmem.relE + 1, acqE := x.gmem.acqE + 1, fenE := x.gmem.fenE + 1 } }) .seq)

/-- CINV invalidates the whole data cache; fills under way install no line (R219). -/
def execCinv (t : TileNo) (b : Byte) (s : State) : Ans :=
  .next (s.issue t { opc := 0x73, opb := b, legal := opNone b, sup := true } fun s =>
    .ok ((s.modTile t fun x => { x with gmem := x.gmem.dropLines fun _ => true }).noInstall t fun _ => true) .seq)

/-- ICINV invalidates the whole instruction cache; a fetch under way installs no line (R219). -/
def execIcinv (t : TileNo) (b : Byte) (s : State) : Ans :=
  .next (s.issue t { opc := 0x74, opb := b, legal := opNone b, sup := true } fun s =>
    let s := { s with far := s.far.map fun (x : FarAccess) =>
      if x.who == Reader.fetch t.val || x.who == Reader.ahead t.val then { x with stale := true } else x }
    .ok (s.modTile t fun x => { x with gmem := { x.gmem with icache := [] } }) .seq)

end Sys2Proof.Machine
end

