-- ==== Sys2Proof/Machine/Remote.lean ====
section
/-! DEFINITION. Requests to other devices: transactions and the packets that open them (R344 to R349), and counted words
anywhere in the city. -/

namespace Sys2Proof.Machine

/-- A transaction id that no transaction in flight has. -/
def freshTx (txs : List Transaction) : Nat → BitVec 24 → BitVec 24
  | 0, t => t
  | k + 1, t => if txs.any (fun x => x.txid == t) then freshTx txs k (t + 1) else t

/-- Transactions in flight at the edge dies together, at most (R346). -/
def txLimit : Nat := 49152

/-- Whether the edge dies have a transaction free for one request more (R346). -/
def State.txFree (s : State) : Bool := s.txWait.isEmpty && decide (s.txs.length < txLimit)

/-- The packet of a request of this device's own agents (R344). -/
def State.requestPacket (s : State) (op : Byte) (part : PartNo) (epoch : BitVec 32) (city : Nat) (oparg : Word)
    (data : List Byte) (txid : BitVec 24) : Packet :=
  { op, len := BitVec.ofNat 9 data.length, part, sdev := s.devnum, ddev := BitVec.ofNat 12 (city / 0x100000000000)
    hops := 32, addr := BitVec.ofNat 56 city, epoch, txid, status := 0, oparg, rsv := false, data }

/-- Whether the avenue router finds a route to a city address's device; where none is usable it answers NOROUTE and no
transaction opens (R349). -/
def State.routable (s : State) (city : Nat) : Bool :=
  (s.route s.avenue 0 (s.requestPacket 0x01 0 0 city 0 [] 0)).isSome

/-- The Square writes entry d of a third's copy of the routing table; with that of E0 it writes the copies of the avenue routers,
which stand at no address that the spec gives (R347, R348). DESIGN CHOICE (log entry 147). -/
def State.writeRoute (s : State) (e d : Nat) (entry : Word) : State :=
  let entry := entry &&& 0x7F7F7F7F
  let s := s.modEdge e fun x => { x with routes := Tab.write d entry x.routes }
  if e = 0 then { s with avenue := Tab.write d entry s.avenue } else s

/-- Opens a transaction and sends its request (R346). -/
def State.request (s : State) (owner : TxOwner) (op : Byte) (part : PartNo) (epoch : BitVec 32) (city : Nat)
    (oparg : Word) (data : List Byte) : State × BitVec 24 :=
  let txid := freshTx s.txs txLimit s.nextTx
  let s := { s with txs := s.txs ++ [({ txid, op, city, owner, unwatched := false } : Transaction)], nextTx := txid + 1 }
  (s.sendPacket (s.requestPacket op part epoch city oparg data txid), txid)

/-- Sends a request in a transaction of its own, or lets it wait at its edge die until one is free (R346). -/
def State.ask (s : State) (w : TxWaiting) : State :=
  if s.txFree then (s.request w.owner w.op w.part w.epoch w.city w.oparg w.data).1
  else { s with txWait := s.txWait ++ [w] }

/-- A transaction has come free: the request that has waited longest takes it (R346). -/
def State.askNext (s : State) : State :=
  match s.txWait with
  | [] => s
  | w :: rest =>
    if s.txs.length < txLimit then (({ s with txWait := rest } : State).request w.owner w.op w.part w.epoch w.city w.oparg w.data).1
    else s

/-- Asks a WATCH of this device's own back; where no route is left for the UNWATCH its answer comes at once, and ends the
transaction (R346, R349). -/
def State.sendUnwatch (s : State) (part : PartNo) (epoch : BitVec 32) (city : Nat) (txid : BitVec 24) : State :=
  if s.routable city then s.sendPacket (s.requestPacket 0x0B part epoch city 0 [] txid)
  else
    ({ s with txs := s.txs.filter fun t => t.txid ≠ txid
              reqs := s.reqs.filter fun r => r.st ≠ ReqState.remote txid } : State).askNext

/-- Whether an owner has a transaction in flight or waiting for one. -/
def State.owes (s : State) (o : TxOwner) : Bool := (s.txs.any fun t => t.owner == o) || s.txWait.any fun w => w.owner == o

/-! ## Accesses of this device's engines to other devices -/

/-- The access that a part has made to a city address. -/
def State.farAt (s : State) (who : Reader) (city : Nat) : Option FarAccess :=
  s.far.find? fun x => x.who == who && x.city == city

/-- A part has done with its accesses to other devices. -/
def State.dropFar (s : State) (who : Reader) : State := { s with far := s.far.filter fun x => x.who != who }

/-- A part's access to another device: its answer, or the state in which it has been sent and is awaited; `n` bytes are read.
Without a usable route it fails at once (R196, R346, R349). -/
def State.farAccess (s : State) (who : Reader) (op : Byte) (part : PartNo) (epoch : BitVec 32) (city n : Nat) (oparg : Word)
    (data : List Byte) : State × Option (List Byte × Bool) :=
  match s.farAt who city with
  | some x => (s, x.ans)
  | none =>
    if !s.routable city then (s, some (List.replicate n 0, true))
    else
      let x : FarAccess := { id := s.nextId, who, city, len := n, stale := false, ans := none }
      ({ s with far := s.far ++ [x], nextId := s.nextId + 1 }.ask { owner := .far who x.id, op, part, epoch, city, oparg, data }, none)

/-- A part's read of n bytes of another device. -/
def State.farRead (s : State) (who : Reader) (part : PartNo) (epoch : BitVec 32) (city n : Nat) :
    State × Option (List Byte × Bool) :=
  s.farAccess who 0x01 part epoch city n (BitVec.ofNat 64 n) []

/-- The answer to a part's access, or to a piece of it: one failed piece fails it all (R346). -/
def State.farAnswer (s : State) (id : Nat) (data : List Byte) (bad : Bool) : State :=
  let fails (x : FarAccess) : Bool := bad || match x.ans with
    | some (_, b) => b
    | none => false
  { s with far := s.far.map fun (x : FarAccess) =>
    if x.id = id then { x with ans := some (if fails x then List.replicate x.len 0 else data, fails x) } else x }

/-- A write that no device performed is recorded as lost in an error log of the device (R242, R346): the log of a
quarter, with a KIND, SEV and unit that the spec does not give. -/
def State.recordLost (s : State) (q city : Nat) (who : AgentId) : State :=
  let v := Config.free s.fresh
  let e : ErrEntry := { time := s.time, addr := BitVec.ofNat 56 city, kind := v.setWidth 8, sev := v.extractLsb' 8 2
                        unit := v.extractLsb' 16 32, spot := 0, agent := who.num, src := who.src }
  { s with fresh := s.fresh + 1 }.modQuarter q fun x => { x with elog := x.elog.add (quarterLog q) e }

/-- The quarter that a part of the device stands in. -/
def Reader.quarter (r : Reader) : Nat :=
  match r with
  | .fetch t => quarterOf t
  | .ahead t => quarterOf t
  | .desc k _ => k / 64
  | .ring k _ => k / 64
  | .record k _ => k / 64
  | .prod k _ => k / 64
  | .journal q _ => q
  | .intake q _ => q
  | .intakeWatch q _ => q
  | .adopt _ => 0

/-- The quarter whose log records a lost write of an agent: the agent's own (R346). -/
def Who.quarter (w : Who) : Nat := if w.src = 0 then quarterOf w.num.toNat else 0

/-- Writes bytes at a city address, here or on another device, at most 256 B a packet; answers whether a piece was lost
for want of a route (R242, R345, R349). -/
def State.writeCity (s : State) (w : Who) (owner : TxOwner) (part : PartNo) (epoch : BitVec 32) (city : Nat)
    (bs : List Byte) : State × Bool :=
  if s.isLocal city then
    (if isMemory (devAddr city) then s.writeSpan w (devAddr city) bs else s, false)
  else
    (rangePieces 256 (bs.length / 256 + 2) city bs.length).foldl (fun (x : State × Bool) p =>
      if x.1.routable p.1 then
        (x.1.ask { owner, op := 0x02, part, epoch, city := p.1, oparg := 0, data := (bs.drop (p.1 - city)).take p.2 }, x.2)
      else (x.1.recordLost w.quarter p.1 w.agent, true)) (s, false)

/-- A part's read of n bytes at a city address: at once on this device, whose control spaces read as zeros, by a READ of
another, which it awaits; with whether it failed. -/
def State.partRead (s : State) (w : Who) (rd : Reader) (part : PartNo) (epoch : BitVec 32) (city n : Nat) :
    State × Option (List Byte × Bool) :=
  if s.isLocal city then
    if isMemory (devAddr city) then
      let (s, bs, bad) := s.readSpan w (devAddr city) n
      (s, some (bs, bad))
    else (s, some (List.replicate n 0, false))
  else s.farRead rd part epoch city n

/-- A part's write of bytes at a city address: at once on this device, by WRITEs to another, whose acknowledgements it awaits;
whether one was lost (R242). -/
def State.partWrite (s : State) (w : Who) (rd : Reader) (part : PartNo) (epoch : BitVec 32) (city : Nat) (bs : List Byte) :
    State × Option Bool :=
  if s.isLocal city then ((s.writeCity w .other part epoch city bs).1, some false)
  else match s.farAt rd city with
    | some x => (s, if s.owes (.far rd x.id) then none else some (match x.ans with
      | some (_, bad) => bad
      | none => false))
    | none =>
      let id := s.nextId
      let x : FarAccess := { id, who := rd, city, len := 0, stale := false, ans := none }
      let (s, lost) := { s with far := s.far ++ [x], nextId := id + 1 }.writeCity w (.far rd id) part epoch city bs
      let s := if lost then s.farAnswer id [] true else s
      (s, if s.owes (.far rd id) then none else some lost)

/-- Adds to a counted word at a city address as an MCNT does, on this device or another, in a transaction of `owner` (R185,
R307). An add to a device without a route is lost (R349). -/
def State.countCity (s : State) (w : Who) (owner : TxOwner) (part : PartNo) (epoch : BitVec 32) (city : Nat) (x : Word) : State :=
  let city := city / 8 * 8
  if s.isLocal city then (if isMemory (devAddr city) then s.countWord w (devAddr city) x else s)
  else if s.routable city then s.ask { owner, op := 0x06, part, epoch, city, oparg := 0, data := natBytes 8 x.toNat }
  else s.recordLost w.quarter city w.agent

/-- Queues a packet at the third of a port, to leave by that port (R359, R360). -/
def State.sendVia (s : State) (port : Nat) (p : Packet) : State :=
  s.modEdge (port / 6) fun e => { e with queue := e.queue ++ [{ inPort := none, via := some port, cls := opClass p.op, vc := 0, flits := 0, pkt := p }] }

end Sys2Proof.Machine
end

