-- ==== Sys2Proof/Machine/DmaChan.lean ====
section
/-! DEFINITION. The channels of a block's DMA engine, and the block DMA instructions (R245, R248 to R254, R266). -/

namespace Sys2Proof.Machine

/-- A channel of block k. -/
def State.chan (s : State) (k ch : Nat) : Channel := nth (s.block k).dma.chans ch .reset

/-- Changes a channel. -/
def State.modChan (s : State) (k ch : Nat) (f : Channel → Channel) : State :=
  s.modBlock k fun b => { b with dma := { b.dma with chans := b.dma.chans.setIfInBounds ch (f (nth b.dma.chans ch .reset)) } }

/-- Adds n to an engine counter (R266). -/
def State.dmaCount (s : State) (k n v : Nat) : State :=
  s.modBlock k fun b => { b with dma := { b.dma with ctrs := b.dma.ctrs.setIfInBounds n (satAdd (nth b.dma.ctrs n 0) v) } }

/-- A completion event of a channel; it wakes a gated block (R254, R458). -/
def State.dmaEvent (s : State) (k ch : Nat) : State :=
  (s.modChan k ch fun c => { c with evt := satInc c.evt }).wakeBlock k

/-- A channel's reads and writes on other devices are over, or no longer awaited (R256, R262). -/
def State.dropFarChan (s : State) (k ch : Nat) : State :=
  if s.far.isEmpty then s
  else [Reader.desc k ch, .ring k ch, .record k ch, .prod k ch].foldl State.dropFar s

/-- Transfers in flight: those whose slot is held (R246). -/
def Dma.inFlight (d : Dma) : List Transfer := d.slots.filter fun x => x.st ≠ XferState.done

/-! ## Fields of a descriptor (R255) -/

/-- A word of a descriptor. -/
def DmaRun.word (r : DmaRun) (i : Nat) : Word := nth r.words i 0

/-- ROWLEN. -/
def DmaRun.rowLen (r : DmaRun) : Nat := fld (r.word 2) 0 32

/-- The descriptor's length in bytes. -/
def DmaRun.total (r : DmaRun) : Nat := r.rowLen * fld (r.word 2) 32 24

/-- BAR. -/
def DmaRun.bar (r : DmaRun) : Nat := fld (r.word 5) 0 2

/-- Whether every transfer of a descriptor has issued, or none is to issue any more. -/
def DmaRun.spent (r : DmaRun) : Bool := r.fail.isSome || r.stopped || decide (r.total ≤ r.issued)

/-- Whether a channel has a transfer ready to issue (R247, R252, R259, R262). -/
def Channel.ready (c : Channel) : Bool :=
  !c.cqwait && (c.runs.all fun r => r.fail.isNone && !r.stopped) &&
  match c.runs.getLast? with
  | some r => !r.spent
  | none => false

/-! ## Chains -/

/-- Whether a channel has a chain with a head, queued or running (R251). -/
def Channel.hasChain (c : Channel) (desc : Word) : Bool := c.chains.any fun h => h.head == desc

/-- A WAITD in which the channel's tile waits completes once no chain has its head (R251). -/
def State.retryWaitd (s : State) (k ch : Nat) : State :=
  let t := k * 16 + ch
  match (s.tile t).waitsIn with
  | some (opc, opb) =>
    if opc = 0xD9 ∧ !(s.chan k ch).hasChain (s.arg t 0) then
      (Res.ok (s.push t 1 [] 0) .seq).conclude t (heldForm opc opb)
    else s
  | none => s

/-- The running chain leaves its channel (R262 step 5). -/
def State.endChain (s : State) (k ch : Nat) : State :=
  (s.modChan k ch fun c =>
    { c with chains := c.chains.tail, live := false, runs := [], next := none, lastCq := none, lastIrq := false
             cqwait := false }).dropFarChan k ch |>.retryWaitd k ch

/-! ## DMAGO and WAITD (R249, R251) -/

/-- DMAGO once its parcel has passed. -/
def dmagoBody (t : Nat) (opb : Byte) (tr : Option TlbEntry) (s : State) : Res :=
  let desc := s.arg t 0
  if desc.toNat % 64 ≠ 0 then .trap s 0x06 desc 0
  else match s.look t tr desc kLoad with
    | .fault c => .trap s c desc 0
    | .miss => .hold (s.startWalk t 0xD8 opb desc kLoad)
    | .hit s _ _ =>
      let k := blockOf t
      let x := s.tile t
      if 16 ≤ (s.chan k (tileIn t)).chains.length then .trap s 0x48 desc 0
      else
        let h : Chain := { head := desc, tile := t, part := x.part, user := x.user, relE := x.gmem.relE, fenE := x.gmem.fenE
                           seq := x.gmem.seq }
        .ok ((s.modChan k (tileIn t) fun c => { c with chains := c.chains ++ [h] }).push t 1 [] 0) .seq

/-- DMAGO ( desc -- ): starts a chain on the issuer's channel (R249). -/
def execDmago (t : TileNo) (b : Byte) (s : State) : Ans :=
  .next (s.issue t { opc := 0xD8, opb := b, legal := opNone b, din := 1 } (dmagoBody t b none))

/-- WAITD ( desc -- ): waits until the issuer's chain with head desc has ended (R46, R251). -/
def execWaitd (t : TileNo) (b : Byte) (s : State) : Ans :=
  .next (s.issue t { opc := 0xD9, opb := b, legal := opNone b, din := 1 } fun s =>
    let s := s.drain t
    if (s.chan (blockOf t) (tileIn t)).hasChain (s.arg t 0) then .hold (s.setDoing t (.wait 0xD9 b))
    else .ok (s.push t 1 [] 0) .seq)

/-! ## DMASTOP (R252) -/

/-- Queued chains: those behind the one that runs. -/
def Channel.queued (c : Channel) : Nat := c.waiting.length

/-- What DMASTOP leaves in a channel: no queued chain, no next descriptor, and the running descriptor stopped unless all
its transfers have issued; its completion raises an event whatever its IRQ bit says. -/
def Channel.stop (c : Channel) : Channel :=
  let last := c.runs.getLast?
  { c with
    chains := if c.live then c.chains.take 1 else []
    next := none
    runs := match last with
      | some r => c.runs.dropLast ++ [{ r with stopped := r.stopped || !r.spent, met := true }]
      | none => [] }

/-- DMASTOP reaches a channel: a chain between two descriptors ends at once, with an event where its last completion
raised none. -/
def State.stopChan (s : State) (k ch : Nat) : State :=
  let c := s.chan k ch
  let s := s.modChan k ch Channel.stop
  if c.live && c.runs.isEmpty then
    (if c.lastIrq then s else s.dmaEvent k ch).endChain k ch
  else (s.dropFar (.desc k ch)).retryWaitd k ch

/-- DMASTOP ( -- n ): stops the issuer's channel, or with O = 1 channel ch, and pushes how many queued chains it
discards (R248, R252). -/
def execDmastop (t : TileNo) (b : Byte) (s : State) : Ans :=
  .next (s.issue t { opc := 0xDA, opb := b, legal := opLow 5 b && (bit b 4 || fld b 0 4 == 0), sup := bit b 4, dout := 1 } fun s =>
    let k := blockOf t
    let ch := if bit b 4 then fld b 0 4 else tileIn t
    let n := (s.chan k ch).queued
    .ok ((s.stopChan k ch).push t 0 [BitVec.ofNat 64 n] 3) .seq)

/-! ## Status and counters (R253, R254, R266) -/

/-- The word that DMASTAT pushes (R253). -/
def State.dmaStat (s : State) (k ch : Nat) : Word :=
  let c := s.chan k ch
  let out := ((s.block k).dma.inFlight.filter fun x => x.ch = ch).length
  BitVec.ofNat 64 (c.chains.length + 0x20 * (!c.runs.isEmpty).toNat + 0x40 * c.cqwait.toNat + 0x80 * out + 0x10000 * c.evt.toNat)

/-- DMASTAT ( -- x ): the state of channel ch (R253). -/
def execDmastat (t : TileNo) (b : Byte) (s : State) : Ans :=
  .next (s.issue t { opc := 0xDB, opb := b, legal := opLow 4 b, dout := 1 } fun s =>
    .ok (s.push t 0 [s.dmaStat (blockOf t) (fld b 0 4)] 3) .seq)

/-- DMAACK ( -- n ): the issuer's pending completion events, which it clears (R254). -/
def execDmaack (t : TileNo) (b : Byte) (s : State) : Ans :=
  .next (s.issue t { opc := 0xDC, opb := b, legal := opNone b, dout := 1 } fun s =>
    let n := (s.chan (blockOf t) (tileIn t)).evt
    .ok ((s.modChan (blockOf t) (tileIn t) fun c => { c with evt := 0 }).push t 0 [n.setWidth 64] 3) .seq)

/-- DMACTR ( -- x ): engine counter n (R266). -/
def execDmactr (t : TileNo) (b : Byte) (s : State) : Ans :=
  .next (s.issue t { opc := 0xDD, opb := b, legal := opLow 3 b, dout := 1 } fun s =>
    .ok (s.push t 0 [nth (s.block (blockOf t)).dma.ctrs (fld b 0 3) 0] 3) .seq)

/-- DMACTRCLR clears the engine counters (R248, R266). -/
def execDmactrclr (t : TileNo) (b : Byte) (s : State) : Ans :=
  .next (s.issue t { opc := 0xDE, opb := b, legal := opNone b, sup := true } fun s =>
    .ok (s.modBlock (blockOf t) fun x => { x with dma := { x.dma with ctrs := Vector.replicate 8 0 } }) .seq)

end Sys2Proof.Machine
end

