-- ==== Sys2Proof/Machine/Permits.lean ====
section
/-! DEFINITION. Permits: which activities conflict, requests, grants and releases (R435 to R438). -/

namespace Sys2Proof.Machine

/-- The quarters that a permit's unit touches (R12, R432, R437). -/
def unitQuarters (u : SpotUnit) : List Nat :=
  match u.kind.toNat with
  | 1 => [u.unit / 16384]
  | 2 => [u.unit / 5120]
  | 3 => [u.unit / 1024]
  | 4 => [u.unit / 64]
  | 5 => [u.unit / 4096]
  | 6 =>
    let q := u.unit / 4
    let x := q % 5
    let y := q / 5
    match u.unit % 4 with
    | 0 => if y = 0 then [q] else [q, q - 5]
    | 1 => if x = 4 then [q] else [q, q + 1]
    | 2 => if y = 3 then [q] else [q, q + 5]
    | _ => if x = 0 then [q] else [q, q - 1]
  | 8 => [if u.unit = 0 then 1 else if u.unit = 3 then 3 else 2]
  | 9 => [u.unit / 64]
  | 11 => [u.unit]
  | 20 => [u.unit]
  | 21 => [u.unit]
  | 23 => [u.unit]
  | _ => []

/-- Whether two units touch one quarter. -/
def meetQuarter (a b : SpotUnit) : Bool := (unitQuarters a).any fun q => (unitQuarters b).contains q

/-- The conflicts of R437, in one order of each pair. -/
def conflictOne (a b : Permit) : Bool :=
  match a.act, b.act with
  | .sweep, .spotM => a.unit == b.unit
  | .patrol, .spotM => a.unit == b.unit
  | .patrol, .hbmcal => a.unit.kind == 9 && a.unit.unit / 64 == b.unit.unit
  | .spotM, .hbmcal => a.unit.kind == 9 && a.unit.unit / 64 == b.unit.unit
  | .spotM, .retrain =>
    (a.unit.kind == 9 && b.unit.kind == 21 && a.unit.unit / 64 == b.unit.unit) ||
    (a.unit.kind == 10 && b.unit.kind == 22 && a.unit.unit == b.unit.unit)
  | .spotM, .clock => meetQuarter a.unit b.unit
  | .spotL, .retrain => a.unit == b.unit
  | .spotL, .clock => meetQuarter a.unit b.unit
  | .spotT, .clock => meetQuarter a.unit b.unit
  | .hbmcal, .retrain => b.unit.kind == 21 && a.unit.unit == b.unit.unit
  | .hbmcal, .clock => a.unit.unit == b.unit.unit
  | .retrain, .clock => (a.unit.kind == 21 || a.unit.kind == 8) && meetQuarter a.unit b.unit
  | .measure, .flashw => a.unit == b.unit
  | _, _ => false

/-- Whether two permits conflict (R436, R437). -/
def conflict (a b : Permit) : Bool := a == b || conflictOne a b || conflictOne b a

/-- A granter: a quarter's lamplighter, or the Square (R435). -/
abbrev Granter := Option Nat

/-- A granter's permit state. -/
def State.permitsOf (s : State) (g : Granter) : Permits :=
  match g with
  | some q => (s.quarter q).permits
  | none => s.sq.permits

/-- Changes a granter's permit state. -/
def State.modPermits (s : State) (g : Granter) (f : Permits → Permits) : State :=
  match g with
  | some q => s.modQuarter q fun x => { x with permits := f x.permits }
  | none => { s with sq := { s.sq with permits := f s.sq.permits } }

/-- Every permit held on the device. -/
def State.allHeld (s : State) : List Permit := s.sq.permits.held ++ s.quarters.flatMap fun e => e.2.permits.held

/-- Whether a permit conflicts with one already held. -/
def State.permitBlocked (s : State) (p : Permit) : Bool := s.allHeld.any fun h => conflict p h

/-- Whether an activity waits when it conflicts: SWEEP and PATROL skip instead (R435). -/
def actWaits : Activity → Bool
  | .sweep => false
  | .patrol => false
  | _ => true

/-- Requests a permit: granted at once, or waiting, or, for SWEEP and PATROL, skipped. Permits for one unit are granted
in request order (R435). -/
def State.askPermit (s : State) (g : Granter) (p : Permit) : State × Bool :=
  if s.permitBlocked p || (s.permitsOf g).wait.any (fun w => w.unit == p.unit && actWaits p.act) then
    if actWaits p.act then
      if (s.permitsOf g).wait.contains p then (s, false)
      else (s.modPermits g fun x => { x with wait := x.wait ++ [p], waits := satInc x.waits }, false)
    else (s.modPermits g fun x => { x with skips := satInc x.skips }, false)
  else (s.modPermits g fun x => { x with held := x.held ++ [p] }, true)

/-- Gives a permit back. -/
def State.dropPermit (s : State) (g : Granter) (p : Permit) : State :=
  s.modPermits g fun x => { x with held := x.held.filter (· ≠ p) }

/-- Whether a permit is held. -/
def State.holdsPermit (s : State) (g : Granter) (p : Permit) : Bool := (s.permitsOf g).held.contains p

/-- The code of an activity (R436). -/
def actCode : Activity → Nat
  | .sweep => 0 | .patrol => 1 | .spotM => 2 | .spotL => 3 | .spotT => 4 | .hbmcal => 5 | .retrain => 6 | .clock => 7
  | .measure => 8 | .flashw => 9

/-- PMSTAT of a granter (R438). -/
def Permits.stat (x : Permits) : Word :=
  let mask (l : List Permit) : Nat := l.foldl (fun m p => m ||| 2 ^ actCode p.act) 0
  BitVec.ofNat 64 (mask x.held + 65536 * mask x.wait)

end Sys2Proof.Machine
end

