-- ==== Sys2Proof/Machine/Ports.lean ====
section
/-! DEFINITION. Fabric ports: states, flits, credits, beats and the link session (R337 to R343, R351 to R353, R363,
R400, R401, R413). -/

namespace Sys2Proof.Machine

/-! ## Packets as bytes (R344) -/

/-- The bytes of a packet: its header, its data, and padding to an even length (R344). -/
def packetBytes (p : Packet) : List Byte :=
  let w0 := p.op.toNat + 0x100 * p.len.toNat + 0x40000 * p.part.toNat + 0x1000000 * p.sdev.toNat
    + 0x1000000000 * p.ddev.toNat + 0x1000000000000 * p.hops.toNat
  let w2 := p.epoch.toNat + 0x100000000 * p.txid.toNat + 0x100000000000000 * p.status.toNat
  natBytes 8 w0 ++ natBytes 8 p.addr.toNat ++ natBytes 8 w2 ++ natBytes 8 p.oparg.toNat ++ p.data
    ++ List.replicate (p.data.length % 2) 0

/-- The packet that a 32-byte header and its data spell (R344). -/
def packetOf (bs : List Byte) : Packet :=
  let w (i : Nat) : Word := BitVec.ofNat 64 (leNat ((bs.drop (8 * i)).take 8))
  let len := (w 0).extractLsb' 8 9
  { op := (w 0).setWidth 8, len, part := (w 0).extractLsb' 18 6, sdev := (w 0).extractLsb' 24 12
    ddev := (w 0).extractLsb' 36 12, hops := (w 0).extractLsb' 48 8, addr := (w 1).setWidth 56, epoch := (w 2).setWidth 32
    txid := (w 2).extractLsb' 32 24, status := (w 2).extractLsb' 56 8, oparg := w 3
    rsv := bit (w 0) 17 || fld (w 0) 56 8 != 0 || fld (w 1) 56 8 != 0, data := (bs.drop 32).take len.toNat }

/-- What a stream of bytes holds at a packet boundary: the whole packets, the bytes of one that is not whole, and
whether a LEN above 256 stops the reading (R339, R344, R363). -/
def parsePackets : Nat → List Byte → List Packet × List Byte × Bool
  | 0, bs => ([], bs, false)
  | fuel + 1, bs =>
    match bs with
    | a :: b :: rest =>
      if a = 0 ∧ b = 0 then parsePackets fuel rest
      else if bs.length < 32 then ([], bs, false)
      else
        let len := (leNat (bs.take 8)) / 0x100 % 512
        let total := 32 + len + len % 2
        if 256 < len then ([packetOf bs], [], true)
        else if bs.length < total then ([], bs, false)
        else
          let r := parsePackets fuel (bs.drop total)
          (packetOf bs :: r.1, r.2)
    | _ => ([], bs, false)

/-- Whether an OP is one of R345. -/
def opKnown (op : Byte) : Bool :=
  (1 ≤ op.toNat && op.toNat ≤ 0x0B) || (0x10 ≤ op.toNat && op.toNat ≤ 0x14) || op == 0x20

/-- Whether a packet's data has the length that its OP calls for (R345, R363). -/
def lengthOk (p : Packet) : Bool :=
  let n := p.len.toNat
  match p.op.toNat with
  | 0x01 => n == 0 && decide (1 ≤ fld p.oparg 0 9) && decide (fld p.oparg 0 9 ≤ 256)
  | 0x02 => decide (1 ≤ n) && decide (n ≤ 256)
  | 0x03 => n == 8
  | 0x04 => n == 16
  | 0x05 => n == 16
  | 0x06 => n == 8
  | 0x07 => n == 8
  | 0x08 => n == 16
  | 0x09 => n == 64
  | 0x0A => decide (n ≤ 256)
  | 0x0B => n == 0
  | 0x11 => n == 0
  | 0x12 => n == 8
  | 0x13 => n == 0
  | 0x14 => n == 8
  | _ => decide (n ≤ 256)

/-- The reply OP of a request (R345). -/
def replyOp (op : Byte) : Byte :=
  match op.toNat with
  | 0x01 => 0x10
  | 0x03 => 0x12
  | 0x04 => 0x12
  | 0x05 => 0x12
  | 0x06 => 0x12
  | 0x07 => 0x13
  | 0x08 => 0x14
  | _ => 0x11

/-- Whether a packet is a request, which is answered where it cannot be routed: an UNWATCH by the ACK that ends its WATCH's
transaction (R345, R346, R349). -/
def wantsReply (op : Byte) : Bool := opClass op == 0

/-! ## Control messages as bytes (R340) -/

/-- A message of a control flit (R340), or one that no CTYPE spells or that is malformed (R363). -/
inductive CtlMsg where
  | beat (m : BeatMsg)
  | nak (seq : BitVec 12)
  | credit (freed : List Byte)
  | retrain
  | handshake (step frag : Byte) (last : Bool) (bytes : List Byte)
  | bad
  deriving DecidableEq, Repr

/-- The bytes of a message (R340). -/
def CtlMsg.bytes (m : CtlMsg) : List Byte :=
  match m with
  | .beat m =>
    [1, m.sport] ++ natBytes 2 (m.devnum.toNat + 0x1000 * m.role.toNat + 0x8000 * m.curfew.toNat) ++ natBytes 4 m.mepoch.toNat
      ++ natBytes 8 m.tsend.toNat ++ natBytes 8 m.techo.toNat ++ natBytes 8 m.tback.toNat
  | .nak seq => [2, 0] ++ natBytes 6 seq.toNat
  | .credit freed => 3 :: List.replicate 7 0 ++ freed ++ List.replicate 6 0
  | .retrain => 4 :: List.replicate 7 0
  | .handshake step frag last bytes => [0x10, step, frag, BitVec.ofNat 8 last.toNat] ++ natBytes 4 bytes.length ++ bytes
  | .bad => []

/-- A control flit's payload: each message at an 8-byte boundary, zeros behind the last (R340). -/
def packCtl (ms : List CtlMsg) : List Byte :=
  let bs := ms.flatMap fun m => m.bytes ++ List.replicate ((8 - m.bytes.length % 8) % 8) 0
  bs ++ List.replicate (242 - bs.length) 0

/-- The message that starts a stream of bytes, and the bytes that it takes (R340). -/
def ctlMsg (bs : List Byte) : CtlMsg × Nat :=
  let w (o n : Nat) : Nat := leNat ((bs.drop o).take n)
  let whole (n : Nat) (m : CtlMsg) : CtlMsg × Nat := if bs.length < n then (.bad, 242) else (m, (n + 7) / 8 * 8)
  match w 0 1 with
  | 1 => whole 32 (.beat
      { sport := BitVec.ofNat 8 (w 1 1), devnum := BitVec.ofNat 12 (w 2 2), role := BitVec.ofNat 3 (w 2 2 / 0x1000)
        curfew := decide (0x8000 ≤ w 2 2), mepoch := BitVec.ofNat 32 (w 4 4), tsend := BitVec.ofNat 64 (w 8 8)
        techo := BitVec.ofNat 64 (w 16 8), tback := BitVec.ofNat 64 (w 24 8), authOk := true })
  | 2 => whole 8 (.nak (BitVec.ofNat 12 (w 2 2)))
  | 3 => whole 32 (.credit ((bs.drop 8).take 18))
  | 4 => whole 8 .retrain
  | 0x10 =>
    if 224 < w 4 2 then (.bad, 242)
    else whole (8 + w 4 2) (.handshake (BitVec.ofNat 8 (w 1 1)) (BitVec.ofNat 8 (w 2 1)) (w 3 1 == 1) ((bs.drop 8).take (w 4 2)))
  | _ => (.bad, 242)

/-- The messages of a control flit's payload, to the first byte 0x00 where one would start; behind a message that is unknown or
malformed nothing is read (R340, R363). -/
def readCtl : Nat → List Byte → List CtlMsg
  | 0, _ => []
  | fuel + 1, bs =>
    if bs.headD 0 = 0 then []
    else
      let r := ctlMsg bs
      r.1 :: readCtl fuel (bs.drop r.2)

/-! ## Violations (R363) -/

/-- A violation at a port is recorded in the edge die's error log; its SEV the spec does not give (R363). -/
def State.recordPort (s : State) (p : Nat) : State :=
  let e : ErrEntry := { time := s.time, addr := 0, kind := 7, sev := (Config.free s.fresh).setWidth 2
                        unit := BitVec.ofNat 32 p, spot := 0, agent := BitVec.ofNat 16 p, src := 5 }
  { s with fresh := s.fresh + 1 }.modEdge (p / 6) fun x => { x with elog := x.elog.add (edgeLog (p / 6)) e }

/-- A violation that another counter counts is one of the second's violations, and recorded (R363). -/
def State.countViolation (s : State) (p : Nat) : State :=
  (s.modPort p fun x => { x with violSec := x.violSec + 1 }).recordPort p

/-- A violation of R363 on a port: counted in VIOL and recorded. -/
def State.portViolation (s : State) (p : Nat) : State :=
  (s.modPort p fun x => { x with viol := satInc x.viol, violSec := x.violSec + 1 }).recordPort p

/-- Reports a port to the Square. -/
def State.tellSquare (s : State) (kind a b : Nat) : State := s.emit (.toSquare kind a b)

/-- Reports to the district manager. -/
def State.tellManager (s : State) (kind a : Nat) : State := s.emit (.toManager kind a)

/-! ## Port states (R343, R352) -/

/-- The permit of a port's retrain (R436). -/
def portRetrain (p : Nat) : Permit := { act := .retrain, unit := ⟨7, p⟩ }

/-- A port enters TRAINING: a new session and a new count (R343, R402). -/
def Port.train (x : Port) : Port :=
  { x with state := 1, session := false, counted := false, hsStep := 0, nakRun := 0, nakGot := 0, uncSec := 0, hsRx := none }

/-- The low bits of the control counter, which a control flit's SEQ carries, and the last data SEQ received in order
(R339). -/
def Port.ctlFields (x : Port) : BitVec 12 × BitVec 12 := (x.ctlCount.setWidth 12, x.expect - 1)

/-- A control flit goes out: the port's control counter advances (R339, R340). -/
def State.emitCtl (s : State) (p : Nat) (m : CtlMsg) : State :=
  let f := (s.port p).ctlFields
  (s.modPort p fun x => { x with ctlCount := x.ctlCount + 1 }).emit (.ctl p f.1 f.2 (packCtl [m]))

/-- A port leaves UP for TRAINING once it holds the link-retrain permit (R343, R436). -/
def State.retrainPort (s : State) (p : Nat) : State :=
  let (s, ok) := s.askPermit none (portRetrain p)
  if ok then s.modPort p Port.train else s

/-- A port that asks for its link to be retrained tells its peer (R340, R343). -/
def State.wantRetrain (s : State) (p : Nat) : State := (s.emitCtl p .retrain).retrainPort p

/-- A port ends its link: what it holds of the stream of flits is gone. -/
def Port.clearLink (x : Port) : Port :=
  { x with
    session := false, counted := false, hsStep := 0, hsRx := none, expect := 0, waitSeq := false, nakRun := 0, nakGot := 0
    nextSeq := 0, acked := 0, heard := false, missRun := 0
    replay := [], rx := [], rxOpen := [], rxFlits := [], owedNak := false, freed := [], freedNew := 0, sentCnt := []
    peerFreed := [] }

/-- A packet that was to leave by a port whose link has ended: a reduction packet has no other way, and any other goes by a
usable alternative of its routing entry (R352). What it held of the ended link's buffers is gone. -/
def Queued.loses (x : Queued) (p : Nat) : Option Queued :=
  if x.via = some p then (if opClass x.pkt.op = 2 then none else some { x with via := none })
  else if x.inPort = some p then some { x with flits := 0 }
  else some x

/-- A RETURN packet of this device's own has left the switch, or is discarded: the counted word at RETNOTE advances once all of
its group have (R360). -/
def State.returned (s : State) (x : Queued) : State :=
  let mine (r : Returning) : Bool := r.group == x.pkt.oparg.extractLsb' 16 16 && r.part == x.pkt.part
  if x.inPort.isSome ∨ x.pkt.op ≠ 0x0A ∨ x.pkt.sdev ≠ s.devnum then s
  else match s.returns.findIdx? mine with
    | none => s
    | some i =>
      match s.returns[i]? with
      | none => s
      | some r =>
        if r.left ≤ 1 then
          let s : State := { s with returns := s.returns.eraseIdx i }
          if r.note = 0 then s
          else s.countWord { src := 7, num := 0, part := some r.part, user := false } (r.note / 8 * 8) 1
        else { s with returns := s.returns.set i { r with left := r.left - 1 } }

/-- A port's link ends: the port takes a state, and packets queued for it move or go (R343, R352). -/
def State.endLink (s : State) (p : Nat) (state : BitVec 3) : State :=
  let q := (s.edge (p / 6)).queue
  let s := s.modPort p fun x => { x.clearLink with state }
  let s := (List.range 3).foldl (fun (s : State) e => s.modEdge e fun d => { d with queue := d.queue.filterMap fun x => x.loses p }) s
  (q.filter fun x => (x.loses p).isNone).foldl State.returned s

/-- The manager's record of a member's reports changes (R355). -/
def State.modReport (s : State) (dev : DevNo) (f : MemberReport → MemberReport) : State :=
  let r := f (Tab.read ⟨0, s.time, false⟩ dev.toNat s.dist.reports)
  { s with dist := { s.dist with reports := Tab.write dev.toNat r s.dist.reports } }

/-- A manager's own port that is fenced counts as a report of its peer (R352, R355). -/
def State.noteFence (s : State) (peer : DevNo) : State :=
  if s.dist.role = 2 ∧ s.dist.manager = s.devnum then s.modReport peer fun r => { r with fences := r.fences + 1 } else s

/-- A port is fenced: traffic is discarded, the routes leave it, what waits for it moves, and the Square and the manager hear of
it (R343, R352). -/
def State.fencePort (s : State) (p : Nat) : State :=
  let peer := (s.port p).peer
  ((((s.endLink p 4).dropPermit none (portRetrain p)).tellSquare 1 p 0).tellManager 2 p).noteFence peer

/-- Lane pairs of a port that hold no retired lane, as PSTATE.LANES gives them (R338, R353). -/
def FloorPlan.lanes (f : FloorPlan) (p : Nat) : BitVec 2 :=
  let bad (l : Nat) : Bool := bit f.lane (4 * p + l)
  let a := !bad 0 && !bad 1
  let b := !bad 2 && !bad 3
  if a && b then 3 else if a then 1 else if b then 2 else 0

/-- A port runs on the pair of lanes that the floor plan leaves it; with a retired lane in both pairs it is retired (R338). -/
def State.applyLanes (s : State) (p : Nat) : State :=
  let lanes := s.sq.fp.lanes p
  if lanes = 0 then
    { s with sq := { s.sq with fp := { s.sq.fp with port := setBit s.sq.fp.port p true } } }.endLink p 0
  else s.modPort p fun x => { x with lanes }

/-- Training ends: the port qualifies (R343). -/
def execPortTrainingDone (p : PortNo) (s : State) : Ans :=
  .next (if (s.port p.val).state = 1 then
      (s.modPort p.val fun x => { x with state := 2, counted := false, session := false, hsStep := 0, uncSec := 0 }).applyLanes p.val
    else s)

/-- Bits that a port's lanes receive in a second: 212.5 Gb/s a lane (R337, R338). -/
def Port.bitRate (x : Port) : Nat := 212500000000 * (if x.lanes = 3 then 4 else 2)

/-- The FEC's counters take what a count shows: codewords and symbols corrected (R353). -/
def Port.countFec (x : Port) (c : FecCount) : Port := { x with cwcorr := satAdd x.cwcorr c.cw, symerr := satAdd x.symerr c.syms }

/-- Fragments of at most 224 bytes. -/
def fragments : Nat → List Byte → List (List Byte)
  | 0, _ => []
  | fuel + 1, bs => if bs.length ≤ 224 then [bs] else bs.take 224 :: fragments fuel (bs.drop 224)

/-- A step of the handshake goes out, a fragment a control flit, with AUTH = 0 (R339, R340, R400). -/
def State.sendHandshake (s : State) (p : Nat) (step : Byte) (on : Bool) : State :=
  let bs := Config.handshakeBytes p step.toNat s.fresh
  let fs := if on then fragments bs.length bs else []
  let flit (i : Nat) (b : List Byte) : Out :=
    .ctl p (BitVec.ofNat 12 ((s.port p).ctlCount.toNat + i)) ((s.port p).expect - 1)
      (packCtl [.handshake step (BitVec.ofNat 8 i) (i + 1 == fs.length) b])
  { s.modPort p fun x => { x with ctlCount := x.ctlCount + BitVec.ofNat 63 fs.length } with
    fresh := s.fresh + 1, out := (fs.zipIdx.map fun f => flit f.2 f.1).reverse ++ s.out }

/-- The qualification count ends: with at most 1e-6 bit errors before FEC and no uncorrectable codeword it passes, and the side
with the lower device number starts the handshake; else the port trains again; after three failures in a row phase 5 no longer
waits for the port (R343, R400, R413). -/
def execQualifyCountEnd (p : PortNo) (c : FecCount) (s : State) : Ans :=
  .next (let x := s.port p.val
    if x.state ≠ 2 ∨ x.counted then s
    else if c.bits * 1000000 ≤ x.bitRate ∧ x.uncSec = 0 then
      let starts := decide (s.devnum < Config.planPeer p.val)
      (s.modPort p.val fun x =>
        { x.countFec c with counted := true, measured := true, failedCounts := 0, hsStep := BitVec.ofNat 2 starts.toNat
        }).sendHandshake p.val 1 starts
    else
      let s := s.modPort p.val fun x => { (x.countFec c).train with failedCounts := x.failedCounts + 1 }
      if (s.port p.val).failedCounts = 3 then
        (s.modPort p.val fun x => { x with measured := true }).tellManager 3 p.val
      else s)

/-- No signal within the 200 ms of TRAINING: the port counts as measured and absent, and keeps retrying (R413). -/
def execNoSignalTimeout (p : PortNo) (s : State) : Ans :=
  .next (if (s.port p.val).state = 1 then s.modPort p.val fun x => { x with measured := true } else s)

/-- A second's error count ends: in UP, bit errors before FEC above 1e-5, or more than 16 flits that failed FEC, make the link
retrain (R343). The violations of the second start anew (R363). -/
def execErrorCountEnd (p : PortNo) (c : FecCount) (s : State) : Ans :=
  .next (let x := s.port p.val
    let exceeds := decide (x.bitRate < c.bits * 100000) || decide (16 < x.uncSec)
    let s := s.modPort p.val fun x => { x.countFec c with violSec := 0, uncSec := 0 }
    if x.state = 3 ∧ exceeds then s.wantRetrain p.val else s)

/-- The peer asks for the link to be retrained (R340, R343). -/
def State.takeRetrain (s : State) (p : Nat) : State := if (s.port p).state = 3 then s.retrainPort p else s

/-- A RETRAIN message (R340, R343). -/
def execRetrain (p : PortNo) (s : State) : Ans := .next (s.takeRetrain p.val)

/-- ADMIT takes a FENCED port to TRAINING (R343). -/
def State.admitPort (s : State) (p : Nat) : State :=
  if (s.port p).state = 4 then s.modPort p Port.train else s

/-- Device address of a port's registers (R353). -/
def portAddr (p : Nat) : Nat := 0xFF001000000 + p / 6 * 0x100000000 + p % 6 * 0x1000

/-- A write of PSTATE with ADMIT = 1 (R197, R353). -/
def execAdmit (w : Writer) (p : PortNo) (s : State) : Ans :=
  .next (if mayEdge w then s.admitPort p.val else s.deniedCtl w (portAddr p.val) true)

/-- More than 1,000 violations in one second fence the port (R363). -/
def execViolationRateFence (p : PortNo) (s : State) : Ans :=
  .next (if 1000 < (s.port p.val).violSec ∧ (s.port p.val).state ≠ 4 then s.fencePort p.val else s)

/-! ## Sending data flits (R339, R341, R342) -/

/-- Pieces of at most 242 bytes. -/
def payloads : Nat → List Byte → List (List Byte)
  | 0, _ => []
  | fuel + 1, bs => if bs.isEmpty then [] else bs.take 242 :: payloads fuel (bs.drop 242)

/-- Whether a port may send n more flits on a class and virtual channel (R341, R342). -/
def Port.maySend (x : Port) (key n : Nat) : Bool :=
  let out := (Tab.read 0 key x.sentCnt - Tab.read 0 key x.peerFreed).toNat
  x.state == 3 && decide (out + n ≤ 32) && decide (x.replay.length + n ≤ 512)

/-- A kept data flit as it goes out: ACKSEQ is the last SEQ received in order by then (R339, R342). -/
def Port.flitOut (x : Port) (p : Nat) (f : TxFlit) : Out := .flit p f.seq (x.expect - 1) f.fpo f.cls f.vc f.bytes

/-- FPO of the i-th flit of a packet, which the first one starts with (R339). -/
def fpoOf (i : Nat) : BitVec 7 := if i = 0 then 0 else 127

/-- Sends one data flit and keeps it for resending (R342). -/
def State.sendFlit (s : State) (p : Nat) (cls : BitVec 2) (vc : BitVec 3) (fpo : BitVec 7) (bytes : List Byte) : State :=
  let key := 6 * cls.toNat + vc.toNat
  let x := s.port p
  let f : TxFlit := { seq := x.nextSeq, fpo, cls, vc, bytes }
  (s.modPort p fun x =>
    { x with nextSeq := x.nextSeq + 1, replay := x.replay ++ [f]
             sentCnt := Tab.write key (Tab.read 0 key x.sentCnt + 1) x.sentCnt }).emit (x.flitOut p f)

/-- Sends the flits of a packet, the first of which starts with its header (R339). -/
def State.sendFlits (s : State) (p : Nat) (cls : BitVec 2) (vc : BitVec 3) (ps : List (List Byte)) : State :=
  ps.zipIdx.foldl (fun (s : State) b => s.sendFlit p cls vc (fpoOf b.2) b.1) s

/-! ## Receiving data flits (R341, R342, R363) -/

/-- The receiver asks for the expected flit again and discards until it comes; the eighth NAK in a row for one SEQ makes
the link retrain (R342). -/
def State.sendNak (s : State) (p : Nat) : State :=
  let x := s.port p
  let run := if x.nakRun ≠ 0 && x.nakSeq == x.expect then x.nakRun + 1 else 1
  let s := (s.modPort p fun x =>
    { x with waitSeq := true, naks := satInc x.naks, nakRun := run, nakSeq := x.expect }).emitCtl p (.nak x.expect)
  if run = 8 then s.wantRetrain p else s

/-- ACKSEQ frees the flits that it covers; one for a flit never sent is a violation (R342, R363). -/
def State.takeAck (s : State) (p : Nat) (a : BitVec 12) : State :=
  let x := s.port p
  if (a + 1 - x.acked).toNat ≤ (x.nextSeq - x.acked).toNat then
    s.modPort p fun x =>
      { x with acked := a + 1, nakGot := if x.acked = a + 1 then x.nakGot else 0, replay := x.replay.filter fun f => decide ((x.nextSeq - f.seq).toNat ≤ (x.nextSeq - (a + 1)).toNat) }
  else (s.portViolation p).tellSquare 2 p 0

/-- Takes a whole packet from a port to its switch third, or discards it in the cases of R363. -/
def State.takePacket (s : State) (p : Nat) (cls : BitVec 2) (vc : BitVec 3) (flits : Nat) (k : Packet) : State :=
  let free (s : State) : State := s.modPort p fun x =>
    let key := 6 * cls.toNat + vc.toNat
    { x with freed := Tab.write key (Tab.read 0 key x.freed + BitVec.ofNat 8 flits) x.freed, freedNew := x.freedNew + flits
             rxFlits := Tab.write key (Tab.read 0 key x.rxFlits - flits) x.rxFlits }
  if !opKnown k.op || decide (256 < k.len.toNat) || !lengthOk k || k.data.length ≠ k.len.toNat then
    let s := ((free s).portViolation p).tellSquare 2 p 0
    if cls = 0 then
      s.sendVia p (replyTo s.devnum k.sdev k.part k.epoch k.txid k.addr (replyOp k.op) 1 [])
    else s
  else if opClass k.op ≠ cls then ((free s).portViolation p).tellSquare 2 p 0
  else s.modEdge (p / 6) fun e => { e with queue := e.queue ++ [{ inPort := some p, via := none, cls, vc, flits, pkt := k }] }

/-- A delivered flit's payload: the packets that it completes go to the switch (R339, R363). -/
def State.takePayload (s : State) (p : Nat) (f : Flit) : State :=
  let key := 6 * f.cls.toNat + f.vc.toNat
  let x := s.port p
  let part := Tab.read [] key x.rx
  let start := 2 * f.fpo.toNat
  let none_ := f.fpo = 127
  let head := if none_ then (if part.isEmpty then [] else part ++ f.payload)
    else part ++ f.payload.take (if part.isEmpty then 0 else start)
  let (ps1, left1, bad1) := parsePackets 260 head
  let overrun := !none_ && !left1.isEmpty
  let (ps2, left2, bad2) := if none_ then ([], left1, false) else parsePackets 260 (f.payload.drop start)
  let ps := ps1 ++ ps2
  let opened := Tab.read 0 key x.rxOpen
  -- flits freed with each packet: the earlier ones with the first, this one with the last unless bytes remain
  let keep := if left2.isEmpty then 0 else 1
  let s := s.modPort p fun x =>
    { x with rx := Tab.write key left2 x.rx
             rxFlits := Tab.write key (Tab.read 0 key x.rxFlits + 1) x.rxFlits
             rxOpen := Tab.write key (if ps.isEmpty && !left2.isEmpty then opened + 1 else keep) x.rxOpen }
  let s := if overrun then (s.portViolation p).tellSquare 2 p 0 else s
  let s := if overrun && f.cls == 0 && decide (32 ≤ left1.length) then
      let k := packetOf left1
      s.sendVia p (replyTo s.devnum k.sdev k.part k.epoch k.txid k.addr (replyOp k.op) 1 [])
    else s
  let s := if bad1 || bad2 then s.modPort p fun x => { x with rx := Tab.write key [] x.rx } else s
  let n := ps.length
  let s := ps.zipIdx.foldl (fun (s : State) k =>
    let flits := (if k.2 = 0 then opened else 0) + (if k.2 + 1 = n then 1 - keep else 0)
    s.takePacket p f.cls f.vc flits k.1) s
  if ps.isEmpty && left2.isEmpty then
    s.modPort p fun x =>
      { x with freed := Tab.write key (Tab.read 0 key x.freed + BitVec.ofNat 8 (opened + 1)) x.freed
               freedNew := x.freedNew + opened + 1
               rxFlits := Tab.write key (Tab.read 0 key x.rxFlits - (opened + 1)) x.rxFlits }
  else s

/-- Frees the buffer of flits that a forwarded packet leaves; a NAK that an overrun owed goes out (R341, R363). -/
def State.freeFlits (s : State) (p : Nat) (cls : BitVec 2) (vc : BitVec 3) (n : Nat) : State :=
  let key := 6 * cls.toNat + vc.toNat
  let s := s.modPort p fun x =>
    { x with freed := Tab.write key (Tab.read 0 key x.freed + BitVec.ofNat 8 n) x.freed, freedNew := x.freedNew + n
             rxFlits := Tab.write key (Tab.read 0 key x.rxFlits - n) x.rxFlits }
  if (s.port p).owedNak && n != 0 then (s.modPort p fun x => { x with owedNak := false }).sendNak p else s

/-! ## Control messages (R340 to R342, R351) -/

/-- A NAK: the transmitter resends from its SEQ, in order; the eighth in a row for one SEQ makes the link retrain (R342). One
for a SEQ that no kept flit has is malformed (R363). -/
def State.takeNak (s : State) (p : Nat) (seq : BitVec 12) : State :=
  let x := s.port p
  if x.state ≠ 3 then s
  else if x.replay.length < (x.nextSeq - seq).toNat then s.portViolation p
  else
    let run := if x.nakGot ≠ 0 && x.nakGotSeq == seq then x.nakGot + 1 else 1
    let l := x.replay.filter fun f => decide ((x.nextSeq - f.seq).toNat ≤ (x.nextSeq - seq).toNat)
    let s := s.modPort p fun x => { x with replays := satAdd x.replays l.length, nakGot := run, nakGotSeq := seq }
    let s := l.foldl (fun (s : State) f => s.emit (x.flitOut p f)) s
    if run = 8 then s.wantRetrain p else s

/-- A NAK message (R340, R342). -/
def execNak (p : PortNo) (seq : BitVec 12) (s : State) : Ans := .next (s.takeNak p.val seq)

/-- A CREDIT: the peer's counters of freed flits, by class and virtual channel; a message of another length is malformed
(R340, R341, R363). -/
def State.takeCredit (s : State) (p : Nat) (freed : List Byte) : State :=
  if (s.port p).state ≠ 3 then s
  else if freed.length ≠ 18 then s.portViolation p
  else s.modPort p fun x => { x with peerFreed := freed.zipIdx.map fun e => (e.2, e.1) }

/-- A CREDIT message (R340, R341). -/
def execCredit (p : PortNo) (freed : List Byte) (s : State) : Ans := .next (s.takeCredit p.val freed)

/-- CREDIT goes out (R340, R341). -/
def execCreditSend (p : PortNo) (s : State) : Ans :=
  .next (let x := s.port p.val
    if x.state ≠ 3 then s
    else (s.modPort p.val fun x => { x with freedNew := 0 }).emitCtl p.val
      (.credit ((List.range 18).map fun k => Tab.read 0 k x.freed)))

/-- The BEAT that a port sends (R340). -/
def State.beatOut (s : State) (p : Nat) : CtlMsg :=
  .beat { sport := BitVec.ofNat 8 p, devnum := s.devnum, role := s.dist.role, curfew := s.curfew, mepoch := s.dist.mepoch
          tsend := s.time, techo := (s.port p).beatPeer, tback := (s.port p).beatHere, authOk := true }

/-- A beat period ends: one without an accepted BEAT counts while the port is UP (R353). -/
def Port.endPeriod (x : Port) : Port :=
  if x.state ≠ 3 ∨ x.heard then { x with heard := false }
  else { x with beatmiss := satInc x.beatmiss, missRun := x.missRun + 1 }

/-- A BEAT goes out (R340, R341, R352). -/
def execBeatSend (p : PortNo) (s : State) : Ans :=
  .next (let x := s.port p.val
    if x.state = 3 ∨ (x.state = 2 ∧ x.session) then (s.modPort p.val Port.endPeriod).emitCtl p.val (s.beatOut p.val)
    else s)

/-- Nanoseconds that device time lags behind the sender's, as a BEAT shows: the sender's time, and half the round trip that
the four times give (R356). -/
def beatLag (m : BeatMsg) (now : Word) : Int :=
  let trip : Int := ((now.toNat : Int) - m.techo.toNat) - ((m.tsend.toNat : Int) - m.tback.toNat)
  m.tsend.toNat + trip / 2 - now.toNat

/-- Whether a port's BEATs discipline device time: it leads to the manager. The manager of district 0 is disciplined by
none; which ports lead another district's manager to it the spec leaves to the routes between districts (R356). -/
def State.timeFrom (s : State) (p : Nat) : Bool :=
  if s.dist.role = 2 ∧ s.dist.manager = s.devnum then decide (64 ≤ s.devnum.toNat) && bit (Config.free s.fresh) 0
  else (s.usable (Tab.read 0 s.dist.manager.toNat (s.edge (p / 6)).routes) 0).any fun e => e.1 == p

/-- A BEAT disciplines device time: a joining device steps it once, before its tiles are released, and never back; after
that the lag is what the clock slews by (R356). -/
def State.discipline (s : State) (p : Nat) (m : BeatMsg) : State :=
  if m.techo = 0 ∨ m.techo < s.dist.timeSet.getD 0 ∨ !s.timeFrom p then { s with fresh := s.fresh + 1 }
  else
    let lag := beatLag m s.time
    let joins := s.dist.timeSet.isNone && !s.sq.ready
    let step : Int := if joins then max lag 0 else 0
    let now := s.time + BitVec.ofInt 64 step
    { s with
      fresh := s.fresh + 1, time := now
      dist := { s.dist with behind := lag - step, timeSet := if joins then some now else s.dist.timeSet } }

/-- A BEAT arrives: an authenticated one from the recorded peer is accepted, and takes a qualified port with its session
to UP, and disciplines device time; one that fails AUTH is discarded and, in UP, NAKed; one that names another device fences
the port (R343, R351, R356, R363). -/
def State.takeBeat (s : State) (p : Nat) (m : BeatMsg) : State :=
  let x := s.port p
  if !(x.state = 3 || (x.state = 2 && x.session)) then s
  else if !m.authOk then
    let s := (s.modPort p fun x => { x with authfail := satInc x.authfail }).recordPort p
    if x.state = 3 then s.sendNak p else s
  else if m.devnum ≠ x.peer then
    if x.state = 3 then (s.portViolation p).fencePort p else s.portViolation p
  else
    let s := s.modPort p fun x => { x with beatPeer := m.tsend, beatHere := s.time, heard := true, missRun := 0 }
    let s := if x.state = 2 then (s.modPort p fun x => { x with state := 3 }).dropPermit none (portRetrain p) else s
    s.discipline p m

/-- A BEAT message (R340, R351). -/
def execBeat (p : PortNo) (m : BeatMsg) (s : State) : Ans := .next (s.takeBeat p.val m)

/-- Three beat periods without an accepted BEAT fence the port; those not yet counted are (R352, R353). -/
def execBeatTimeout (p : PortNo) (s : State) : Ans :=
  .next (if (s.port p.val).state = 3 then
      (s.modPort p.val fun x => { x with beatmiss := satAdd x.beatmiss (3 - x.missRun) }).fencePort p.val
    else s)

/-! ## The link session (R400, R401) -/

/-- A failed handshake fences the port and is reported to the manager (R401). -/
def State.handshakeFail (s : State) (p : Nat) : State := s.fencePort p

/-- A HELLO, from the side with the lower device number: a peer that may be admitted is answered with REPLY (R400,
R401). Handshakes are accepted only in QUALIFY, after its count; in UP they are unknown messages. -/
def State.takeHello (s : State) (p : Nat) (h : Handshake) : State :=
  let x := s.port p
  if x.state = 3 then s.portViolation p
  else if x.state ≠ 2 ∨ !x.counted ∨ x.session then s
  else if !(h.chainOk && h.allowed) || decide (s.devnum ≤ h.devnum) then s.handshakeFail p
  else (s.modPort p fun x => { x with hsStep := 2, peer := h.devnum }).sendHandshake p 2 true

/-- A REPLY, from the side with the higher device number: an admitted peer is answered with FIN, and the session stands
(R400, R401). -/
def State.takeReplyStep (s : State) (p : Nat) (h : Handshake) : State :=
  let x := s.port p
  if x.state = 3 then s.portViolation p
  else if x.state ≠ 2 ∨ !x.counted ∨ x.session ∨ x.hsStep = 2 then s
  else if !(h.sigOk && h.chainOk && h.allowed) || decide (h.devnum ≤ s.devnum) then s.handshakeFail p
  else (s.modPort p fun x => { x with hsStep := 3, session := true, peer := h.devnum }).sendHandshake p 3 true

/-- FIN: the responder's session stands where its signatures verify (R400, R401). -/
def State.takeFin (s : State) (p : Nat) (h : Handshake) : State :=
  let x := s.port p
  if x.state = 3 then s.portViolation p
  else if x.state ≠ 2 ∨ !x.counted ∨ x.hsStep ≠ 2 then s
  else if !h.sigOk || h.devnum != x.peer then s.handshakeFail p
  else s.modPort p fun x => { x with hsStep := 3, session := true }

/-- A whole HELLO (R400). -/
def execHello (p : PortNo) (h : Handshake) (s : State) : Ans := .next (s.takeHello p.val h)

/-- A whole REPLY (R400). -/
def execReply (p : PortNo) (h : Handshake) (s : State) : Ans := .next (s.takeReplyStep p.val h)

/-- A whole FIN (R400). -/
def execFin (p : PortNo) (h : Handshake) (s : State) : Ans := .next (s.takeFin p.val h)

/-- What the bytes of a whole handshake message show; a FIN carries no DEVNUM and stands for the recorded peer's (R400,
R401). -/
def Port.shows (x : Port) (step : Byte) (bs : List Byte) : Handshake :=
  let w := Config.handshakeShows bs
  { devnum := if step = 3 then x.peer else w.setWidth 12, sigOk := bit w 12, chainOk := bit w 13, allowed := bit w 14 }

/-- A fragment of a handshake step: the fragments of one step follow each other, and the last makes the message whole (R340,
R400). -/
def State.takeFragment (s : State) (p : Nat) (step frag : Byte) (last : Bool) (bs : List Byte) : State :=
  let x := s.port p
  if x.state = 3 then s.portViolation p
  else if x.state ≠ 2 ∨ !x.counted then s
  else
    let have_ : List Byte := match x.hsRx with
      | some (st, n, l) => if frag ≠ 0 ∧ st = step ∧ n = frag.toNat then l else []
      | none => []
    let follows := frag == 0 || (match x.hsRx with
      | some (st, n, _) => st == step && n == frag.toNat
      | none => false)
    if !follows then s.modPort p fun x => { x with hsRx := none }
    else if !last then s.modPort p fun x => { x with hsRx := some (step, frag.toNat + 1, have_ ++ bs) }
    else
      let h := x.shows step (have_ ++ bs)
      let s := s.modPort p fun x => { x with hsRx := none }
      match step.toNat with
      | 1 => s.takeHello p h
      | 2 => s.takeReplyStep p h
      | 3 => s.takeFin p h
      | _ => s.portViolation p

/-! ## Flits (R339 to R343, R363) -/

/-- A message of a control flit. -/
def State.takeCtl (s : State) (p : Nat) (m : CtlMsg) : State :=
  match m with
  | .beat m => s.takeBeat p m
  | .nak seq => s.takeNak p seq
  | .credit freed => s.takeCredit p freed
  | .retrain => s.takeRetrain p
  | .handshake step frag last bytes => s.takeFragment p step frag last bytes
  | .bad => s.portViolation p

/-- What a port in QUALIFY accepts once its count has passed: the plaintext control flits of the handshake, and, with the session
established, the peer's BEAT (R339, R343, R400). -/
def CtlMsg.qualifies (m : CtlMsg) (session : Bool) : Bool :=
  match m with
  | .beat _ => session
  | .handshake .. => !session
  | _ => false

/-- A flit reaches a port in QUALIFY: only its FEC is checked until the session stands (R339, R343). -/
def State.qualifyFlit (s : State) (p : Nat) (f : Flit) : State :=
  let x := s.port p
  if !f.fecOk then (s.modPort p fun x => { x with cwunc := satInc x.cwunc, uncSec := x.uncSec + 1 }).recordPort p
  else if f.type ≠ 2 ∨ !x.counted then s
  else if x.session && !f.authOk then (s.modPort p fun x => { x with authfail := satInc x.authfail }).recordPort p
  else ((readCtl 31 f.payload).filter fun m => m.qualifies x.session).foldl (fun (s : State) m => s.takeCtl p m) s

/-- A flit reaches a port (R339, R342, R363): idle flits are dropped unchecked, a flit that fails a check or runs ahead
is discarded and NAKed, a duplicate is discarded, the expected one is delivered, and a control flit's messages take effect in
order. -/
def execDataFlit (p : PortNo) (f : Flit) (s : State) : Ans :=
  .next (let x := s.port p.val
    if x.state = 2 then s.qualifyFlit p.val f
    else if x.state ≠ 3 then s
    else if !f.fecOk then
      ((s.modPort p.val fun x => { x with cwunc := satInc x.cwunc, uncSec := x.uncSec + 1 }).recordPort p.val).sendNak p.val
    else if f.type = 0 then s
    else if !f.authOk then
      ((s.modPort p.val fun x => { x with authfail := satInc x.authfail }).recordPort p.val).sendNak p.val
    else if f.type = 3 ∨ f.rsv ≠ 0 ∨ (f.type = 1 ∧ (f.cls = 3 ∨ 6 ≤ f.vc.toNat)) then
      ((s.portViolation p.val).tellSquare 2 p.val 0).sendNak p.val
    else
      let s := s.takeAck p.val f.ackseq
      if f.type = 2 then (readCtl 31 f.payload).foldl (fun (s : State) m => s.takeCtl p.val m) s
      else if f.seq = x.expect then
        let key := 6 * f.cls.toNat + f.vc.toNat
        if 32 ≤ Tab.read 0 key x.rxFlits then
          ((s.modPort p.val fun x => { x with owedNak := true, waitSeq := true }).portViolation p.val).tellSquare 2 p.val 0
        else
          (s.modPort p.val fun x => { x with expect := x.expect + 1, waitSeq := false, nakRun := 0 }).takePayload p.val f
      else if (x.expect - f.seq).toNat ≤ 2048 then s
      else if x.waitSeq then s
      else (s.countViolation p.val).sendNak p.val)

end Sys2Proof.Machine
end

