-- ==== Sys2Proof/Machine/Fp.lean ====
section
/-! DEFINITION. Floating-point formats and arithmetic, exact before one rounding to nearest, ties to even (R85 to R98).
A finite value is a sign and m × 2^e with natural m. -/

namespace Sys2Proof.Machine

/-- A floating-point format: exponent bits, fraction bits, bias (R86). -/
structure Fmt where
  eb   : Nat
  fb   : Nat
  bias : Nat
  deriving DecidableEq, Repr

/-- FP64. -/
def fp64 : Fmt := { eb := 11, fb := 52, bias := 1023 }

/-- FP32. -/
def fp32 : Fmt := { eb := 8, fb := 23, bias := 127 }

/-- BF16. -/
def bf16 : Fmt := { eb := 8, fb := 7, bias := 127 }

/-- FP16. -/
def fp16 : Fmt := { eb := 5, fb := 10, bias := 15 }

/-- FP8 E4M3. -/
def e4m3 : Fmt := { eb := 4, fb := 3, bias := 7 }

/-- FP8 E5M2. -/
def e5m2 : Fmt := { eb := 5, fb := 2, bias := 15 }

/-- Bits of a format. -/
def Fmt.width (f : Fmt) : Nat := 1 + f.eb + f.fb

/-- A decoded value: a NaN with its sign, fraction and whether it signals, an infinity, or a finite value. -/
inductive Fp where
  | nan (s : Bool) (frac : Nat) (sig : Bool)
  | inf (s : Bool)
  | num (s : Bool) (m : Nat) (e : Int)
  deriving DecidableEq, Repr

/-- The value of an encoding (R86, R87). -/
def Fmt.decode (f : Fmt) (bits : Nat) : Fp :=
  let s := bits / 2 ^ (f.eb + f.fb) % 2 = 1
  let x := bits / 2 ^ f.fb % 2 ^ f.eb
  let frac := bits % 2 ^ f.fb
  if f = e4m3 then
    if x = 15 ∧ frac = 7 then .nan s frac false
    else if x = 0 then .num s frac (-9) else .num s (8 + frac) ((x : Int) - 10)
  else if x = 2 ^ f.eb - 1 then
    if frac = 0 then .inf s
    else .nan s frac (f ≠ e5m2 && frac / 2 ^ (f.fb - 1) = 0)
  else if x = 0 then .num s frac (1 - f.bias - f.fb)
  else .num s (2 ^ f.fb + frac) ((x : Int) - f.bias - f.fb)

/-- The sign bit of an encoding. -/
def Fmt.signBit (f : Fmt) (s : Bool) : Nat := if s then 2 ^ (f.eb + f.fb) else 0

/-- The canonical NaN (R87). -/
def Fmt.nan (f : Fmt) : Nat :=
  if f = e4m3 then 0x7F else (2 ^ f.eb - 1) * 2 ^ f.fb + 2 ^ (f.fb - 1)

/-- An infinity (R87). -/
def Fmt.inf (f : Fmt) (s : Bool) : Nat := f.signBit s + (2 ^ f.eb - 1) * 2 ^ f.fb

/-- m × 2^k rounded to an integer, ties to even, and whether it was inexact (R89). -/
def rneShift (m : Nat) (k : Int) : Nat × Bool :=
  if 0 ≤ k then (m * 2 ^ k.toNat, false)
  else
    let d := 2 ^ (-k).toNat
    let n := m / d
    let r := m % d
    (if 2 * r > d ∨ (2 * r = d ∧ n % 2 = 1) then n + 1 else n, r ≠ 0)

/-- Rounds a finite value to a format, with the flags of R94 and R96; `nosat` is E4M3's non-saturating choice. -/
def Fmt.round (f : Fmt) (nosat : Bool) (s : Bool) (m : Nat) (e : Int) : Nat × BitVec 7 :=
  if m = 0 then (f.signBit s, 0)
  else
    let top : Int := Nat.log2 m + e
    let emin : Int := 1 - f.bias
    let q0 := emin - f.fb
    let q := max (top - f.fb) q0
    let (n, inexact) := rneShift m (e - q)
    let bits := (q - q0).toNat * 2 ^ f.fb + n
    let free := (rneShift m (e - (top - f.fb))).1
    let tiny := top < emin && !(top = emin - 1 && free = 2 ^ (f.fb + 1))
    let nx := if inexact then flagNX else 0
    if f = e4m3 then
      if bits > 0x7E then
        if nosat then (f.signBit s + 0x7F, flagOF ||| flagNX) else (f.signBit s + 0x7E, flagSAT ||| flagNX)
      else (f.signBit s + bits, if tiny && inexact then nx ||| flagUF else nx)
    else if bits ≥ (2 ^ f.eb - 1) * 2 ^ f.fb then (f.inf s, flagOF ||| flagNX)
    else (f.signBit s + bits, if tiny && inexact then nx ||| flagUF else nx)

/-- Encodes a value that is no NaN: an infinity stays one, or follows R96 in E4M3. -/
def Fmt.encode (f : Fmt) (nosat : Bool) (v : Fp) : Nat × BitVec 7 :=
  match v with
  | .num s m e => f.round nosat s m e
  | .inf s =>
    if f = e4m3 then (if nosat then (f.signBit s + 0x7F, flagNV) else (f.signBit s + 0x7E, flagSAT))
    else (f.inf s, 0)
  | .nan _ _ _ => (f.nan, 0)

/-- A NaN of the format, quieted (R92). -/
def Fmt.quiet (f : Fmt) (s : Bool) (frac : Nat) : Nat :=
  f.signBit s + (2 ^ f.eb - 1) * 2 ^ f.fb + (frac ||| 2 ^ (f.fb - 1))

/-- Whether a value is a NaN. -/
def Fp.isNan : Fp → Bool
  | .nan _ _ _ => true
  | _ => false

/-- Whether a value is a signalling NaN. -/
def Fp.isSig : Fp → Bool
  | .nan _ _ sig => sig
  | _ => false

/-- Whether a value is a zero. -/
def Fp.isZero : Fp → Bool
  | .num _ m _ => m = 0
  | _ => false

/-- The sign of a value. -/
def Fp.sign : Fp → Bool
  | .nan s _ _ => s
  | .inf s => s
  | .num s _ _ => s

/-- A value with the opposite sign. -/
def Fp.neg : Fp → Fp
  | .nan s f g => .nan (!s) f g
  | .inf s => .inf (!s)
  | .num s m e => .num (!s) m e

/-- The integer that a finite value is in units of 2^e, for e no larger than its own exponent. -/
def scaled (s : Bool) (m : Nat) (e to_ : Int) : Int :=
  let v : Int := m * 2 ^ (e - to_).toNat
  if s then -v else v

/-- The exact sum of two finite values (R91). -/
def addExact (s1 : Bool) (m1 : Nat) (e1 : Int) (s2 : Bool) (m2 : Nat) (e2 : Int) : Fp :=
  if m1 = 0 ∧ m2 = 0 then .num (s1 && s2) 0 e1
  else if m1 = 0 then .num s2 m2 e2
  else if m2 = 0 then .num s1 m1 e1
  else
    let e := min e1 e2
    let v := scaled s1 m1 e1 e + scaled s2 m2 e2 e
    if v = 0 then .num false 0 e else .num (v < 0) v.natAbs e

/-- The outcome of an operation before rounding: an exact value with the conditions it raises. -/
abbrev FpOut := Fp × BitVec 7

/-- A NaN that an operation creates from operands that are none (R92). -/
def invalid : FpOut := (.nan false 0 false, flagNV)

/-- a + b, where neither is a NaN (R91). -/
def fpAdd (a b : Fp) : FpOut :=
  match a, b with
  | .inf s1, .inf s2 => if s1 = s2 then (.inf s1, 0) else invalid
  | .inf s, _ => (.inf s, 0)
  | _, .inf s => (.inf s, 0)
  | .num s1 m1 e1, .num s2 m2 e2 => (addExact s1 m1 e1 s2 m2 e2, 0)
  | x, _ => (x, 0)

/-- a × b, where neither is a NaN (R91). -/
def fpMul (a b : Fp) : FpOut :=
  match a, b with
  | .inf s, y => if y.isZero then invalid else (.inf (s ^^ y.sign), 0)
  | x, .inf s => if x.isZero then invalid else (.inf (s ^^ x.sign), 0)
  | .num s1 m1 e1, .num s2 m2 e2 => (.num (s1 ^^ s2) (m1 * m2) (e1 + e2), 0)
  | x, _ => (x, 0)

/-- a × b + c, exact, where none is a NaN (R91, R92). -/
def fpFma (a b c : Fp) : FpOut :=
  let (p, f1) := fpMul a b
  if f1 ≠ 0 then (p, f1) else fpAdd p c

/-- a ÷ b to `bits` significant bits and a sticky bit, where neither is a NaN (R119). -/
def fpDiv (bits : Nat) (a b : Fp) : FpOut :=
  match a, b with
  | .inf _, .inf _ => invalid
  | .inf s, y => (.inf (s ^^ y.sign), 0)
  | x, .inf s => (.num (s ^^ x.sign) 0 0, 0)
  | .num s1 m1 e1, .num s2 m2 e2 =>
    if m2 = 0 then (if m1 = 0 then invalid else (.inf (s1 ^^ s2), flagDZ))
    else
      let k := bits + Nat.log2 m2
      let q := m1 * 2 ^ k / m2
      let st := if m1 * 2 ^ k % m2 = 0 then 0 else 1
      (.num (s1 ^^ s2) (2 * q + st) (e1 - e2 - k - 1), 0)
  | x, _ => (x, 0)

/-- The integer square root of n, from bit k downwards. -/
def isqrtFrom (n : Nat) : Nat → Nat → Nat
  | 0, r => if (r + 1) * (r + 1) ≤ n then r + 1 else r
  | k + 1, r =>
    let r' := r + 2 ^ (k + 1)
    isqrtFrom n k (if r' * r' ≤ n then r' else r)

/-- The square root to about `bits` significant bits and a sticky bit, of a value that is no NaN (R119). -/
def fpSqrt (bits : Nat) (a : Fp) : FpOut :=
  match a with
  | .inf false => (.inf false, 0)
  | .inf true => invalid
  | .num s m e =>
    if m = 0 then (.num s 0 e, 0)
    else if s then invalid
    else
      let k0 := 2 * bits
      let k := if (e - k0) % 2 = 0 then k0 else k0 + 1
      let n := m * 2 ^ k
      let r := isqrtFrom n (Nat.log2 n / 2 + 1) 0
      (.num false (2 * r + (if r * r = n then 0 else 1)) ((e - k) / 2 - 1), 0)
  | x => (x, 0)

/-- An operation of a format on encodings: a NaN operand gives the first one, quieted; a signalling one raises NV; else
the exact result is rounded once (R89, R92). -/
def Fmt.op (f : Fmt) (ops : List Nat) (g : List Fp → FpOut) : Nat × BitVec 7 :=
  let vs := ops.map f.decode
  let nv : BitVec 7 := if vs.any Fp.isSig then flagNV else 0
  match vs.find? Fp.isNan with
  | some (.nan s frac _) => (f.quiet s frac, nv)
  | _ =>
    match g vs with
    | (.nan _ _ _, fl) => (f.nan, fl)
    | (v, fl) => let r := f.round false v.sign (match v with | .num _ m _ => m | _ => 0)
                   (match v with | .num _ _ e => e | _ => 0)
                 match v with
                 | .inf s => (f.inf s, fl)
                 | _ => (r.1, fl ||| r.2)

/-- a + b in a format. -/
def Fmt.add (f : Fmt) (a b : Nat) : Nat × BitVec 7 :=
  f.op [a, b] fun vs => match vs with | [x, y] => fpAdd x y | _ => invalid

/-- a − b in a format. -/
def Fmt.sub (f : Fmt) (a b : Nat) : Nat × BitVec 7 :=
  f.op [a, b] fun vs => match vs with | [x, y] => fpAdd x y.neg | _ => invalid

/-- a × b in a format. -/
def Fmt.mul (f : Fmt) (a b : Nat) : Nat × BitVec 7 :=
  f.op [a, b] fun vs => match vs with | [x, y] => fpMul x y | _ => invalid

/-- a × b + c in a format, rounded once; zero times infinity raises NV whatever the addend (R92). -/
def Fmt.fma (f : Fmt) (a b c : Nat) : Nat × BitVec 7 :=
  let r := f.op [a, b, c] fun vs => match vs with | [x, y, z] => fpFma x y z | _ => invalid
  let x := f.decode a
  let y := f.decode b
  if !x.isNan && !y.isNan && (fpMul x y).2 ≠ 0 then (r.1, r.2 ||| flagNV) else r

/-- a ÷ b in a format. -/
def Fmt.div (f : Fmt) (a b : Nat) : Nat × BitVec 7 :=
  f.op [a, b] fun vs => match vs with | [x, y] => fpDiv (f.fb + 4) x y | _ => invalid

/-- The square root in a format. -/
def Fmt.sqrt (f : Fmt) (a : Nat) : Nat × BitVec 7 :=
  f.op [a] fun vs => match vs with | [x] => fpSqrt (f.fb + 4) x | _ => invalid

/-- The reciprocal in a format (R119). -/
def Fmt.recip (f : Fmt) (a : Nat) : Nat × BitVec 7 :=
  f.op [a] fun vs => match vs with | [x] => fpDiv (f.fb + 4) (.num false 1 0) x | _ => invalid

/-- Whether a is below b, for values that are no NaN; −0 is not below +0 (R93). -/
def fpLt (a b : Fp) : Bool :=
  match a, b with
  | .inf s1, .inf s2 => s1 && !s2
  | .inf s, _ => s
  | _, .inf s => !s
  | .num s1 m1 e1, .num s2 m2 e2 => let e := min e1 e2; decide (scaled s1 m1 e1 e < scaled s2 m2 e2 e)
  | _, _ => false

/-- Whether a equals b, for values that are no NaN (R93). -/
def fpEq (a b : Fp) : Bool := !fpLt a b && !fpLt b a

/-- VCMP's relations in function-code order, with the flags they raise (R93, R120). -/
def Fmt.compare (f : Fmt) (fn : Nat) (a b : Nat) : Bool × BitVec 7 :=
  let x := f.decode a
  let y := f.decode b
  let un := x.isNan || y.isNan
  let sig : BitVec 7 := if x.isSig || y.isSig then flagNV else 0
  let any : BitVec 7 := if un then flagNV else 0
  match fn with
  | 0 => (!un && fpEq x y, sig)
  | 1 => (un || !fpEq x y, sig)
  | 2 => (!un && fpLt x y, any)
  | 3 => (!un && (fpLt x y || fpEq x y), any)
  | 4 => (un, sig)
  | _ => (!un, sig)

/-- Minimum (fn 0), maximum (1), minimumNumber (2) and maximumNumber (3) of IEEE 754-2019 (R93, R120). -/
def Fmt.minmax (f : Fmt) (fn : Nat) (a b : Nat) : Nat × BitVec 7 :=
  let x := f.decode a
  let y := f.decode b
  let sig : BitVec 7 := if x.isSig || y.isSig then flagNV else 0
  let below := fpLt x y || (fpEq x y && x.sign && !y.sign)
  let pick := if fn % 2 = 0 then (if below then a else b) else (if below then b else a)
  match x, y with
  | .nan s fr _, .nan _ _ _ => (f.quiet s fr, sig)
  | .nan s fr _, _ => if fn ≥ 2 then (b, sig) else (f.quiet s fr, sig)
  | _, .nan s fr _ => if fn ≥ 2 then (a, sig) else (f.quiet s fr, sig)
  | _, _ => (pick, 0)

/-! ## Conversions (R95 to R98) -/

/-- Converts between floating-point formats (R92, R95 to R97). -/
def Fmt.convert (src dst : Fmt) (nosat : Bool) (bits : Nat) : Nat × BitVec 7 :=
  match src.decode bits with
  | .nan s frac sig =>
    let nv : BitVec 7 := if sig then flagNV else 0
    if dst = e4m3 ∨ dst = e5m2 then (dst.signBit s + dst.nan, nv)
    else
      let fr := if dst.fb ≤ src.fb then frac / 2 ^ (src.fb - dst.fb) else frac * 2 ^ (dst.fb - src.fb)
      (dst.quiet s fr, nv)
  | v => dst.encode nosat v

/-- An integer of n bits, signed or not, as a value. -/
def intValue (n : Nat) (sg : Bool) (bits : Nat) : Int := if sg ∧ bits % 2 ^ n ≥ 2 ^ (n - 1) then (bits % 2 ^ n : Int) - 2 ^ n else (bits % 2 ^ n : Nat)

/-- The limits of an integer format. -/
def intMin (n : Nat) (sg : Bool) : Int := if sg then -(2 ^ (n - 1)) else 0

/-- The upper limit of an integer format. -/
def intMax (n : Nat) (sg : Bool) : Int := if sg then 2 ^ (n - 1) - 1 else 2 ^ n - 1

/-- The bits of an integer in n bits. -/
def intBits (n : Nat) (v : Int) : Nat := (v % 2 ^ n).toNat

/-- Clamps to an integer format, raising `fl` where it clamps. -/
def intClamp (n : Nat) (sg : Bool) (fl : BitVec 7) (v : Int) : Nat × BitVec 7 :=
  if v < intMin n sg then (intBits n (intMin n sg), fl)
  else if v > intMax n sg then (intBits n (intMax n sg), fl)
  else (intBits n v, 0)

/-- A finite value rounded to an integer, ties to even, and whether it was inexact (R89). -/
def fpToInt (s : Bool) (m : Nat) (e : Int) : Int × Bool :=
  let r := rneShift m e
  (if s then -(r.1 : Int) else r.1, r.2)

/-- Converts floating point to an integer format (R98). -/
def Fmt.toInt (f : Fmt) (n : Nat) (sg : Bool) (bits : Nat) : Nat × BitVec 7 :=
  match f.decode bits with
  | .nan _ _ _ => (0, flagNV)
  | .inf s => (intBits n (if s then intMin n sg else intMax n sg), flagNV ||| flagSAT)
  | .num s m e =>
    let (v, nx) := fpToInt s m e
    if v < intMin n sg ∨ v > intMax n sg then intClamp n sg (flagNV ||| flagSAT) v
    else (intBits n v, if nx then flagNX else 0)

/-- Converts an integer to floating point (R98). -/
def Fmt.ofInt (f : Fmt) (nosat : Bool) (v : Int) : Nat × BitVec 7 := f.round nosat (v < 0) v.natAbs 0

/-- Leaves of a tree paired level by level, node 2i with node 2i + 1; one without a partner passes up (R111). -/
def pairUp {α : Type} (g : α → α → α) : List α → List α
  | a :: b :: r => g a b :: pairUp g r
  | l => l

/-- The balanced pairwise tree over at most 2^n leaves (R111, R122). -/
def treeFold {α : Type} (g : α → α → α) : Nat → List α → List α
  | 0, l => l
  | n + 1, l => treeFold g n (pairUp g l)

/-- An FP32 addition of the stags and the roads, which return the canonical NaN (R92, R112). -/
def add32 (a b : BitVec 32) : BitVec 32 × BitVec 7 :=
  let r := fp32.add a.toNat b.toNat
  if (fp32.decode a.toNat).isNan || (fp32.decode b.toNat).isNan then (BitVec.ofNat 32 fp32.nan, r.2)
  else (BitVec.ofNat 32 r.1, r.2)

end Sys2Proof.Machine
end

