-- ==== Sys2Proof/Machine/Roads.lean ====
section
/-! DEFINITION. The streets and avenues: link resends, multicast writes and in-network sums (R298 to R308, R359, R360). -/

namespace Sys2Proof.Machine

/-! ## Links (R298) -/

/-- The unit of the error logs that a link is (R432). -/
def linkUnit : LinkName → SpotUnit
  | .street u => ⟨5, u⟩
  | .avenue u => ⟨6, u⟩

/-- The quarter whose lamplighter hears of a link, none for a number that names no link: a router has none at its quarter's
edge, and the north edges of quarters 0 to 4 have no avenue link (R11, R289, R292, R432). -/
def linkQuarter : LinkName → Option Nat
  | .street u => if streetLink u then some (u / 4096) else none
  | .avenue u => if avenueLink u then some (u / 4) else none

/-- The number by which the model counts a link's failures. -/
def linkKey : LinkName → Nat
  | .street u => 2 * u
  | .avenue u => 2 * u + 1

/-- Failures in a row of a flit on a link: a link that has since failed another flit got that one through (R298). -/
def State.flitFails (s : State) (l : LinkName) (flit : Nat) : Nat :=
  let x := Tab.read (0, 0) (linkKey l) s.linkFails
  if x.1 = flit then x.2 else 0

/-- A flit, by its number on the link, fails its CRC and is resent; its eighth failure in a row is reported to the lamplighter
(R298). -/
def execLinkCrcResend (l : LinkFlit) (s : State) : Ans :=
  .next (match linkQuarter l.link with
    | none => s
    | some q =>
      let n := s.flitFails l.link l.flit + 1
      if n < 8 then { s with linkFails := Tab.write (linkKey l.link) (l.flit, n) s.linkFails }
      else
        { s with linkFails := Tab.erase (linkKey l.link) s.linkFails }.logError q 0 (linkUnit l.link) 1
          { src := 0, num := BitVec.ofNat 16 ((linkUnit l.link).unit / 4) })

/-! ## Multicast (R300 to R302) -/

/-- The tile at quarter-wide coordinates (R7, R181). -/
def tileAt (q x y : Nat) : Nat := q * 1024 + (8 * (y / 4) + x / 4) * 16 + (4 * (y % 4) + x % 4)

/-- The stores that a group's form names in a quarter: the device addresses of their first bytes and their sizes
(R300). -/
def groupStores (w0 w1 : Word) (q : Nat) : List (Nat × Nat) :=
  match fld w0 1 2 with
  | 0 =>
    let x0 := fld w1 0 5
    let x1 := fld w1 8 5
    let y0 := fld w1 16 5
    let y1 := fld w1 24 5
    ((List.range 32).filter fun y => decide (y0 ≤ y) && decide (y ≤ y1)).flatMap fun y =>
      ((List.range 32).filter fun x => decide (x0 ≤ x) && decide (x ≤ x1)).map fun x => (tileMemBase (tileAt q x y), 0x40000)
  | 1 => ((List.range 64).filter fun b => bit w1 b).map fun b => (0x80000000000 + (q * 64 + b) * 0x2000000, 0x1400000)
  | 2 => ((List.range 64).filter fun b => bit w1 b).map fun b =>
      (tileMemBase (q * 1024 + b * 16 + fld w0 3 4), 0x40000)
  | _ => []

/-- Whether a group absorbs the whole write (R301). -/
def groupBad (w0 w1 : Word) : Bool :=
  !bit w0 0 || fld w0 1 2 = 3 || (fld w0 1 2 = 0 && (decide (fld w1 8 5 < fld w1 0 5) || decide (fld w1 24 5 < fld w1 16 5)))

/-- One copy of a multicast write: absorbed where its destination is beyond its store, retired, or not the group's
partition's (R301). -/
def State.multicastCopy (s : State) (part : PartNo) (o : Nat) (data : List Byte) (d : Nat × Nat) : State :=
  let a := d.1 + o
  let w : Who := { src := 6, num := BitVec.ofNat 16 part.toNat, part := some part, user := false }
  let retired : Bool := match regionOf a with
    | .tmem t => s.sq.fp.tiles.contains t
    | .store k => s.sq.fp.banks.contains (k * 80 + storeBank ((a - 0x80000000000) % 0x2000000))
    | _ => false
  if decide (d.2 < o + data.length) || retired then s.violation w none (s.cityOf a) true 6
  else match s.access w a with
    | .serve => s.writeSpan w a data
    | .absorb => s
    | .deny _ => s.violation w (s.ownerOf a) (s.cityOf a) true 6

/-- A write to a multicast group's window, delivered to every destination in every quarter of QMASK (R301). -/
def State.multicast (s : State) (who : Who) (q g o : Nat) (data : List Byte) : State :=
  let (w0, w1) := Tab.read (0, 0) g (s.quarter q).mcgrp
  let part := Tab.read 0 g (s.quarter q).mcpart
  if groupBad w0 w1 then
    s.violation who none (s.cityOf (0xF0000000000 + q * 0x100000000 + 0x80000000 + g * 0x2000000 + o)) true 6
  else
    ((List.range 20).filter fun r => bit w0 (16 + r)).foldl (fun (s : State) r =>
      (groupStores w0 w1 r).foldl (fun (s : State) d => s.multicastCopy part o data d) s) s

/-- Whether every copy of a multicast write reaches its quarter's streets now (R301, R309). -/
def State.multicastOpen (s : State) (q g : Nat) : Bool :=
  let w0 : Word := (Tab.read (0, 0) g (s.quarter q).mcgrp).1
  (List.range 20).all fun r => !bit w0 (16 + r) || s.streetsRun r

/-- Address of a multicast window. -/
def mcWindow (q g : Nat) : Nat := 0xF0000000000 + q * 0x100000000 + 0x80000000 + g * 0x2000000

/-- A write to a multicast window by a writer that R197 lets reach it (R301); it waits while the streets of a quarter that it
goes to stand (R309, R459). -/
def execMulticastWrite (w : Writer) (q : QuarterNo) (g : Fin 64) (o : BitVec 25) (data : List Byte) (s : State) : Ans :=
  .next (if s.mayCtl w q.val then
      if s.multicastOpen q.val g.val then s.multicast (s.writerWho w) q.val g.val o.toNat data else s
    else s.deniedCtl w (mcWindow q.val g.val + o.toNat) true)

/-! ## In-network sums (R303 to R308) -/

/-- One addition of a reduction: its value and its conditions NV, OF, NX and SAT (R112, R303). -/
def addLane (kind : Bool) (a b : BitVec 32) : BitVec 32 × BitVec 4 :=
  if kind then
    let r := intClamp 32 true flagSAT (a.toInt + b.toInt)
    (BitVec.ofNat 32 r.1, if r.2 = 0 then 0 else 8)
  else
    let r := add32 a b
    let has (f : BitVec 7) (v : BitVec 4) : BitVec 4 := if r.2 &&& f = 0 then 0 else v
    (r.1, has flagNV 1 ||| has flagOF 2 ||| has flagNX 4)

/-- Folds one packet's lanes into another's (R305). -/
def combine (a b : RPacket) : RPacket :=
  let sum (i : Nat) : BitVec 32 × BitVec 4 :=
    let x := nth a.lanes i 0
    let y := nth b.lanes i 0
    if bit a.mask i && bit b.mask i then addLane a.kind x y else if bit b.mask i then (y, 0) else (x, 0)
  { a with
    mask := a.mask ||| b.mask
    lanes := Vector.ofFn fun (i : Fin 16) => (sum i.val).1
    cnt := a.cnt + b.cnt
    flags := (List.range 16).foldl (fun f i => f ||| (sum i).2) (a.flags ||| b.flags) }

/-- A quarter's tag entry. -/
def State.rtag (s : State) (q i : Nat) : RTag := Tab.read .reset i (s.quarter q).rtags

/-- Changes a quarter's tag entry. -/
def State.modRtag (s : State) (q i : Nat) (f : RTag → RTag) : State :=
  s.modQuarter q fun x => { x with rtags := Tab.write i (f (Tab.read .reset i x.rtags)) x.rtags }

/-- Whether DEST names memory that a tag may have: an HBM4 stack, a block store, a tile memory or another device, at a
multiple of 64 (R303). -/
def State.destOk (s : State) (dest : Nat) : Bool :=
  dest % 64 = 0 &&
  (!s.isLocal dest || match regionOf (devAddr dest) with
    | .hbm _ => true
    | .store _ => true
    | .tmem _ => true
    | _ => false)

/-- Whether an entry serves a tag for a partition (R303, R308). -/
def State.tagServes (s : State) (e : RTag) (tag : BitVec 16) (part : PartNo) : Bool :=
  e.v && s.destOk e.dest.toNat && e.tag == tag && e.part == part

/-- Counts a discarded packet in an entry (R308). -/
def State.dropTag (s : State) (q i : Nat) : State := s.modRtag q i fun e => { e with drop := satInc e.drop }

/-- The quarter that holds a tag's destination; the source quarter for one on another device (R303). -/
def State.homeQuarter (s : State) (dest src : Nat) : Nat :=
  if s.isLocal dest then
    match regionOf (devAddr dest) with
    | .hbm q => q
    | .store k => k / 64
    | .tmem t => t / 1024
    | _ => src
  else src

/-- Injects partials of one run under a tag at a source quarter, where its entry serves them, onto the path to their home
(R289, R290, R304, R308). -/
def State.inject (s : State) (who : Who) (part : PartNo) (epoch : BitVec 32) (q : Nat) (tag : BitVec 16) (kind : Bool)
    (run : Nat) (mask : BitVec 16) (lanes : Vector (BitVec 32) 16) (route : Goal → List Stop) : State :=
  let i := tag.toNat % 4096
  let e := s.rtag q i
  let a := (e.dest.toNat + 64 * run) % 2 ^ 56
  if !s.tagServes e tag part then (s.dropTag q i).violation who none a true 6
  else if e.kind != kind then (s.dropTag q i).partViolation who a true 6
  else
    let dest := e.dest.toNat
    { s with rpackets := s.rpackets ++
      [{ tag, part, epoch, home := s.homeQuarter dest q, kind, dest, run, mask, lanes
         cnt := (List.range 16).countP fun l => bit mask l, flags := 0, path := route (s.goalOf a) }] }

/-- Address of a reduction injection window. -/
def rtWindow (q i : Nat) : Nat := 0xF0000000000 + q * 0x100000000 + 0x48000000 + i * 0x8000

/-- The partition for which a writer injects: its own, or, for the Square, the one that runs in the quarter. -/
def State.writerPart (s : State) (w : Writer) (q : Nat) : PartNo :=
  match w with
  | .tile t => (s.tile t).part
  | _ => (s.quarter q).running.getD 0

/-- A write to the injection window: one element, or two for an aligned 8-byte write; other sizes and misaligned writes
are absorbed and recorded (R195, R304). The entries stand at the base die, from where the partials go out by the edge ring. -/
def State.injectWrite (s : State) (who : Who) (part : PartNo) (q i o : Nat) (data : List Byte) : State :=
  let e := s.rtag q i
  let tag : BitVec 16 := setFld e.tag 0 12 i
  let el := o / 4
  let l := el % 16
  if (data.length = 4 ∧ o % 4 = 0) ∨ (data.length = 8 ∧ o % 8 = 0) then
    let w (k : Nat) : BitVec 32 := BitVec.ofNat 32 (leNat ((data.drop (4 * k)).take 4))
    let two := data.length == 8
    let lanes : Vector (BitVec 32) 16 := (Vector.replicate 16 0).setIfInBounds l (w 0)
    let lanes := if two then lanes.setIfInBounds (l + 1) (w 1) else lanes
    let mask : BitVec 16 := (if two then 3 else 1) <<< l
    s.inject who part (Tab.read 0 part.toNat (s.quarter q).pepoch) q tag e.kind (el / 16) mask lanes (ringPath q)
  else s.violation who none (s.cityOf (rtWindow q i + o)) true 6

/-- A write to a tag's injection window by a writer that R197 lets reach it (R304). -/
def execReductionInjectWrite (w : Writer) (q : QuarterNo) (i : BitVec 12) (o : BitVec 15) (data : List Byte) (s : State) :
    Ans :=
  .next (if s.mayCtl w q.val then s.injectWrite (s.writerWho w) (s.writerPart w q.val) q.val i.toNat o.toNat data
    else s.deniedCtl w (rtWindow q.val i.toNat + o.toNat) true)

/-- The stops from the first one on that the paths of two packets share: from there they go one way. -/
def RPacket.meets (a b : RPacket) : List Stop := a.path.dropWhile fun x => !b.path.contains x

/-- Whether two packets under way have one tag and run, would land under one entry, and pass one output queue (R305). -/
def RPacket.joins (a b : RPacket) : Bool :=
  a.tag == b.tag && a.run == b.run && a.part == b.part && a.epoch == b.epoch && a.home == b.home && a.kind == b.kind
    && a.dest == b.dest && !(a.meets b).isEmpty

/-- The packet at place b reaches the first output queue that it shares with the packet at place a, which waits there, and is
folded into it (R305). -/
def execReductionCombine (a b : Nat) (s : State) : Ans :=
  .next (match s.rpackets[a]?, s.rpackets[b]? with
    | some x, some y =>
      if a ≠ b ∧ x.joins y ∧ s.roadOpen y.path then
        { s with rpackets := (s.rpackets.set a { combine x y with path := x.meets y }).eraseIdx b }
      else s
    | _, _ => s)

/-- Adds a lane to its word at the home, as one operation of the word's operation unit; a word with an uncorrectable
error stays as it is (R183, R205, R306). -/
def State.landLane (s : State) (w : Who) (kind : Bool) (a : Nat) (v : BitVec 32) : State × BitVec 4 :=
  match s.access w a with
  | .absorb => (s, 0)
  | .deny _ => (s.violation w (s.ownerOf a) (s.cityOf a) true 6, 0)
  | .serve =>
    let (s1, bs, bad) := s.readHome w a 4
    if bad then (s1, 0)
    else
      let r := addLane kind (BitVec.ofNat 32 (leNat bs)) v
      ((s1.bufferLine a true).storeMem w a (natBytes 4 r.1.toNat), r.2)

/-- Lands a packet's lanes at a local destination. -/
def State.landLanes (s : State) (w : Who) (p : RPacket) : State × BitVec 4 :=
  ((List.range 16).filter fun l => bit p.mask l).foldl (fun (x : State × BitVec 4) l =>
    let (s1, f) := x.1.landLane w p.kind (devAddr p.dest + 64 * p.run + 4 * l) (nth p.lanes l 0)
    (s1, x.2 ||| f)) (s, p.flags)

/-- A group entry as an edge die holds it (R358). -/
def State.rgroup (s : State) (e : Nat) (g : BitVec 16) : RGroup := Tab.read .reset (g.toNat % 1024) (s.edge e).groups

/-- Changes a group entry of an edge die. -/
def State.modRgroup (s : State) (e : Nat) (g : BitVec 16) (f : RGroup → RGroup) : State :=
  s.modEdge e fun x => { x with groups := Tab.write (g.toNat % 1024) (f (Tab.read .reset (g.toNat % 1024) x.groups)) x.groups }

/-- The packets of n bytes from an address, at most 256 B each. -/
def returnPieces : Nat → Nat → Nat → List (Nat × Nat)
  | 0, _, _ => []
  | fuel + 1, o, n => if n = 0 then [] else (o, Nat.min 256 n) :: returnPieces fuel (o + 256) (n - 256)

/-- A third's group entry by which a root returns the sums of a tag (R360). -/
def State.returnEntry (s : State) (e : Nat) (part : PartNo) (tag : BitVec 16) (dest : Nat) : Option RGroup :=
  ((s.edge e).groups.find? fun g => g.2.v && g.2.root && g.2.ret && g.2.tag == tag && g.2.part == part
    && g.2.retaddr.toNat == devAddr dest).map (·.2)

/-- The CHILD ports of a third. -/
def RGroup.childPorts (g : RGroup) (e : Nat) : List Nat := (List.range 18).filter fun p => bit g.child p && decide (p / 6 = e)

/-- The pieces of the sums that a group returns (R360). -/
def RGroup.pieces (g : RGroup) : List (Nat × Nat) := returnPieces (4 * g.nelem.toNat / 256 + 1) 0 (4 * g.nelem.toNat)

/-- A root whose tag is done returns the sums on every CHILD port of each third, and counts at RETNOTE once all of those packets
have gone out (R360). -/
def State.returnSums (s : State) (part : PartNo) (tag : BitVec 16) (dest : Nat) : State :=
  let who : Who := { src := 7, num := 0, part := some part, user := false }
  let left := ((List.range 3).map fun e => match s.returnEntry e part tag dest with
    | none => 0
    | some g => (g.childPorts e).length * g.pieces.length).sum
  let s' := (List.range 3).foldl (fun (s : State) e =>
    match s.returnEntry e part tag dest with
    | none => s
    | some g =>
      g.pieces.foldl (fun (s : State) pc =>
        let (s, bs, _) := s.readSpan who (g.retaddr.toNat + pc.1) pc.2
        (g.childPorts e).foldl (fun (s : State) p =>
          s.sendVia p { (s.requestPacket 0x0A part (s.homeEpoch part g.retaddr.toNat) (s.cityOf (g.retaddr.toNat + pc.1))
            (BitVec.ofNat 64 (g.group.toNat * 65536 + g.ggen.toNat * 0x100000000)) bs 0) with ddev := s.devnum }) s) s) s
  match s.returnEntry 0 part tag dest with
  | none => s'
  | some g =>
    if left ≠ 0 then { s' with returns := s'.returns ++ [{ group := g.group, part, note := g.retnote.toNat, left }] }
    else if g.retnote ≠ 0 then s'.countWord who (g.retnote.toNat / 8 * 8) 1
    else s'

/-- LANDED grows; when it reaches EXPECT the entry is done, and its counted word advances (R307). -/
def State.tagLanded (s : State) (q i : Nat) (cnt : Nat) (flags : BitVec 4) (part : PartNo) (epoch : BitVec 32) : State :=
  let s := s.modRtag q i fun e =>
    let landed := e.landed + BitVec.ofNat 40 cnt
    { e with landed, done := e.done || landed == e.expect
             nv := e.nv || bit flags 0, of := e.of || bit flags 1, nx := e.nx || bit flags 2, sat := e.sat || bit flags 3 }
  let e := s.rtag q i
  if e.landed = e.expect then
    let who : Who := { src := 7, num := 0, part := some part, user := false }
    let s := if e.note ≠ 0 then s.countCity who .other part epoch e.note.toNat 1 else s
    if s.isLocal e.dest.toNat then s.returnSums part e.tag e.dest.toNat else s
  else s

/-- The conditions of a switch's additions come into the tag entries through which this device adds to the group (R94, R303,
R359). DEDUCED (log entry 139). -/
def State.flagGroup (s : State) (group : BitVec 16) (part : PartNo) (flags : BitVec 4) : State :=
  if flags = 0 then s
  else
    let mine (e : RTag) : Bool := e.v && e.group == group && e.part == part && !s.isLocal e.dest.toNat
    let flag (e : RTag) : RTag :=
      { e with nv := e.nv || bit flags 0, of := e.of || bit flags 1, nx := e.nx || bit flags 2, sat := e.sat || bit flags 3 }
    { s with quarters := s.quarters.map fun x =>
      (x.1, { x.2 with rtags := x.2.rtags.map fun y => (y.1, if mine y.2 then flag y.2 else y.2) }) }

/-- A PARTIAL packet of a group meets one of its group and run that waits for the same port, and is folded into it, or
queues there (R305, R359). -/
def State.queuePartial (s : State) (port : Nat) (kind : Bool) (p : Packet) : State :=
  let laneVec (d : List Byte) : Vector (BitVec 32) 16 :=
    Vector.ofFn fun (i : Fin 16) => BitVec.ofNat 32 (leNat ((d.drop (4 * i.val)).take 4))
  let asR (p : Packet) : RPacket :=
    { tag := 0, part := p.part, epoch := p.epoch, home := 0, kind, dest := 0, run := 0, mask := p.oparg.extractLsb' 0 16
      lanes := laneVec p.data, cnt := fld p.oparg 40 24, flags := 0, path := [] }
  let same (x : Queued) : Bool :=
    x.via == some port && x.pkt.op == 0x09 && x.pkt.addr == p.addr && x.pkt.part == p.part && x.pkt.epoch == p.epoch
      && x.pkt.oparg.extractLsb' 16 24 == p.oparg.extractLsb' 16 24
  let merge (x : Packet) : Packet :=
    let c := combine (asR x) (asR p)
    { x with
      data := c.lanes.toList.flatMap fun l => natBytes 4 l.toNat
      oparg := setFld (setFld x.oparg 0 16 c.mask.toNat) 40 24 c.cnt }
  match (s.edge (port / 6)).queue.find? same with
  | some x =>
    (s.flagGroup (p.oparg.extractLsb' 16 16) p.part (combine (asR x.pkt) (asR p)).flags).modEdge (port / 6) fun e => { e with queue := e.queue.map fun x => if same x then { x with pkt := merge x.pkt } else x }
  | none => s.sendVia port p

/-- The packet at a place of the list reaches its home: discarded in the cases of R308, else its lanes land, or, for a
group's tag, the switch takes it towards the root (R306 to R308, R359). -/
def State.landPacket (s : State) (p : RPacket) : State :=
  let q := p.home
  let i := p.tag.toNat % 4096
  let e := s.rtag q i
  let who : Who := { src := 7, num := BitVec.ofNat 16 q, part := some p.part, user := false }
  let a := (p.dest + 64 * p.run) % 2 ^ 56
  if epochOld p.epoch (Tab.read 0 p.part.toNat (s.quarter q).pepoch) then s.dropTag q i
  else if !s.tagServes e p.tag p.part || e.kind != p.kind then (s.dropTag q i).violation who none a true 6
  else if e.expect.toNat < e.landed.toNat + p.cnt then
    (s.dropTag q i).recordOpen q i who.agent
  else if s.isLocal p.dest then
    let (s, f) := s.landLanes who p
    s.tagLanded q i p.cnt f p.part p.epoch
  else
    let g := s.rgroup 0 e.group
    let third := g.upport.toNat / 6
    if !g.v || g.root || g.group != e.group || g.kind != p.kind || g.part != p.part || 18 ≤ g.upport.toNat then
      let s := s.modRgroup third e.group fun g => { g with drops := satInc g.drops }
      s.emit (.toManager 1 e.group.toNat)
    else
      let pkt := { s.requestPacket 0x09 p.part p.epoch a
        (BitVec.ofNat 64 (p.mask.toNat + g.group.toNat * 65536 + g.ggen.toNat * 0x100000000 + p.cnt * 2 ^ 40))
        (p.lanes.toList.flatMap fun l => natBytes 4 l.toNat) 0 with hops := 32 }
      (s.queuePartial g.upport.toNat p.kind pkt).tagLanded q i p.cnt p.flags p.part p.epoch

/-- Whether the packet at place n comes to the end of its path before every other: its streets run, and no packet that set
out before it on the same path is still under way (R297, R309). -/
def State.arrivesNext (s : State) (n : Nat) (p : RPacket) : Bool :=
  s.roadOpen p.path && (s.rpackets.take n).all fun x => x.path != p.path

/-- The reduction packet at place n lands (R306). -/
def execReductionLand (n : Nat) (s : State) : Ans :=
  .next (match s.rpackets[n]? with
    | some p => if s.arrivesNext n p then { s with rpackets := s.rpackets.eraseIdx n }.landPacket p else s
    | none => s)

/-- A write of EXPECT clears LANDED, DONE and RTFLAG (R303). -/
def State.writeExpect (s : State) (q i : Nat) (v : Word) : State :=
  s.modRtag q i fun e =>
    { e with expect := v.setWidth 40, landed := 0, done := false, nv := false, of := false, nx := false, sat := false }

/-- A write of RTEXP by a writer that R197 lets reach it (R303). -/
def execRtexpWrite (w : Writer) (q : QuarterNo) (i : BitVec 12) (v : Word) (s : State) : Ans :=
  .next (if s.mayCtl w q.val then s.writeExpect q.val i.toNat v
    else s.deniedCtl w (0xF0000000000 + q.val * 0x100000000 + 0x44000010 + i.toNat * 64) true)

/-- A write of NELEM clears RETGOT (R358). -/
def State.writeNelem (s : State) (e g : Nat) (v : Word) : State :=
  s.modRgroup e (BitVec.ofNat 16 g) fun x => { x with nelem := v.setWidth 32, retgot := 0 }

/-- A write of NELEM, which the Square makes (R358). -/
def execNelemWrite (w : Writer) (e : EdgeNo) (g : BitVec 10) (v : Word) (s : State) : Ans :=
  .next (if mayEdge w then s.writeNelem e.val g.toNat v
    else s.deniedCtl w (0xFF000000000 + e.val * 0x100000000 + 0x03000018 + g.toNat * 64) true)

end Sys2Proof.Machine
end

