-- ==== Sys2Proof/Machine/Fabric.lean ====
section
/-! DEFINITION. The switch, the requests that other devices make here, and the ends of transactions (R345 to R349, R359 to
R361, R440). -/

namespace Sys2Proof.Machine

/-! ## The ends of transactions (R242, R346) -/

/-- The reply OPs that end a transaction (R346). -/
def endsTx (t : Transaction) (op : Byte) : Bool := op == replyOp t.op || (t.op == 0x07 && t.unwatched && op == 0x11)

/-- A reply, or its absence, ends a transaction: a tile's request is answered, poisoned where the status is not OK; a
write counts as acknowledged, and one that was not performed is recorded as lost (R242, R346). -/
def State.endTx (s : State) (t : Transaction) (op status : Byte) (data : List Byte) : State :=
  let s := ({ s with txs := s.txs.filter fun x => x.txid ≠ t.txid } : State).askNext
  let bad := status ≠ 0
  match t.owner with
  | .req id =>
    match s.reqs.find? fun r => r.id = id with
    | none => if bad && t.op == 0x02 then s.recordLost 0 t.city ⟨0, 0⟩ else s
    | some r =>
      let w := s.whoTile r.tile
      let s := if bad && r.kind.writes && !r.kind.isOp then s.recordLost (quarterOf r.tile) t.city w.agent else s
      if t.op = 0x07 ∧ op = 0x11 then { s with reqs := s.reqs.filter fun r => r.id ≠ id }
      else
        let poison := bad && (r.kind.isOp || !r.kind.writes)
        if r.kind.writes && !r.kind.isOp && s.owes t.owner then s
        else { s with reqs := s.reqs.map fun (r : Req) => if r.id = id then { r with st := .done (lineOf data) poison } else r }
  | .mirror q p =>
    if bad then
      let s := s.modQuarter q fun x =>
        { x with hive := Tab.write p { (Tab.read .reset p x.hive : HiveRegs) with mirBad := true } x.hive }
      s.recordLost q t.city ⟨3, BitVec.ofNat 16 q⟩
    else s
  | .dma k id =>
    s.modBlock k fun b => { b with dma := { b.dma with slots := b.dma.slots.map fun (x : Transfer) =>
      if x.id ≠ id then x
      else if x.st = .reading then { x with data, st := .ready, err := if bad then some 0x07 else x.err }
      else { x with st := .done, err := if bad then some 0x08 else x.err } } }
  | .host _ dpa write =>
    if write then
      let s := if bad then s.recordLost 0 t.city ⟨4, 0⟩ else s
      if s.owes t.owner then s else s.emit .hostDone
    else s.emit (.hostData dpa (lineOf data) bad)
  | .far who id =>
    let s := if bad && t.op ≠ 0x01 then s.recordLost who.quarter t.city ⟨3, BitVec.ofNat 16 who.quarter⟩ else s
    s.farAnswer id data bad
  | .mgmt _ ask => if bad && ask == .change then { s with dist := { s.dist with failed := true } } else s
  | .other => if bad then s.recordLost 0 t.city ⟨0, 0⟩ else s

/-- A transaction has had no reply for 5 ms (R346); a WATCH is exempt until UNWATCH has been sent. -/
def execTransactionTimeout (txid : BitVec 24) (s : State) : Ans :=
  .next (match s.txs.find? fun t => t.txid = txid with
    | some t => if t.op = 0x07 ∧ !t.unwatched then s else s.endTx t (replyOp t.op) 3 []
    | none => s)

/-! ## The switch (R347 to R349) -/

/-- Takes the packet at place n of a third's queue away, and frees the receive buffer that it held. -/
def State.unqueue (s : State) (e n : Nat) (x : Queued) : State :=
  let s := (s.modEdge e fun d => { d with queue := d.queue.eraseIdx n }).returned x
  match x.inPort with
  | some p => s.freeFlits p x.cls x.vc x.flits
  | none => s

/-- A packet that cannot be routed is discarded, and a request is answered NOROUTE: on the port by which it came, or to
the device's own requester (R349). -/
def State.noRoute (s : State) (e n : Nat) (x : Queued) : State :=
  let s := s.unqueue e n x
  if wantsReply x.pkt.op then
    match x.inPort with
    | some p => s.sendVia p (replyTo s.devnum x.pkt.sdev x.pkt.part x.pkt.epoch x.pkt.txid x.pkt.addr (replyOp x.pkt.op) 2 [])
    | none =>
      match s.txs.find? fun t => t.txid = x.pkt.txid with
      | some t => s.endTx t (replyOp x.pkt.op) 2 []
      | none => s
  else s

/-- The input by which a packet came: a port, or 18 for the internal port (R347). -/
def Queued.input (x : Queued) : Nat := x.inPort.getD 18

/-- The output that a packet is bound for, a port or 18 for the internal port, and whether it crosses a dateline; none without a
usable route (R347, R348). -/
def State.outputOf (s : State) (e : Nat) (x : Queued) : Option (Nat × Bool) :=
  match x.via with
  | some p => some (p, false)
  | none =>
    if x.inPort.isSome && (x.pkt.ddev == s.devnum || opClass x.pkt.op == 2) then some (18, false)
    else s.route (s.edge e).routes x.vc.toNat x.pkt

/-- The virtual channel on which a packet leaves (R348). -/
def Queued.outVc (x : Queued) (dateline : Bool) : BitVec 3 := if dateline then x.vc + 1 else x.vc

/-- The payloads of the flits that carry a packet on, with one hop less (R339, R348). -/
def Queued.payloads (x : Queued) : List (List Byte) := Machine.payloads 3 (packetBytes { x.pkt with hops := x.pkt.hops - 1 })

/-- Whether a packet takes a hop and finds its output ready: the internal port always is, another has credit (R341, R348). -/
def State.canGo (s : State) (x : Queued) (o : Nat) (dateline : Bool) : Bool :=
  o == 18 || (decide (1 < x.pkt.hops.toNat) && (s.port o).maySend (6 * x.cls.toNat + (x.outVc dateline).toNat) x.payloads.length)

/-- Whether the packet at place n is at the head of its input's buffer for its class and virtual channel (R347). -/
def Edge.isHead (d : Edge) (n : Nat) (x : Queued) : Bool :=
  (d.queue.take n).all fun y => !(y.inPort == x.inPort && y.via == x.via && y.cls == x.cls && y.vc == x.vc)

/-- How far behind the input that an output serves first a packet's input stands (R347). -/
def Edge.behind (d : Edge) (o : Nat) (x : Queued) : Nat := (x.input + 19 - Tab.read 0 o d.rot) % 19

/-- Whether it is the turn of the packet at place n: it heads its input, and no other head that could go by its output stands
before it in rotating priority (R347). -/
def State.switchTurn (s : State) (e n : Nat) (x : Queued) : Bool :=
  let d := s.edge e
  d.isHead n x && match s.outputOf e x with
    | none => true
    | some (o, _) => d.queue.zipIdx.all fun y =>
      match s.outputOf e y.1 with
      | none => true
      | some (o', dl) => o' != o || y.2 == n || !d.isHead y.2 y.1 || !s.canGo y.1 o' dl || decide (d.behind o x ≤ d.behind o y.1)

/-- An output has served an input: the next input comes first (R347). -/
def State.rotate (s : State) (e o : Nat) (x : Queued) : State :=
  s.modEdge e fun d => { d with rot := Tab.write o ((x.input + 1) % 19) d.rot }

/-- Sends a packet out of a port, where its credit allows (R341, R347). -/
def State.sendOut (s : State) (e n : Nat) (x : Queued) (p : Nat) (dateline : Bool) : State :=
  if x.pkt.hops.toNat ≤ 1 then
    let s := (match x.inPort with | some i => s.portViolation i | none => s).tellManager 4 x.pkt.ddev.toNat
    s.noRoute e n x
  else if s.canGo x p dateline then ((s.rotate e p x).unqueue e n x).sendFlits p x.cls (x.outVc dateline) x.payloads
  else s

/-- A packet bound for a port that is DOWN or FENCED: another way, or none (R343, R352). -/
def State.divert (s : State) (e n p : Nat) (x : Queued) : State :=
  match x.loses p with
  | some y => s.modEdge e fun d => { d with queue := d.queue.set n y }
  | none => s.unqueue e n x

/-- The packet at place n of a third's queue moves on when it is its turn: to the internal port, or out of the port that its
route or its reduction group names; without a usable route it is discarded (R347 to R349). -/
def execSwitchForward (e : EdgeNo) (n : Nat) (s : State) : Ans :=
  .next (match (s.edge e.val).queue[n]? with
    | none => s
    | some x =>
      if !s.switchTurn e.val n x then s
      else match s.outputOf e.val x with
        | none => s.noRoute e.val n x
        | some (o, dl) =>
          if o = 18 then
            let s := (s.rotate e.val 18 x).unqueue e.val n x
            { s with inbox := s.inbox ++ [x] }
          else if (s.port o).state = 0 ∨ (s.port o).state = 4 then s.divert e.val n o x
          else if (s.port o).state = 3 then s.sendOut e.val n x o dl
          else s)

/-! ## Requests at their home (R311, R345, R440) -/

/-- The device address that a packet carries (R347). -/
def pktAddr (p : Packet) : Nat := p.addr.toNat % 0x100000000000

/-- The third by which a packet came. -/
def Queued.third (x : Queued) : Nat := match x.inPort with | some p => p / 6 | none => 0

/-- The packet at place n of the inbox, where it has the OP and, for a request to an address, its way over the avenues and streets is
open and no spot test keeps it waiting (R309, R432, R459). -/
def State.inboxAt (s : State) (n : Nat) (op : Byte) : Option Queued :=
  match s.inbox[n]? with
  | some x =>
    if x.pkt.op = op ∧ (opClass op ≠ 0 ∨ op = 0x20 ∨ s.roadOpen (edgePath x.third (s.goalOf (s.cityOf (pktAddr x.pkt)))) = true ∧ s.underTest (pktAddr x.pkt) = false) then some x else none
  | none => none

/-- Takes a packet out of the inbox. -/
def State.unbox (s : State) (n : Nat) : State := { s with inbox := s.inbox.eraseIdx n }

/-- A remote device as an agent (R406). -/
def whoRemote (p : Packet) : Who := { src := 5, num := p.sdev.setWidth 16, part := some p.part, user := false }

/-- Whether a request is absorbed: its epoch is older than its home's (R311), or the device is in curfew and it is no
evacuation read (R440). -/
def State.absorbs (s : State) (p : Packet) : Bool :=
  let a := pktAddr p
  epochOld p.epoch (s.homeEpoch p.part a) ||
  (s.curfew && !(p.op == 0x01 && s.sq.cause != 0x12 && s.ownerOf a == some p.part && match regionOf a with
    | .hbm _ => true
    | .ddr => true
    | .store _ => true
    | _ => false))

/-- Answers a request (R344, R345). -/
def State.reply (s : State) (p : Packet) (op status : Byte) (data : List Byte) : State :=
  s.sendPacket (replyTo s.devnum p.sdev p.part p.epoch p.txid p.addr op status data)

/-- A request for an address that its partition does not reach counts as a violation of its port; one that is absorbed, with a
stale epoch or in curfew, is none (R311, R363, R405, R440; log entry 155). -/
def State.screen (s : State) (x : Queued) : State :=
  let denied := match s.access (whoRemote x.pkt) (pktAddr x.pkt) with
    | .deny _ => true
    | _ => false
  match x.inPort with
  | some p => if denied && !s.absorbs x.pkt then s.countViolation p else s
  | none => s

/-- Serves the request at place n of the inbox: an absorbed one is answered with zeros, any other by its own effect. -/
def State.serve (s : State) (n : Nat) (op : Byte) (zeros : Packet → List Byte) (f : State → Packet → State) : State :=
  match s.inboxAt n op with
  | none => s
  | some x =>
    let s := (s.unbox n).screen x
    if s.absorbs x.pkt then s.reply x.pkt (replyOp op) 0 (zeros x.pkt) else f s x.pkt

/-- Word i of a packet's data. -/
def pktWord (p : Packet) (i : Nat) : Word := BitVec.ofNat 64 (leNat ((p.data.drop (8 * i)).take 8))

/-- A remote READ (R345). -/
def execFabricRead (n : Nat) (s : State) : Ans :=
  .next (s.serve n 0x01 (fun p => List.replicate (fld p.oparg 0 9) 0) fun s p =>
    let (s, bs, bad) := s.readSpan (whoRemote p) (pktAddr p) (fld p.oparg 0 9)
    s.reply p 0x10 (if bad then 1 else 0) bs)

/-- A remote WRITE (R345). -/
def execFabricWrite (n : Nat) (s : State) : Ans :=
  .next (s.serve n 0x02 (fun _ => []) fun s p => (s.writeSpan (whoRemote p) (pktAddr p) p.data).reply p 0x11 0 [])

/-- A remote operation at the memory: the old value returns (R185, R345). -/
def State.serveOp (s : State) (n : Nat) (op : Byte) (k : Packet → ReqKind) : State :=
  s.serve n op (fun _ => List.replicate 8 0) fun s p =>
    let (s, old, bad) := s.operate (whoRemote p) (pktAddr p / 8 * 8) (k p)
    s.reply p 0x12 (if bad then 1 else 0) (natBytes 8 old.toNat)

/-- A remote AADD (R345). -/
def execFabricAadd (n : Nat) (s : State) : Ans := .next (s.serveOp n 0x03 fun p => .aadd (pktWord p 0))

/-- A remote ACAS: new, then cmp (R345). -/
def execFabricAcas (n : Nat) (s : State) : Ans := .next (s.serveOp n 0x04 fun p => .acas (pktWord p 0) (pktWord p 1))

/-- A remote MCMP: new, then cmp (R345). -/
def execFabricMcmp (n : Nat) (s : State) : Ans := .next (s.serveOp n 0x05 fun p => .mcmp (pktWord p 0) (pktWord p 1))

/-- A remote MCNT (R345). -/
def execFabricMcnt (n : Nat) (s : State) : Ans := .next (s.serveOp n 0x06 fun p => .mcnt (pktWord p 0))

/-- A remote WATCH: answered at once where its word has reached x, else a watch is placed; one that finds none free
stays and looks again (R187, R205, R346). An uncorrectable word compares as any value. -/
def execFabricWatch (n : Nat) (s : State) : Ans :=
  .next (match s.inboxAt n 0x07 with
    | none => s
    | some q =>
      let p := q.pkt
      let a := pktAddr p / 8 * 8
      if s.absorbs p then (if pktWord p 0 = 0 then (s.unbox n).reply p 0x13 0 [] else s.unbox n)
      else
        let (s1, bs, bad) := s.readHome (whoRemote p) a 8
        let v := if bad then (Config.free s1.fresh).toNat else leNat bs
        let s1 := if bad then { s1 with fresh := s1.fresh + 1 } else s1
        if (pktWord p 0).toNat ≤ v then (s1.unbox n).reply p 0x13 0 []
        else if s.access (whoRemote p) a ≠ .serve then (s1.screen q).unbox n
        else if s1.watchFree a then
          let s2 := s1.unbox n
          { s2 with watches := s2.watches ++ [{ addr := a, x := pktWord p 0, who := .remote p.sdev p.txid, part := p.part, epoch := p.epoch }] }
        else s)

/-- A remote COUNT of val under mask: its home reads up to `words` further words of the range, and replies once it has read
them all (R188, R345). -/
def execFabricCount (c : CountTurn) (s : State) : Ans :=
  .next (match s.inboxAt c.place 0x08 with
    | none => s
    | some x =>
      let p := x.pkt
      if s.absorbs p then (s.unbox c.place).reply p 0x14 0 (List.replicate 8 0)
      else
        let s := if x.run.got = 0 then s.screen x else s
        let (s, r) := s.countRange (whoRemote p) (pktAddr p / 1024 * 1024) (pktWord p 0) (pktWord p 1) c.words x.run
        if r.got < 128 then { s with inbox := s.inbox.set c.place { x with run := r } }
        else (s.unbox c.place).reply p 0x14 (if r.bad then 1 else 0) (natBytes 8 r.sum.toNat))

/-- An UNWATCH: a held watch goes and is acknowledged; one that has fired is not answered (R346). -/
def execFabricUnwatch (n : Nat) (s : State) : Ans :=
  .next (match s.inboxAt n 0x0B with
    | none => s
    | some q =>
      let p := q.pkt
      let s := s.unbox n
      let mine (w : Watch) : Bool := w.who == .remote p.sdev p.txid
      let waiting (x : Queued) : Bool := x.pkt.op == 0x07 && x.pkt.sdev == p.sdev && x.pkt.txid == p.txid
      if s.watches.any mine || s.inbox.any waiting then
        { s with watches := s.watches.filter fun w => !mine w, inbox := s.inbox.filter fun x => !waiting x }.reply p 0x11 0 []
      else s)

/-! ## Cross-device reductions (R359 to R361) -/

/-- How a third's group entry takes a PARTIAL or RETURN: nothing against it, a stale generation that is counted without a
report, or an unknown group (R361). -/
inductive GroupCheck where
  | ok
  | stale
  | unknown
  deriving DecidableEq, Repr

/-- The check of R361, by the packet's GROUP and GGEN. -/
def RGroup.check (g : RGroup) (p : Packet) : GroupCheck :=
  if !g.v || g.group != p.oparg.extractLsb' 16 16 || g.part != p.part then .unknown
  else if g.ggen != p.oparg.extractLsb' 32 8 then .stale
  else .ok

/-- Counts a discarded packet under a group entry; an unknown group's is a violation of its port, recorded, and reported to the
manager (R361, R363). -/
def State.dropGroup (s : State) (x : Queued) (g : BitVec 16) (report : Bool) : State :=
  let s := s.modRgroup x.third g fun y => { y with drops := satInc y.drops }
  if report then (match x.inPort with | some p => s.countViolation p | none => s).tellManager 1 g.toNat else s

/-- A PARTIAL: on a member it joins those that wait for UPPORT; at the root it goes on to its home entry (R305, R359,
R361). -/
def execFabricPartial (n : Nat) (s : State) : Ans :=
  .next (match s.inboxAt n 0x09 with
    | none => s
    | some x =>
      let p := x.pkt
      let s := s.unbox n
      let gid : BitVec 16 := p.oparg.extractLsb' 16 16
      let g := s.rgroup x.third gid
      if s.curfew then s
      else match g.check p with
        | .unknown => s.dropGroup x gid true
        | .stale => s.dropGroup x gid false
        | .ok =>
          if g.root then
            let a := pktAddr p
            let q := s.homeQuarter p.addr.toNat 0
            let e := s.rtag q (g.tag.toNat % 4096)
            let r : RPacket :=
              { tag := g.tag, part := p.part, epoch := p.epoch, home := q, kind := g.kind, dest := e.dest.toNat
                run := (a - devAddr e.dest.toNat) / 64, mask := p.oparg.extractLsb' 0 16
                lanes := Vector.ofFn fun (i : Fin 16) => BitVec.ofNat 32 (leNat ((p.data.drop (4 * i.val)).take 4))
                cnt := fld p.oparg 40 24, flags := 0, path := edgePath x.third (s.goalOf (s.cityOf a)) }
            { s with rpackets := s.rpackets ++ [r] }
          else if g.upport.toNat < 18 then s.queuePartial g.upport.toNat g.kind p
          else s.dropGroup x gid true)

/-- A RETURN: its bytes are written at their offset from this member's RETADDR, which is the root's (R358, R360), and passed on
along the CHILD ports; when all have landed, the word at RETNOTE advances (R360, R361). -/
def execFabricReturn (n : Nat) (s : State) : Ans :=
  .next (match s.inboxAt n 0x0A with
    | none => s
    | some x =>
      let p := x.pkt
      let s := s.unbox n
      let gid : BitVec 16 := p.oparg.extractLsb' 16 16
      let e := x.third
      let g := s.rgroup e gid
      if s.curfew then s
      else match g.check p with
        | .unknown => s.dropGroup x gid true
        | .stale => s.dropGroup x gid false
        | .ok =>
          let w : Who := { src := 7, num := 0, part := some p.part, user := false }
          let a := g.retaddr.toNat + (pktAddr p + 2 ^ 44 - g.retaddr.toNat) % 2 ^ 44
          let s := if epochOld p.epoch (s.homeEpoch p.part a) then s else s.writeSpan w a p.data
          let s := ((List.range 18).filter fun c => bit g.child c).foldl (fun (s : State) c =>
            s.sendVia c p) s
          let got := g.retgot + BitVec.ofNat 40 p.data.length
          let s := s.modRgroup e gid fun y => { y with retgot := got }
          if got.toNat = 4 * g.nelem.toNat ∧ g.retnote ≠ 0 then s.countWord w (g.retnote.toNat / 8 * 8) 1 else s)

/-! ## Replies (R346) -/

/-- A reply at place n of the inbox ends its transaction; one that matches none is discarded and counted (R346,
R363). -/
def State.takeReply (s : State) (n : Nat) (op : Byte) : State :=
  match s.inboxAt n op with
  | none => s
  | some x =>
    let s := s.unbox n
    match s.txs.find? fun t => t.txid = x.pkt.txid && endsTx t op with
    | some t => s.endTx t op x.pkt.status x.pkt.data
    | none => match x.inPort with
      | some p => s.portViolation p
      | none => s

/-- A DATA reply (R346). -/
def execFabricData (n : Nat) (s : State) : Ans := .next (s.takeReply n 0x10)

/-- An OLD reply (R346). -/
def execFabricOld (n : Nat) (s : State) : Ans := .next (s.takeReply n 0x12)

/-- A FIRED reply (R346). -/
def execFabricFired (n : Nat) (s : State) : Ans := .next (s.takeReply n 0x13)

/-- A TOTAL reply (R346). -/
def execFabricTotal (n : Nat) (s : State) : Ans := .next (s.takeReply n 0x14)

end Sys2Proof.Machine
end

