-- ==== Sys2Proof/Machine/Queue.lean ====
section
/-! DEFINITION. Receive queues and messages (R267 to R281): the queue instructions, the send unit and the queues'
answers. -/

namespace Sys2Proof.Machine

/-! ## Load slots that an event fills -/

/-- A value comes to a load slot, which wakes a parked tile and lets a waiting GTAKE go on (R42, R457, R458). -/
def State.fillSlot (s : State) (t id : Nat) (v : Slot → Slot) : State :=
  let s := s.modTile t fun x =>
    { x with
      came := x.came || x.parked
      gmem := { x.gmem with slots := x.gmem.slots.map fun sl => if sl.id = id then v sl else sl } }
  let s := s.wakeBlock (blockOf t)
  match (s.tile t).waitsIn with
  | some (opc, opb) => if opc = 0x62 then (gtakeBody t opb s).conclude t (heldForm opc opb) else s
  | none => s

/-- A flag or value comes to a load slot unpoisoned. -/
def State.deliver (s : State) (t id : Nat) (v : Word) : State := s.fillSlot t id fun sl => { sl with val := some v }

/-! ## Queues of a tile -/

/-- Queue k of a tile. -/
def Tile.queue (x : Tile) (k : Nat) : RQueue := nth x.queues k .reset

/-- Changes a queue of a tile. -/
def State.modQueue (s : State) (t k : Nat) (f : RQueue → RQueue) : State :=
  s.modTile t fun x => { x with queues := x.queues.setIfInBounds k (f (x.queue k)) }

/-- QSTATE of queue k (R281). -/
def Tile.qstate (x : Tile) (k : Nat) : Word :=
  let q := x.queue k
  BitVec.ofNat 64 (q.msgs.length + 0x20 * q.isOpen.toNat + 0x100 * q.waiters.length + 0x10000 * x.qimask.toNat
    + 0x100000000 * q.epoch.toNat)

/-- QHEAD of queue k (R281). -/
def Tile.qhead (x : Tile) (k : Nat) : Word :=
  match (x.queue k).msgs with
  | m :: _ => BitVec.ofNat 64 (m.len + 0x10000 * m.src + 0x100000000 * m.epoch.toNat)
  | [] => 0

/-- A slot has been freed or a waiter has left: the queue reserves its free slot for the oldest waiter (R272). -/
def RQueue.reserve (q : RQueue) : RQueue := { q with resv := !q.waiters.isEmpty && decide (q.msgs.length < 16) }

/-- The queue records a refused sender (R272). -/
def RQueue.record (q : RQueue) (sender : Nat) : RQueue :=
  if q.waiters.contains sender || decide (8 ≤ q.waiters.length) then q else { q with waiters := q.waiters ++ [sender] }

/-- Whether the free slot is reserved for another sender (R272). -/
def RQueue.reservedFrom (q : RQueue) (sender : Nat) : Bool := q.resv && q.waiters.head? != some sender

/-- Device address of a tile's window in the quarter control space (R194). -/
def tileWindow (t : Nat) : Nat :=
  0xF0000000000 + quarterOf t * 0x100000000 + blockOf t % 64 * 0x1000000 + tileIn t * 0x100000

/-- A head message that holds an uncorrectable error is discarded, and the ERROR source is raised at the tile
(R429, R492). -/
def State.purgeHead (s : State) (t k : Nat) : State :=
  let a := tileWindow t + 0x80040 + k * 0x100
  if Tab.read false a s.marks then
    (({ s with marks := Tab.erase a s.marks }.modQueue t k fun q =>
      { q with msgs := q.msgs.tail }.reserve).logError (quarterOf t) a ⟨3, t⟩ 1 (s.whoTile t).agent).errorReport t 2
  else s

/-! ## RECV and SELECT (R277, R278) -/

/-- RECV: takes the head of queue q once it holds a message (R277). -/
def recvBody (t : Nat) (opb : Byte) (s : State) : Res :=
  let s := (s.drain t).purgeHead t (fld (s.arg t 0) 0 3)
  let k := fld (s.arg t 0) 0 3
  let la := s.arg t 1
  let q := (s.tile t).queue k
  if !q.isOpen then .trap s 0x51 (BitVec.ofNat 64 k) 0
  else if la.toNat + 63 > 0x3FFFF then .trap s 0x07 (la + 63) 0
  else if la.toNat % 8 ≠ 0 then .trap s 0x06 la 0
  else match q.msgs with
    | [] => .hold (s.setDoing t (.wait 0xE3 opb))
    | m :: rest =>
      let w := BitVec.ofNat 64 (m.len + 0x10000 * m.src)
      let s := s.modQueue t k fun q => { q with msgs := rest }.reserve
      .ok ((s.portWrite t la.toNat ((lineBytes m.data).take m.len)).push t 2 [w] 0) .seq

/-- RECV ( la q -- w ) (R277). -/
def execRecv (t : TileNo) (b : Byte) (s : State) : Ans :=
  .next (s.issue t { opc := 0xE3, opb := b, legal := opNone b, din := 2, dout := 1 } (recvBody t b))

/-- The queue that SELECT returns: the lowest-numbered open one in the mask that holds a message, or, with QSEL.ROT, the
first after QSEL.LAST (R278). -/
def Tile.selected (x : Tile) (mask : Word) : Option Nat :=
  let ready (k : Nat) : Bool := bit mask k && (x.queue k).isOpen && !(x.queue k).msgs.isEmpty
  if bit x.ctl.qsel 0 then ((List.range 8).map fun i => (fld x.ctl.qsel 8 3 + 1 + i) % 8).find? ready
  else (List.range 8).find? ready

/-- SELECT: pushes the number of a queue that holds a message, and sets QSEL.LAST to it (R59, R278). -/
def selectBody (t : Nat) (opb : Byte) (s : State) : Res :=
  let s := s.drain t
  let mask := s.arg t 0
  let x := s.tile t
  if !(List.range 8).any (fun k => bit mask k && (x.queue k).isOpen) then .trap s 0x51 (mask &&& 0xFF) 0
  else match x.selected mask with
    | none => .hold (s.setDoing t (.wait 0xE4 opb))
    | some k =>
      let s := s.modTile t fun x => { x with ctl := { x.ctl with qsel := setFld x.ctl.qsel 8 3 k } }
      .ok (s.push t 1 [BitVec.ofNat 64 k] 0) .seq

/-- SELECT ( mask -- q ) (R278). -/
def execSelect (t : TileNo) (b : Byte) (s : State) : Ans :=
  .next (s.issue t { opc := 0xE4, opb := b, legal := opNone b, din := 1, dout := 1 } (selectBody t b))

/-! ## QCTL (R268, R273, R279) -/

/-- The operand byte of QCTL with function code fn. -/
def qctlByte (fn : Nat) (b : BitVec 5) : Byte := BitVec.ofNat 8 (32 * fn + b.toNat)

/-- Changes the queues of a mask. -/
def State.modQueues (s : State) (t : Nat) (mask : Word) (f : RQueue → RQueue) : State :=
  (List.range 8).foldl (fun (s : State) k => if bit mask k then s.modQueue t k f else s) s

/-- QOPEN opens the queues of a mask and copies the partition's epoch (R268). -/
def execQopen (t : TileNo) (b : BitVec 5) (s : State) : Ans :=
  .next (s.issue t { opc := 0xE5, opb := qctlByte 0 b, legal := b == 0, din := 1 } fun s =>
    let e := s.epochOf (quarterOf t) (s.tile t).part
    .ok ((s.modQueues t (s.arg t 0) fun q => { q with isOpen := true, epoch := e }).push t 1 [] 0) .seq)

/-- QCLOSE closes the queues of a mask, discards their messages and counts them in DROPS (R268). -/
def execQclose (t : TileNo) (b : BitVec 5) (s : State) : Ans :=
  .next (s.issue t { opc := 0xE5, opb := qctlByte 1 b, legal := b == 0, din := 1 } fun s =>
    .ok ((s.modQueues t (s.arg t 0) fun q =>
      { q with isOpen := false, msgs := [], drops := satAdd q.drops q.msgs.length, waiters := [], resv := false }).push
      t 1 [] 0) .seq)

/-- QSTAT pushes QSTATE of own queue q, at ready distance 3 (R273, R281). -/
def execQstat (t : TileNo) (b : BitVec 5) (s : State) : Ans :=
  .next (s.issue t { opc := 0xE5, opb := qctlByte 2 b, legal := decide (b.toNat < 8), dout := 1 } fun s =>
    s.gives t 0 [(s.tile t).qstate (b.toNat % 8)] 3)

/-- QIMASK sets the tile's queue interrupt mask (R279). -/
def execQimask (t : TileNo) (b : BitVec 5) (s : State) : Ans :=
  .next (s.issue t { opc := 0xE5, opb := qctlByte 3 b, legal := b == 0, din := 1 } fun s =>
    let m := (s.arg t 0).setWidth 8
    .ok ((s.modTile t fun x => { x with qimask := m }).push t 1 [] 0) .seq)

/-! ## SEND, SENDT and SENDC (R274 to R276) -/

/-- The fault of a send's operands, if any (R70, R274). -/
def sendFault (la len qid : Word) : Option (Byte × Word) :=
  if len.toNat < 1 ∨ 64 < len.toNat ∨ 163839 < qid.toNat then some (0x50, qid)
  else if 0x3FFFF < la.toNat + len.toNat - 1 then some (0x07, la + len - 1)
  else if la.toNat % 8 ≠ 0 then some (0x06, la)
  else none

/-- The attempt of a send, with its payload as it stands in the tile's memory (R274). -/
def State.mkAttempt (s : State) (t : Nat) (opc : Byte) (slot : Option Nat) : Attempt :=
  let len := (s.arg t 1).toNat
  let x := s.tile t
  { id := s.nextId, tile := t, opc, qid := (s.arg t 0).toNat, len
    data := lineOf (s.portRead t (s.arg t 2).toNat len), slot, part := x.part
    epoch := s.epochOf (quarterOf t) x.part, seq := x.gmem.seq, relE := x.gmem.relE, fenE := x.gmem.fenE
    acked := false, st := .waiting }

/-- Hands a message to the send unit. -/
def State.addAttempt (s : State) (t : Nat) (opc : Byte) (slot : Option Nat) : State :=
  let a := s.mkAttempt t opc slot
  let s := s.portMeet t (s.arg t 2).toNat a.len
  { s with attempts := s.attempts ++ [a], nextId := s.nextId + 1 }

/-- SEND ( la len qid -- ): waits until its message is delivered or discarded (R275). -/
def execSend (t : TileNo) (b : Byte) (s : State) : Ans :=
  .next (s.issue t { opc := 0xE0, opb := b, legal := opNone b, din := 3 } fun s =>
    let s := s.drain t
    match sendFault (s.arg t 2) (s.arg t 1) (s.arg t 0) with
    | some (c, v) => .trap s c v 0
    | none => .hold ((s.addAttempt t 0xE0 none).setDoing t (.wait 0xE0 b)))

/-- Issues SENDT or SENDC: a load slot for the flag, and the message to the send unit (R276). -/
def sendOp (t : TileNo) (opc b : Byte) (s : State) : State :=
  s.issue t { opc, opb := b, legal := opNone b, din := 3 } fun s =>
    if (s.tile t).gmem.slots.length ≥ 8 then .trap s 0x08 (s.tile t).slotCount 0
    else match sendFault (s.arg t 2) (s.arg t 1) (s.arg t 0) with
      | some (c, v) => .trap s c v 0
      | none =>
        let sl := newSlot s.nextId (s.arg t 0) 3 true (s.tile t).core.pc
        let s := { s with nextId := s.nextId + 1 }
        .ok (((s.addAttempt t opc (some sl.id)).addSlot t sl).push t 3 [] 0) .seq

/-- SENDT makes one attempt; its flag is 1 when it is delivered (R276). -/
def execSendt (t : TileNo) (b : Byte) (s : State) : Ans := .next (sendOp t 0xE1 b s)

/-- SENDC attempts until its message is delivered, flag 1, or discarded, flag 0 (R276). -/
def execSendc (t : TileNo) (b : Byte) (s : State) : Ans := .next (sendOp t 0xE2 b s)

/-! ## Messages at their queue (R269 to R272) -/

/-- Whether an attempt may reach its queue now: what REL and FENCEG hold it for is done, and no earlier send of its tile
to the same queue waits for its answer (R231, R235, R276). -/
def State.maySend (s : State) (a : Attempt) : Bool :=
  a.st == .waiting && s.roadOpen (tilePath a.tile (.tile (a.qid / 8))) && s.relMet a.tile a.relE && s.fenMet a.tile a.fenE &&
    ((s.attempts.takeWhile fun b => b.id ≠ a.id).all fun b => b.tile ≠ a.tile || b.qid ≠ a.qid)

/-- A waiting RECV or SELECT goes on. -/
def State.retryQueue (s : State) (t : Nat) : State :=
  match (s.tile t).waitsIn with
  | some (opc, opb) =>
    if opc = 0xE3 then (recvBody t opb s).conclude t (heldForm opc opb)
    else if opc = 0xE4 then (selectBody t opb s).conclude t (heldForm opc opb)
    else s
  | none => s

/-- The message is stored: it leaves the ring and takes any reservation, a parked tile's block wakes, the arrival is
traced, and a waiting RECV or SELECT goes on (R270, R272, R279, R458, R470). -/
def State.storeMessage (s : State) (a : Attempt) (u k : Nat) : State :=
  let m : Message := { len := a.len, src := a.tile, part := a.part, epoch := a.epoch, data := a.data }
  let s := s.modQueue u k fun q =>
    { q with msgs := q.msgs ++ [m], waiters := q.waiters.filter fun w => w ≠ a.tile }.reserve
  let s := if (s.tile u).parked then s.wakeBlock (blockOf u) else s
  (s.trace (blockOf u) 4 (tileIn u) (k + 8 * a.tile)).retryQueue u

/-- What a queue does with a message, and its answer, in the order of R269. -/
def State.answer (s : State) (a : Attempt) : State × QAnswer :=
  let u := a.qid / 8
  let k := a.qid % 8
  let q := (s.tile u).queue k
  if (s.tile u).part ≠ a.part ∨ s.sq.fp.tiles.contains u then
    let w : Who := { src := 8, num := BitVec.ofNat 16 a.tile, part := some a.part, user := false }
    (s.violation w (s.quarter (quarterOf u)).running (s.cityOf (tileWindow u + 0x80000 + k * 0x100)) true 5, .discarded)
  else if !q.isOpen then (s.modQueue u k fun q => { q with drops := satInc q.drops }, .discarded)
  else if epochOld a.epoch q.epoch then (s.modQueue u k fun q => { q with stale := satInc q.stale }, .discarded)
  else if 16 ≤ q.msgs.length ∨ q.reservedFrom a.tile then (s.modQueue u k (·.record a.tile), .refused)
  else (s.storeMessage a u k, .delivered)

/-- Changes one attempt. -/
def State.modAttempt (s : State) (id : Nat) (f : Attempt → Attempt) : State :=
  { s with attempts := s.attempts.map fun a => if a.id = id then f a else a }

/-- The attempt of a number. -/
def State.attempt? (s : State) (id : Nat) : Option Attempt := s.attempts.find? fun a => a.id = id

/-- A message reaches its queue and is answered (R269). -/
def execMessageArrives (id : Nat) (s : State) : Ans :=
  .next (match s.attempt? id with
    | some a =>
      if s.maySend a then
        let (s, r) := s.answer a
        s.modAttempt id fun a => { a with st := .flying r }
      else s
    | none => s)

/-- An attempt ends. -/
def State.dropAttempt (s : State) (id : Nat) : State := { s with attempts := s.attempts.filter fun a => a.id ≠ id }

/-- The answer reaches the sender: SEND completes unless it was refused, a flag comes to the load slot of SENDT and
SENDC, and a refused SEND or SENDC will be resent (R271, R275, R276). -/
def execMessageAnswerArrives (id : Nat) (s : State) : Ans :=
  .next (match s.attempt? id with
    | some a =>
      match a.st with
      | .flying r =>
        let s := match r with
          | .delivered => s.count a.tile 10 1
          | .refused => s.count a.tile 11 1
          | .discarded => s
        if r == .refused && a.opc ≠ 0xE1 then s.modAttempt id fun a => { a with st := .refused, acked := true }
        else
          let s := s.dropAttempt id
          match a.slot with
          | some sl => s.deliver a.tile sl (ofBool64 (r == .delivered))
          | none =>
            match (s.tile a.tile).waitsIn with
            | some (opc, opb) =>
              if opc = 0xE0 then (Res.ok (s.push a.tile 3 [] 0) .seq).conclude a.tile (heldForm opc opb) else s
            | none => s
      | _ => s
    | none => s)

/-- A refused attempt is sent again (R271). -/
def execSendResend (id : Nat) (s : State) : Ans :=
  .next (match s.attempt? id with
    | some a => if a.st = .refused then s.modAttempt id fun a => { a with st := .waiting } else s
    | none => s)

/-- A reservation lapses: its waiter leaves the ring, and the slot is reserved for the next one (R272). -/
def execReservationLapse (t : TileNo) (q : Fin 8) (s : State) : Ans :=
  .next (if ((s.tile t).queue q.val).resv then
      s.modQueue t q.val fun q => { q with waiters := q.waiters.tail }.reserve
    else s)

end Sys2Proof.Machine
end

