-- ==== Sys2Proof/Machine/Hive.lean ====
section
/-! DEFINITION. The Hive (R312 to R336): records, cells and pools, the cell mover, the Hive instructions, beats and
mirroring. -/

namespace Sys2Proof.Machine

/-! ## Records and register blocks -/

/-- A partition's Hive register block in a quarter. -/
def State.hive (s : State) (q : Nat) (p : PartNo) : HiveRegs := Tab.read .reset p.toNat (s.quarter q).hive

/-- Changes a Hive register block. -/
def State.modHive (s : State) (q : Nat) (p : PartNo) (f : HiveRegs → HiveRegs) : State :=
  s.modQuarter q fun x => { x with hive := Tab.write p.toNat (f (Tab.read .reset p.toNat x.hive)) x.hive }

/-- A stream record. -/
def State.stream (s : State) (q i : Nat) : Stream := Tab.read .reset i (s.quarter q).streams

/-- Changes a stream record. -/
def State.modStream (s : State) (q i : Nat) (f : Stream → Stream) : State :=
  s.modQuarter q fun x => { x with streams := Tab.write i (f (Tab.read .reset i x.streams)) x.streams }

/-- The indices of a partition's records that are not FREE, rising. -/
def State.streamsOf (s : State) (q : Nat) (p : PartNo) : List Nat :=
  ((s.quarter q).streams.filter fun e => e.2.part = p && e.2.state ≠ 0).map (·.1)

/-- Device address of a record's window (R314). -/
def recordAddr (q i : Nat) : Nat := 0xF0051000000 + q * 0x100000000 + i * 0x80

/-- Whether a record holds an uncorrectable error: it leaves selection (R429). -/
def State.recordBad (s : State) (q i : Nat) : Bool := Tab.read false (recordAddr q i) s.marks

/-- A count with 1 added, passing over 0 (R313, R325). -/
def nextGen (g : BitVec 32) : BitVec 32 := if g + 1 = 0 then 1 else g + 1

/-- The handle of a record (R313). -/
def State.handle (s : State) (q i : Nat) : Word :=
  BitVec.ofNat 64 (i + q * 0x4000 + (s.stream q i).gen.toNat * 0x100000000)

/-- Word 0x00 of a record (R314). -/
def Stream.word0 (x : Stream) : Word :=
  BitVec.ofNat 64 (x.state.toNat + 8 * x.ppend.toNat + 0x10 * x.prio.toNat + 0x80 * x.mirc.toNat + 0x100 * x.part.toNat
    + 0x4000 * x.prom.toNat + 0x8000 * x.demo.toNat + 0x10000 * x.pfresh.toNat + 0x100000000 * x.gen.toNat)

/-- Word 0x28 of a record: NCELL and NOUT (R314). -/
def Stream.cells (x : Stream) : Word := BitVec.ofNat 64 (x.ncell + 0x100000000 * x.nout)

/-- Word 0x30 of a record: LASTSEL and DEFER (R314). -/
def Stream.word30 (x : Stream) : Word := BitVec.ofNat 64 (x.lastsel.toNat + 0x100000000 * x.defer.toNat)

/-- Word k of a record's 16 (R314). -/
def Stream.word (x : Stream) (k : Nat) : Word :=
  match k with
  | 0 => x.word0
  | 1 => x.deadline
  | 2 => x.step
  | 3 => x.pos
  | 4 => x.croot.setWidth 64
  | 5 => x.cells
  | 6 => x.word30
  | 8 => nth x.user 0 0
  | 9 => nth x.user 1 0
  | 10 => nth x.user 2 0
  | 11 => nth x.user 3 0
  | _ => 0

/-- A record's 128 bytes. -/
def Stream.bytes (x : Stream) : List Byte := (List.range 16).flatMap fun k => natBytes 8 (x.word k).toNat

/-! ## The Hive's memory accesses (R318) -/

/-- The Hive as an agent of a partition. -/
def whoHive (q : Nat) (p : PartNo) : Who := { src := 3, num := BitVec.ofNat 16 q, part := some p, user := false }

/-- The city address that a partition's tables give the Hive of a quarter; none where the page does not allow the access or is
no memory of this device (R318). -/
def State.hiveCity (s : State) (q : Nat) (p : PartNo) (va : Nat) (k : Kind) (user : Bool) : Option Nat :=
  match (s.walk q p (BitVec.ofNat 64 va)).leaf with
  | some e =>
    let city := e.addr va
    if (protFault e k user).isNone && (!s.isLocal city || isMemory (devAddr city)) then some city else none
  | none => none

/-- The device address of a cell, a pool or a list page, which lies on this device (R318). -/
def State.hiveMap (s : State) (q : Nat) (p : PartNo) (va : Nat) (k : Kind) (user : Bool) : Option Nat :=
  (s.hiveCity q p va k user).bind fun city => if s.isLocal city then some (devAddr city) else none

/-- Reads n bytes for the Hive: 0 where nothing is mapped, a free value where the memory reads as uncorrectable. -/
def State.hiveRead (s : State) (q : Nat) (p : PartNo) (va n : Nat) : State × Nat :=
  match s.hiveMap q p va kLoad false with
  | none => (s, 0)
  | some a =>
    let (s, bs, bad) := s.readHome (whoHive q p) a n
    if bad then ({ s with fresh := s.fresh + 1 }, (Config.free s.fresh).toNat % 2 ^ (8 * n)) else (s, leNat bs)

/-- Writes bytes for the Hive; nothing where nothing is mapped. -/
def State.hiveWrite (s : State) (q : Nat) (p : PartNo) (va : Nat) (bs : List Byte) : State :=
  match s.hiveMap q p va kStore false with
  | none => s
  | some a => s.writeHome (whoHive q p) a bs

/-- n words of free value, for a read that was uncorrectable or that no device answered. -/
def State.freeBytes (s : State) (n : Nat) : State × List Byte :=
  ({ s with fresh := s.fresh + n }, (List.range n).flatMap fun i => natBytes 8 (Config.free (s.fresh + i)).toNat)

/-- Reads n words for the Hive wherever its tables place them: zeros where nothing is mapped, free values where the read fails,
none while another device has still to answer. -/
def State.hiveFetch (s : State) (q : Nat) (p : PartNo) (rd : Reader) (va n : Nat) : State × Option (List Byte) :=
  match s.hiveCity q p va kLoad false with
  | none => (s, some (List.replicate (8 * n) 0))
  | some city =>
    match s.partRead (whoHive q p) rd p (s.epochOf q p) city (8 * n) with
    | (s, none) => (s, none)
    | (s, some (bs, bad)) =>
      if bad then
        let (s, v) := s.freeBytes n
        (s, some v)
      else (s, some bs)

/-- Word k of bytes. -/
def bytesWord (bs : List Byte) (k : Nat) : Word := BitVec.ofNat 64 (leNat ((bs.drop (8 * k)).take 8))

/-- A word as the Hive would read it, without the access. -/
def State.hivePeek (s : State) (q : Nat) (p : PartNo) (va : Nat) : Word :=
  match s.hiveMap q p va kLoad false with
  | none => 0
  | some a => if a < 0x80000000000 then BitVec.ofNat 64 (leNat ((List.range 8).map fun i => s.dramByte (a + i))) else s.wordAt a

/-- The Hive's walks count: how many one of its operations makes, the spec does not say (R212, R318). -/
def State.hiveWalked (s : State) (q : Nat) : State :=
  { s with fresh := s.fresh + 2 }.modQuarter q fun x =>
    { x with nwalks := satAdd x.nwalks (Config.free s.fresh).toNat, wcmiss := satAdd x.wcmiss (Config.free (s.fresh + 1)).toNat }

/-! ## Pools and free stacks (R317 to R319) -/

/-- The pools, in the order of their free stacks. -/
inductive Pool where
  | hbm | bs | ddr | list
  deriving DecidableEq, Repr

/-- Entries on a pool's free stack, as its register gives them. -/
def HiveRegs.free (h : HiveRegs) : Pool → Nat
  | .hbm => h.hbmFree.toNat
  | .bs => h.bsFree.toNat
  | .ddr => h.ddrFree.toNat
  | .list => h.listFree.toNat

/-- The block with a pool's FREE replaced. -/
def HiveRegs.setFree (h : HiveRegs) (p : Pool) (n : Nat) : HiveRegs :=
  match p with
  | .hbm => { h with hbmFree := BitVec.ofNat 21 n }
  | .bs => { h with bsFree := BitVec.ofNat 15 n }
  | .ddr => { h with ddrFree := BitVec.ofNat 27 n }
  | .list => { h with listFree := BitVec.ofNat 21 n }

/-- Entries of a pool. -/
def HiveRegs.size (h : HiveRegs) : Pool → Nat
  | .hbm => h.hbmCells.toNat
  | .bs => h.bsCells.toNat
  | .ddr => h.ddrCells.toNat
  | .list => h.listPages.toNat

/-- VBASE of a pool. -/
def HiveRegs.base (h : HiveRegs) : Pool → Nat
  | .hbm => h.hbmBase.toNat
  | .bs => h.bsBase.toNat
  | .ddr => h.ddrBase.toNat
  | .list => h.listBase.toNat

/-- Bytes of a pool's entry. -/
def Pool.unit : Pool → Nat
  | .list => 0x800
  | _ => 0x10000

/-- n rounded up to a multiple of 64. -/
def up64 (n : Nat) : Nat := (n + 63) / 64 * 64

/-- First address of a pool's free stack (R318). -/
def HiveRegs.stack (h : HiveRegs) (p : Pool) : Nat :=
  let b0 := h.freeBase.toNat
  let b1 := b0 + up64 (4 * h.hbmCells.toNat)
  let b2 := b1 + up64 (4 * h.bsCells.toNat)
  let b3 := b2 + up64 (4 * h.ddrCells.toNat)
  match p with
  | .hbm => b0
  | .bs => b1
  | .ddr => b2
  | .list => b3

/-- Indices that moves in progress have taken from a pool's stack, and that FREE still counts (R323). -/
def State.taken (s : State) (q : Nat) (p : PartNo) (pool : Pool) : Nat :=
  match pool with
  | .hbm => (s.quarter q).moves.countP fun m => m.part == p && m.up
  | .ddr => (s.quarter q).moves.countP fun m => m.part == p && !m.up
  | _ => 0

/-- Indices that a pool's stack holds. -/
def State.depth (s : State) (q : Nat) (p : PartNo) (pool : Pool) : Nat := (s.hive q p).free pool - s.taken q p pool

/-- Takes the top index of a pool's stack; FREE stays. -/
def State.takeIndex (s : State) (q : Nat) (p : PartNo) (pool : Pool) : State × Nat :=
  s.hiveRead q p ((s.hive q p).stack pool + 4 * (s.depth q p pool - 1)) 4

/-- Takes an entry of a pool: the state with FREE lowered, and the entry's va. -/
def State.popPool (s : State) (q : Nat) (p : PartNo) (pool : Pool) : State × Nat :=
  let (s, i) := s.takeIndex q p pool
  (s.modHive q p fun h => h.setFree pool (h.free pool - 1), (s.hive q p).base pool + i * pool.unit)

/-- Puts an index back on its pool's stack, and only then updates FREE (R323). -/
def State.pushIndex (s : State) (q : Nat) (p : PartNo) (pool : Pool) (i : Nat) : State :=
  (s.hiveWrite q p ((s.hive q p).stack pool + 4 * s.depth q p pool) (natBytes 4 i)).modHive q p fun h =>
    h.setFree pool (h.free pool + 1)

/-- Puts the entry at a va back. -/
def State.pushPool (s : State) (q : Nat) (p : PartNo) (pool : Pool) (va : Nat) : State :=
  s.pushIndex q p pool ((va - (s.hive q p).base pool) / pool.unit)

/-! ## Cell lists (R316) -/

/-- The va field of a cell-list word, at the given alignment. -/
def listVa (w unit : Nat) : Nat := w % 2 ^ 56 / unit * unit

/-- The va of cell i's entry. -/
def State.entryVa (s : State) (q i cell : Nat) : Nat :=
  let st := s.stream q i
  listVa (s.hivePeek q st.part (st.croot.toNat + 8 * (cell / 256))).toNat 0x800 + 8 * (cell % 256)

/-- Cell i's entry as it stands. -/
def State.cellEntry (s : State) (q i cell : Nat) : Word := s.hivePeek q (s.stream q i).part (s.entryVa q i cell)

/-- Cell i's TIER. -/
def State.tier (s : State) (q i cell : Nat) : Nat := fld (s.cellEntry q i cell) 1 2

/-- Writes a cell's entry. -/
def State.setEntry (s : State) (q i cell tier va : Nat) : State :=
  s.hiveWrite q (s.stream q i).part (s.entryVa q i cell) (natBytes 8 (va + 2 * tier + 1))

/-- The pool of a TIER. -/
def tierPool (t : Nat) : Pool := if t = 0 then .hbm else if t = 1 then .bs else .ddr

/-- Whether HBM4 gives a cell: FREE − RESV ≥ 1 (R319). -/
def State.hbmGives (s : State) (q : Nat) (p : PartNo) : Bool :=
  decide ((s.hive q p).resv.toNat < (s.hive q p).hbmFree.toNat) && decide (0 < s.depth q p .hbm)

/-- The pool that gives the next new cell (R319). -/
def State.newPool (s : State) (q : Nat) (p : PartNo) : Option Nat :=
  let hbm := s.hbmGives q p
  let bs := decide (0 < s.depth q p .bs)
  let ddr := decide (0 < s.depth q p .ddr)
  if (s.hive q p).bsfirst then (if bs then some 1 else if hbm then some 0 else if ddr then some 2 else none)
  else if hbm then some 0 else if bs then some 1 else if ddr then some 2 else none

/-- Whether n more cells and the list pages that they need can be given (R316, R319, R324). -/
def State.canAppend (s : State) (q i n : Nat) : Bool :=
  let st := s.stream q i
  let p := st.part
  let h := s.hive q p
  let hbm := Nat.min (h.hbmFree.toNat - h.resv.toNat) (s.depth q p .hbm)
  let pages := (st.ncell + n + 255) / 256 - (st.ncell + 255) / 256 + (if st.ncell = 0 then 1 else 0)
  decide (st.ncell + n ≤ 65536) && decide (n ≤ hbm + s.depth q p .bs + s.depth q p .ddr)
    && decide (pages ≤ s.depth q p .list)

/-- Appends one cell (R316, R319, R320). -/
def State.appendCell (s : State) (q i : Nat) : State :=
  let st := s.stream q i
  let p := st.part
  let s := if st.ncell = 0 then
      let (s, va) := s.popPool q p .list
      s.modStream q i fun x => { x with croot := BitVec.ofNat 56 va }
    else s
  let s := if st.ncell % 256 = 0 then
      let (s, va) := s.popPool q p .list
      s.hiveWrite q p ((s.stream q i).croot.toNat + 8 * (st.ncell / 256)) (natBytes 8 (va + 1))
    else s
  match s.newPool q p with
  | none => s
  | some t =>
    let (s, va) := s.popPool q p (tierPool t)
    let out := if t = 2 then 1 else 0
    let s := (s.setEntry q i st.ncell t va).modStream q i fun x => { x with ncell := x.ncell + 1, nout := x.nout + out }
    if st.prom then s.modHive q p fun h => { h with resv := h.resv + BitVec.ofNat 21 out } else s

/-- A stream without cells outside HBM4 and the block store leaves the promotion queue (R321). -/
def State.checkPromoted (s : State) (q i : Nat) : State :=
  let st := s.stream q i
  if st.prom && st.nout == 0 then
    (s.modStream q i fun x => { x with prom := false, pfresh := true }).modHive q st.part fun h =>
      { h with promq := h.promq.filter (· ≠ i) }
  else s

/-- A stream leaves the promotion queue with its reservation released (R323, R325). -/
def State.leaveQueue (s : State) (q i : Nat) : State :=
  let st := s.stream q i
  if st.prom then
    (s.modStream q i fun x => { x with prom := false }).modHive q st.part fun h =>
      { h with promq := h.promq.filter (· ≠ i), resv := h.resv - BitVec.ofNat 21 st.nout }
  else s

/-- DEMO clears when the stream has no HBM4 cell left (R322). -/
def State.checkDemo (s : State) (q i : Nat) : State :=
  let st := s.stream q i
  if st.demo && !(List.range st.ncell).any fun c => s.tier q i c == 0 then
    s.modStream q i fun x => { x with demo := false }
  else s

/-- Releases the last cell and the list pages that end with it; a cell in transit is released when its move completes
(R316, R324, R325). -/
def State.releaseCell (s : State) (q i : Nat) : State :=
  let st := s.stream q i
  let p := st.part
  let c := st.ncell - 1
  let e := s.cellEntry q i c
  let t := fld e 1 2
  let s := if t = 3 then
      s.modQuarter q fun x => { x with moves := x.moves.map fun m => if m.stream = i && m.cell = c && !m.freed then { m with freed := true } else m }
    else s.pushPool q p (tierPool t) (listVa e.toNat 0x10000)
  let out := if 2 ≤ t then 1 else 0
  let s := if st.prom then s.modHive q p fun h => { h with resv := h.resv - BitVec.ofNat 21 out } else s
  let s := s.hiveWrite q p (s.entryVa q i c) (natBytes 8 0)
  let s := if c % 256 = 0 then
      let l1 := st.croot.toNat + 8 * (c / 256)
      let page := listVa (s.hivePeek q p l1).toNat 0x800
      (s.hiveWrite q p l1 (natBytes 8 0)).pushPool q p .list page
    else s
  let s := if c = 0 then (s.pushPool q p .list st.croot.toNat).modStream q i fun x => { x with croot := 0 } else s
  s.modStream q i fun x => { x with ncell := c, nout := x.nout - out }

/-- Does something n times. -/
def times (n : Nat) (f : State → State) (s : State) : State := n.repeat f s

/-! ## The cell mover (R320 to R323) -/

/-- A move that cannot translate is abandoned: the cell keeps its place, the stream leaves the promotion queue, MOVEERR
counts, and the Square is told (R323). -/
def State.abandonMove (s : State) (q : Nat) (m : Move) : State :=
  let s := if m.freed then s else s.setEntry q m.stream m.cell (if m.up then 2 else 0) m.oldVa
  let s := if m.freed then s else s.leaveQueue q m.stream
  let s := if m.freed || m.up then s else s.modStream q m.stream fun x => { x with nout := x.nout - 1 }
  (s.modHive q m.part fun h => { h with moveerr := satInc h.moveerr }).emit (.toSquare 5 q m.stream)

/-- The new va of a move. -/
def State.moveVa (s : State) (q : Nat) (m : Move) : Nat :=
  (s.hive q m.part).base (if m.up then .hbm else .ddr) + m.newIx * 0x10000

/-- Whether both sides of a move translate. -/
def State.moveMaps (s : State) (q : Nat) (m : Move) : Bool :=
  (s.hiveMap q m.part m.oldVa kBoth false).isSome && (s.hiveMap q m.part (s.moveVa q m) kBoth false).isSome

/-- Starts the move of a cell: its TIER becomes 3 (R323). A cell that leaves HBM4 is no longer resident (R320). -/
def State.startMove (s : State) (q i cell : Nat) (up : Bool) : State :=
  let st := s.stream q i
  let oldVa := listVa (s.cellEntry q i cell).toNat 0x10000
  let (s, ix) := s.takeIndex q st.part (if up then .hbm else .ddr)
  let m : Move := { part := st.part, stream := i, cell, up, oldVa, newIx := ix, freed := false }
  let s := s.hiveWalked q
  let s := (s.setEntry q i cell 3 oldVa).modStream q i fun x =>
    { x with nout := if up then x.nout else x.nout + 1, demo := x.demo || !up }
  if s.moveMaps q m then s.modQuarter q fun x => { x with moves := x.moves ++ [m] } else s.abandonMove q m

/-- Starts a promotion for a partition, in the order of its promotion queue (R321). -/
def State.startPromotion (s : State) (q : Nat) (p : PartNo) : State :=
  if (s.quarter q).moves.any (·.up) || s.depth q p .hbm == 0 then s
  else
    match (s.hive q p).promq.findSome? fun i =>
        ((List.range (s.stream q i).ncell).find? fun c => s.tier q i c == 2).map fun c => (i, c) with
    | some (i, c) => s.startMove q i c true
    | none => s

/-- Starts promotions until one is under way or none can be: one that is abandoned at once makes room for the next stream's (R323). -/
def State.promote (s : State) (q : Nat) (p : PartNo) : Nat → State
  | 0 => s
  | n + 1 =>
    let s1 := s.startPromotion q p
    if (s1.hive q p).promq.length < (s.hive q p).promq.length then s1.promote q p n else s1

/-- The order in which victims are taken: DEMO first, then FINISHED, PAUSED, WAITING, READY, then the oldest LASTSEL
(R322). -/
def victimKey (x : Stream) : Nat :=
  let group := if x.state = 5 then 0 else if x.state = 4 then 1 else if x.state = 1 then 2 else 3
  ((if x.demo then 0 else 4) + group) * 0x100000000 + x.lastsel.toNat

/-- The next victim: the stream and its highest HBM4 cell (R322). -/
def State.victim (s : State) (q : Nat) (p : PartNo) : Option (Nat × Nat) :=
  let l := (s.streamsOf q p).filter fun i =>
    let x := s.stream q i
    x.state ≠ 3 && !x.prom && !x.pfresh
  (sortBy (fun i => victimKey (s.stream q i)) l).findSome? fun i =>
    ((List.range (s.stream q i).ncell).reverse.find? fun c => s.tier q i c == 0).map fun c => (i, c)

/-- Starts a demotion for a partition while FREE − RESV calls for it (R322). -/
def State.startDemotion (s : State) (q : Nat) (p : PartNo) : State :=
  let h := s.hive q p
  let low := decide (h.hbmFree.toNat < h.resv.toNat + h.low.toNat)
  let high := decide (h.resv.toNat + h.high.toNat ≤ h.hbmFree.toNat)
  let s := s.modHive q p fun h => { h with demoting := low || (h.demoting && !high) }
  if !(s.hive q p).demoting || (s.quarter q).moves.any (fun m => !m.up) || s.depth q p .ddr == 0 then s
  else
    match s.victim q p with
    | some (i, c) => s.startMove q i c false
    | none => s

/-- The mover takes up what is pending: one promotion and one demotion at a time (R323). -/
def State.runMover (s : State) (q : Nat) : State :=
  (((s.quarter q).hive.filter fun e => e.2.rdy).map fun e => BitVec.ofNat 6 e.1).foldl (fun (s : State) p =>
    (s.promote q p 65).startDemotion q p) s

/-- Copies a cell's 64 KiB; a line read as uncorrectable stays so (R200, R323). -/
def State.copyCell (s : State) (w : Who) (src dst : Nat) : State :=
  (List.range 1024).foldl (fun (s : State) l =>
    let (s, bs, bad) := s.readHome w (src + 64 * l) 64
    let s := s.writeHome w (dst + 64 * l) bs
    if bad && s.access w (dst + 64 * l) = .serve then { s with marks := Tab.write (dst + 64 * l) true s.marks } else s) s

/-- A move's writes are acknowledged: the entry takes the new place, and the old index goes back to its stack (R323). -/
def State.finishMove (s : State) (q : Nat) (m : Move) : State :=
  let p := m.part
  let oldPool : Pool := if m.up then .ddr else .hbm
  let newPool : Pool := if m.up then .hbm else .ddr
  let new := s.moveVa q m
  match s.hiveMap q p m.oldVa kBoth false, s.hiveMap q p new kBoth false with
  | some a, some b =>
    if m.freed then
      let s := s.hiveWrite q p ((s.hive q p).stack newPool + 4 * (s.depth q p newPool - 1)) (natBytes 4 m.newIx)
      s.pushPool q p oldPool m.oldVa
    else
      let s := (s.copyCell (whoHive q p) a b).setEntry q m.stream m.cell (if m.up then 0 else 2) new
      let s := s.modHive q p fun h => h.setFree newPool (h.free newPool - 1)
      let s := s.pushPool q p oldPool m.oldVa
      if m.up then
        let s := s.modHive q p fun h =>
          { h with promoted := satInc h.promoted, resv := if (s.stream q m.stream).prom then h.resv - 1 else h.resv }
        (s.modStream q m.stream fun x => { x with nout := x.nout - 1 }).checkPromoted q m.stream
      else
        (s.modHive q p fun h => { h with demoted := satInc h.demoted }).checkDemo q m.stream
  | _, _ =>
    let s := s.hiveWrite q p ((s.hive q p).stack newPool + 4 * (s.depth q p newPool - 1)) (natBytes 4 m.newIx)
    let s := if m.freed then s.pushPool q p oldPool m.oldVa else s
    s.abandonMove q m

/-- The move at place n of the quarter's mover completes (R323). -/
def execCellMoveComplete (q : QuarterNo) (n : Nat) (s : State) : Ans :=
  .next (match if s.curfew then none else (s.quarter q.val).moves[n]? with
    | some m =>
      let s := s.modQuarter q.val fun x => { x with moves := x.moves.eraseIdx n }
      ((s.finishMove q.val m).hiveWalked q.val).runMover q.val
    | none => s)

/-! ## Enabling (R317, R318) -/

/-- Whether every record of a partition in the quarter is FREE. -/
def State.allFree (s : State) (q : Nat) (p : PartNo) : Bool := (s.streamsOf q p).isEmpty

/-- A write of HCTL: one that clears EN is ignored while a record of p is not FREE (R317, R318). -/
def State.writeHctl (s : State) (q : Nat) (p : PartNo) (v : Word) : State :=
  let h := s.hive q p
  if h.en && !bit v 0 && !s.allFree q p then s
  else s.modHive q p fun h =>
    { h with
      en := bit v 0, miren := bit v 1, jrnen := bit v 2, bsfirst := bit v 3
      rdy := h.rdy && h.en && bit v 0 }

/-- Whether a writer reaches partition p's Hive registers in a quarter (R197, R317). -/
def State.mayHive (s : State) (w : Writer) (q : Nat) (p : PartNo) : Bool :=
  s.mayCtl w q && match w with
  | .tile t => (s.tile t).part == p
  | _ => true

/-- A write of HCTL by a writer that may reach it (R317, R318). -/
def execHiveEnable (w : Writer) (q : QuarterNo) (p : PartNo) (v : Word) (s : State) : Ans :=
  .next (if s.mayHive w q.val p then s.writeHctl q.val p v
    else s.deniedCtl w (0xF0050000000 + q.val * 0x100000000 + p.toNat * 0x100) true)

/-- The indices below n in an order that the spec does not give (R318): sorted by free keys. -/
def freeOrder (n occasion : Nat) : List Nat := sortBy (fun i => (Config.free (occasion + i)).toNat) (List.range n)

/-- Writes a pool's free stack in a free order, and sets its FREE (R318). -/
def State.buildStack (s : State) (q : Nat) (p : PartNo) (pool : Pool) : State :=
  let h := s.hive q p
  let n := h.size pool
  let order := freeOrder n s.fresh
  let s := { s with fresh := s.fresh + n }
  (order.zipIdx.foldl (fun (s : State) e => s.hiveWrite q p (h.stack pool + 4 * e.2) (natBytes 4 e.1)) s).modHive q p fun h =>
    h.setFree pool n

/-- The free stacks are built, and RDY is set (R318). -/
def execHiveReady (q : QuarterNo) (p : PartNo) (s : State) : Ans :=
  .next (if (s.hive q.val p).en && !(s.hive q.val p).rdy && !s.curfew then
      let s := [Pool.hbm, .bs, .ddr, .list].foldl (fun (s : State) x => s.buildStack q.val p x) s
      (s.modHive q.val p fun h => { h with rdy := true, resv := 0, promq := [] }).hiveWalked q.val
    else s)

/-! ## The operations (R315, R324 to R327) -/

/-- What an operation answers: the slot's value and the exception that its landing raises. -/
abbrev HiveAns := State × Word × Option Byte

/-- A refused operation has no effect, and its slot receives 0 (R326, R327). -/
def hiveRefuse (s : State) (c : Byte) : HiveAns := (s, 0, some c)

/-- Whether the issuer's partition may use the Hive of a quarter (R327). -/
def State.hiveOpen (s : State) (q : Nat) (p : PartNo) : Bool :=
  decide (q < 20) && s.holds p q && (s.hive q p).rdy

/-- The record, FREE or not, whose GEN and PART a handle's match, if the partition may use it (R313, R327, R429). -/
def State.record? (s : State) (p : PartNo) (h : Word) : Option (Nat × Nat) :=
  let q := fld h 14 5
  let i := fld h 0 14
  let x := s.stream q i
  if fld h 19 13 = 0 ∧ s.hiveOpen q p ∧ x.gen.toNat = fld h 32 32 ∧ x.part = p ∧ !s.recordBad q i then some (q, i) else none

/-- The record that a handle names for a partition: one that is not FREE (R327). -/
def State.named (s : State) (p : PartNo) (h : Word) : Option (Nat × Nat) :=
  (s.record? p h).filter fun e => (s.stream e.1 e.2).state ≠ 0

/-- The state that a request for state x leaves, where R315 allows it: the new STATE and PPEND. -/
def stateChange (cur : BitVec 3) (ppend sup : Bool) (x : Word) : Option (BitVec 3 × Bool) :=
  if x = cur.setWidth 64 then some (cur, ppend)
  else match cur.toNat, x.toNat with
    | 1, 2 => some (2, false)
    | 2, 1 => some (1, false)
    | 1, 4 => some (4, false)
    | 2, 4 => some (4, false)
    | 4, 1 => some (1, false)
    | 4, 2 => some (2, false)
    | 3, 4 => some (3, true)
    | 3, 2 => if sup then some (2, false) else none
    | 1, 5 => some (5, false)
    | 2, 5 => some (5, false)
    | 4, 5 => some (5, false)
    | _, _ => none

/-- HSET: a field's new value; its old value is the answer. A change of state may make the stream a victim (R315, R322, R324). -/
def State.hset (s : State) (q i fn : Nat) (x : Word) (sup : Bool) : HiveAns :=
  let st := s.stream q i
  match fn with
  | 0 =>
    match stateChange st.state st.ppend sup x with
    | some (n, pp) => ((s.modStream q i fun y => { y with state := n, ppend := pp }).runMover q, st.state.setWidth 64, none)
    | none => hiveRefuse s 0x5A
  | 1 => (s.modStream q i fun y => { y with prio := x.setWidth 3 }, st.prio.setWidth 64, none)
  | 2 => (s.modStream q i fun y => { y with deadline := x }, st.deadline, none)
  | 3 => (s.modStream q i fun y => { y with pos := x }, st.pos, none)
  | 8 => (s.modStream q i fun y => { y with mirc := bit x 0 }, ofBool64 st.mirc, none)
  | n => (s.modStream q i fun y => { y with user := y.user.setIfInBounds (n - 4) x }, nth st.user (n - 4) 0, none)

/-- The field that HGET reads (R324). -/
def Stream.field (x : Stream) (fn : Nat) : Word :=
  match fn with
  | 0 => x.word0
  | 1 => x.deadline
  | 2 => x.step
  | 3 => x.pos
  | 8 => x.cells
  | 9 => x.croot.setWidth 64
  | 10 => x.word30
  | n => nth x.user (n - 4) 0

/-- A FREE record of a quarter: which of them an allocation takes, the spec does not say. -/
def State.freeRecord (s : State) (q : Nat) : State × Option Nat :=
  let start := (Config.free s.fresh).toNat % 16384
  ({ s with fresh := s.fresh + 1 },
    ((List.range 16384).map fun i => (start + i) % 16384).find? fun i => (s.stream q i).state = 0)

/-- Creates a stream, or answers 0 where no record is FREE (R315, R324). -/
def State.hnew (s : State) (q : Nat) (p : PartNo) (deadline : Word) (prio : BitVec 3) (ready mirc : Bool)
    (user : Vector Word 4) : State × Option Nat :=
  match s.freeRecord q with
  | (s, none) => (s, none)
  | (s, some i) =>
    (s.modStream q i fun x =>
      { Stream.reset with state := if ready then 2 else 1, prio, mirc, part := p, gen := nextGen x.gen, deadline, user },
      some i)

/-- HFREE: releases every cell and list page and frees the record (R315, R325). -/
def State.hfree (s : State) (q i : Nat) : HiveAns :=
  let st := s.stream q i
  if st.state = 3 then hiveRefuse s 0x5A
  else
    let s := times st.ncell (·.releaseCell q i) (s.leaveQueue q i)
    let s := s.modStream q i fun x => { x with state := 0, gen := nextGen x.gen, demo := false }
    ((s.hiveWalked q).runMover q, BitVec.ofNat 64 st.ncell, none)

/-- HDONE: STEP, POS and the transition of its fn, which may make the stream a victim (R315, R322, R325). -/
def State.hdone (s : State) (q i fn : Nat) (x : Word) : HiveAns :=
  let st := s.stream q i
  if st.state ≠ 3 then hiveRefuse s 0x5A
  else
    let n : BitVec 3 := if fn = 2 then 5 else if st.ppend then 4 else if fn = 0 then 2 else 1
    ((s.modStream q i fun y => { y with state := n, ppend := false, step := y.step + 1, pos := x }).runMover q, st.step + 1, none)

/-! ## A beat (R321, R328, R329) -/

/-- Offers a deferred stream to the promotion queue (R321). -/
def State.offer (s : State) (q i : Nat) : State :=
  let st := s.stream q i
  let h := s.hive q st.part
  if st.prom || decide (64 ≤ h.promq.length) || decide (h.hbmCells.toNat < st.nout + h.high.toNat) then s
  else
    (s.modStream q i fun x => { x with prom := true, demo := false }).modHive q st.part fun h =>
      { h with promq := h.promq ++ [i], resv := h.resv + BitVec.ofNat 21 st.nout }

/-- The READY streams of a partition in the order in which a beat examines them (R328). -/
def State.readyOrder (s : State) (q : Nat) (p : PartNo) : List Nat :=
  let l := (s.streamsOf q p).filter fun i => (s.stream q i).state = 2 && !s.recordBad q i
  sortBy (fun i =>
    let x := s.stream q i
    (x.prio.toNat * 2 ^ 64 + x.deadline.toNat) * 2 ^ 32 + x.lastsel.toNat) l

/-- The examination of one stream: selected, with its entry written, or deferred; nothing once lim are selected
(R328). The numbers are those selected and deferred so far. -/
def State.examine (q : Nat) (lim : Nat) (beat : BitVec 32) (bta : Nat) (user : Bool) (a : State × Nat × Nat) (i : Nat) :
    State × Nat × Nat :=
  let (s, n, d) := a
  if n = lim then a
  else
    let st := s.stream q i
    if st.nout = 0 then
      let s := s.modStream q i fun x => { x with state := 3, lastsel := beat, defer := 0, pfresh := false }
      let bs := [s.handle q i, st.croot.setWidth 64, st.cells, st.pos].flatMap fun w => natBytes 8 w.toNat
      let s := match s.hiveMap q st.part (bta + 64 + 32 * n) kStore user with
        | some a => s.writeHome (whoHive q st.part) a bs
        | none => s
      (s, n + 1, d)
    else
      let s := (s.modStream q i fun x => { x with defer := satInc x.defer }).modHive q st.part fun h =>
        { h with defers := satInc h.defers }
      (s.offer q i, n, d + 1)

/-! ## Mirroring (R333, R334) -/

/-- A mirror point: the image's record writes start (R333). -/
def State.mirrorPoint (s : State) (q : Nat) (p : PartNo) (beat : BitVec 32) : State :=
  let h := s.hive q p
  if h.miren && beat.toNat % 16 == 0 then
    let base := h.miraddr.toNat + q * 0x400000 + (beat.toNat / 16 % 2) * 0x200000
    let epoch := s.epochOf q p
    let (s, lost) := (List.range 16384).foldl (fun (a : State × Bool) i =>
      let x := a.1.stream q i
      let bs := if x.part = p && x.state ≠ 0 then x.bytes else List.replicate 128 0
      let (s, l) := a.1.writeCity (whoHive q p) (.mirror q p.toNat) p epoch (base + i * 0x80) bs
      (s, a.2 || l)) (s, false)
    s.modHive q p fun h => { h with mirroring := some beat, mirBad := lost }
  else s

/-- Copies one cell to the journal, or skips it where the journal is full for its mirror point; answers whether the cell is over:
its data and header are acknowledged before PROD advances (R334). A cell whose journal cannot be read or whose slot is lost is
counted in MIRLOST. -/
def State.journalCell (s : State) (q : Nat) (p : PartNo) (beat : BitVec 32) (i c : Nat) : State × Bool :=
  let h := s.hive q p
  let base := h.journal.toNat
  let w := whoHive q p
  let rd : Reader := .journal q p.toNat
  let epoch := s.epochOf q p
  let lost (s : State) : State := (s.modHive q p fun h => { h with mirlost := satInc h.mirlost }).dropFar rd
  if h.jfull = some beat then (lost s, true)
  else match s.partRead w rd p epoch base 24 with
    | (s, none) => (s, false)
    | (s, some (_, true)) => (lost s, true)
    | (s, some (ctl, false)) =>
      let prod := bytesWord ctl 0
      let n := 2 ^ fld (bytesWord ctl 2) 0 5
      if n ≤ (prod - bytesWord ctl 1).toNat then (lost (s.modHive q p fun h => { h with jfull := some beat }), true)
      else
        let slot := prod.toNat % n
        let va := listVa (s.cellEntry q i c).toNat 0x10000
        let bytes := match s.hiveMap q p va kLoad false with
          | some a => (List.range 0x10000).map fun k => if a < 0x80000000000 then s.dramByte (a + k) else s.byteAt (a + k)
          | none => List.replicate 0x10000 0
        let head := [s.handle q i, BitVec.ofNat 64 c, beat.setWidth 64].flatMap fun (x : Word) => natBytes 8 x.toNat
        let (s, r0) := s.partWrite w rd p epoch (base + 0x800000 + slot * 0x10000) bytes
        let (s, r1) := s.partWrite w rd p epoch (base + 0x10000 + slot * 64) (head ++ List.replicate 40 0)
        match r0, r1 with
        | some l0, some l1 =>
          if l0 || l1 then (lost s, true)
          else ((s.writeCity w .other p epoch base (natBytes 8 (prod + 1).toNat)).1.dropFar rd, true)
        | _, _ => (s, false)

/-- The journal copies the cells that it has still to copy, as far as other devices have answered (R334). -/
def State.journalGo (s : State) (q : Nat) (p : PartNo) : List (BitVec 32 × Nat × Nat) → State
  | [] => s.modHive q p fun h => { h with jcells := [] }
  | (beat, i, c) :: rest =>
    match s.journalCell q p beat i c with
    | (s, true) => s.journalGo q p rest
    | (s, false) => s.modHive q p fun h => { h with jcells := (beat, i, c) :: rest }

/-- The journal of a mirror point: of each stream with MIRC, the cells from the last one at the previous mirror point on
(R334). -/
def State.journal (s : State) (q : Nat) (p : PartNo) (beat : BitVec 32) : State :=
  let l := s.streamsOf q p
  let cells := (l.filter fun i => (s.stream q i).mirc).flatMap fun i =>
    ((List.range (s.stream q i).ncell).filter fun c => decide ((s.stream q i).mcell - 1 ≤ c)).map fun c => (beat, i, c)
  let s := if (s.hive q p).jrnen then s.modHive q p fun h => { h with jcells := h.jcells ++ cells } else s
  l.foldl (fun (s : State) i => s.modStream q i fun x => { x with mcell := x.ncell }) s

/-- Every write of the image is acknowledged: the header names it, MSEQ follows, and the journal is written, as far as other
devices have answered it; a lost write leaves the header as it was (R333, R334). -/
def execMirrorHeaderWrite (q : QuarterNo) (p : PartNo) (s : State) : Ans :=
  let go (s : State) : State := s.journalGo q.val p (s.hive q.val p).jcells
  .next (if s.curfew then s else match (s.hive q.val p).mirroring with
    | some beat =>
      if s.owes (.mirror q.val p.toNat) then go s
      else
        let h := s.hive q.val p
        let w := whoHive q.val p
        let bad := h.mirBad
        let s := s.modHive q.val p fun h => { h with mirroring := none, mirBad := false }
        let s := if bad then
            (s.modHive q.val p fun h => { h with mirlost := satInc h.mirlost }).emit (.toSquare 7 q.val p.toNat)
          else
            let a := h.miraddr.toNat + 0x5000000 + q.val * 64
            let v := beat.toNat + (beat.toNat / 16 % 2) * 0x100000000
            let (s, l0) := s.writeCity w .other p (s.epochOf q.val p) a (natBytes 8 v)
            let (s, l1) := s.writeCity w .other p (s.epochOf q.val p) (a + 8) (natBytes 8 s.time.toNat)
            if l0 || l1 then
              (s.modHive q.val p fun h => { h with mirlost := satInc h.mirlost }).emit (.toSquare 7 q.val p.toNat)
            else s.modHive q.val p fun h => { h with mseq := beat }
        go (s.journal q.val p beat)
    | none => go s)

/-- HBEAT at the slice (R328, R329, R330). -/
def State.hbeat (s : State) (q : Nat) (p : PartNo) (lim bta : Nat) (user : Bool) : HiveAns :=
  match s.hiveMap q p bta kStore user with
  | none => hiveRefuse s 0x5B
  | some a =>
    if !(match regionOf a with | .store k => k / 64 == q | _ => false) then hiveRefuse s 0x5B
    else
      let beat := (s.hive q p).beatno + 1
      let (s, n, d) := (s.readyOrder q p).foldl (State.examine q lim beat bta user) (s, 0, 0)
      let head := [BitVec.ofNat 64 (beat.toNat + n * 0x100000000), BitVec.ofNat 64 d, s.time, 0, 0, 0, 0, 0]
      let s := s.writeHome (whoHive q p) a (head.flatMap fun (w : Word) => natBytes 8 w.toNat)
      let s := (s.modHive q p fun h => { h with beatno := beat }).hiveWalked q
      let s := (s.mirrorPoint q p beat).runMover q
      (s, BitVec.ofNat 64 (n + d % 0x10000 * 0x10000 + beat.toNat * 0x100000000), none)

/-- The bytes of the record that an HADOPT copies, each page of them translated: none where one does not translate, and nothing
while another device has still to answer (R335). -/
def State.adoptRecord (s : State) (id q : Nat) (p : PartNo) (va : Nat) : State × Option (Option (List Byte)) :=
  match s.hiveCity q p va kLoad false, s.hiveCity q p (va + 64) kLoad false with
  | some _, some _ =>
    let (s, a) := s.hiveFetch q p (.adopt id) va 8
    let (s, b) := s.hiveFetch q p (.adopt id) (va + 64) 8
    match a, b with
    | some x, some y => (s.dropFar (.adopt id), some (some (x ++ y)))
    | _, _ => (s, none)
  | _, _ => (s, some none)

/-- HADOPT: installs a copied record as a PAUSED stream (R335). -/
def State.hadopt (s : State) (q : Nat) (p : PartNo) (record : Option (List Byte)) : HiveAns :=
  match record with
  | none => hiveRefuse s 0x5B
  | some bs =>
    let g (k : Nat) : Word := bytesWord bs k
    match s.freeRecord q with
    | (s, none) => (s.hiveWalked q, 0, none)
    | (s, some i) =>
      let s := s.modStream q i fun x =>
        { Stream.reset with
          state := 4, prio := (g 0).extractLsb' 4 3, mirc := bit (g 0) 7, part := p, gen := nextGen x.gen
          deadline := g 1, step := g 2, pos := g 3, user := #v[g 8, g 9, g 10, g 11] }
      (s.hiveWalked q, s.handle q i, none)

/-- HCELL with fn 0, 1 or 2 (R316, R319, R324, R327). -/
def State.hcell (s : State) (q i fn n : Nat) : HiveAns :=
  let st := s.stream q i
  match fn with
  | 0 =>
    if s.canAppend q i n then
      let s := ((times n (·.appendCell q i) s).hiveWalked q).runMover q
      (s, BitVec.ofNat 64 (s.stream q i).ncell, none)
    else (s, 0, none)
  | 1 =>
    if st.ncell ≤ n then hiveRefuse s 0x59
    else
      let (s, v) := s.hiveRead q st.part (s.entryVa q i n) 8
      (s.hiveWalked q, BitVec.ofNat 64 v, none)
  | _ =>
    if st.ncell < n then hiveRefuse s 0x59
    else
      let s := (((times n (·.releaseCell q i) s).checkPromoted q i).checkDemo q i).hiveWalked q
      let s := s.runMover q
      (s, BitVec.ofNat 64 (s.stream q i).ncell, none)

/-- An operation at its slice, from its opcode, operand byte and operands, T first, and the record that an HADOPT has read (R324 to
R327). DEDUCED (log entry 145): HCELL with fn 0 or 2 on a FREE record that its handle matches meets HIVE_STATE, the condition that
names it; every other operation on a FREE record meets HIVE_ACCESS. -/
def State.hiveOp (s : State) (r : Req) (opc opb : Byte) (ops : List Word) (record : Option (List Byte)) : HiveAns :=
  let a := ops.getD 0 0
  let b := ops.getD 1 0
  let p := r.part
  let q := quarterOf r.tile
  match opc.toNat with
  | 0xE8 =>
    let q := fld a 3 5
    if !s.hiveOpen q p then hiveRefuse s 0x59
    else match s.hnew q p b (a.extractLsb' 0 3) (bit a 8) (bit a 9) (Vector.replicate 4 0) with
      | (s, some i) => (s, s.handle q i, none)
      | (s, none) => (s, 0, none)
  | 0xED => if s.hiveOpen q p then s.hbeat q p b.toNat a.toNat r.user else hiveRefuse s 0x59
  | 0xEF => if s.hiveOpen (fld a 0 5) p then s.hadopt (fld a 0 5) p record else hiveRefuse s 0x59
  | n =>
    match s.record? p a with
    | none => hiveRefuse s 0x59
    | some (q, i) =>
      if (s.stream q i).state = 0 then hiveRefuse s (if n = 0xEB ∧ fld opb 0 2 ≠ 1 then 0x5A else 0x59)
      else match n with
      | 0xE9 => s.hset q i (fld opb 0 4) b (!r.user)
      | 0xEA => (s, (s.stream q i).field (fld opb 0 4), none)
      | 0xEB => s.hcell q i (fld opb 0 2) b.toNat
      | 0xEC => s.hdone q i (fld opb 0 2) b
      | _ => s.hfree q i

/-- The quarter whose slice an operation goes to. -/
def hiveQuarter (t : Nat) (opc : Byte) (ops : List Word) : Nat :=
  match opc.toNat with
  | 0xE8 => fld (ops.getD 0 0) 3 5
  | 0xED => quarterOf t
  | 0xEF => fld (ops.getD 0 0) 0 5
  | _ => fld (ops.getD 0 0) 14 5

/-- A request reaches its slice: an outdated epoch's is discarded, and its result is 0; else the operation is applied
and its result is on its way (R311, R313, R327). An HADOPT whose record lies on another device waits for it (R335). -/
def State.applyHive (s : State) (r : Req) : State :=
  match r.kind with
  | .hive opc opb ops ord pc _ =>
    let q := hiveQuarter r.tile opc ops
    let old := epochOld r.epoch (Tab.read 0 r.part.toNat (s.quarter q).pepoch)
    let done (a : HiveAns) : State :=
      { a.1 with reqs := a.1.reqs.map fun (x : Req) =>
        if x.id = r.id then { x with kind := .hive opc opb ops ord pc a.2.2, st := .done (a.2.1.setWidth 512) false } else x }
    if old then done (s, 0, none)
    else if opc = 0xEF ∧ s.hiveOpen q r.part then
      match s.adoptRecord r.id q r.part (ops.getD 1 0).toNat with
      | (s, some record) => done (s.hiveOp r opc opb ops record)
      | (s, none) => s
    else done (s.hiveOp r opc opb ops none)
  | _ => s

/-- Whether a Hive request may reach its slice now: its ordering holds, and no spot test of the quarter's Hive table runs (R231,
R235, R432). -/
def State.mayHiveOp (s : State) (r : Req) : Bool :=
  !(s.sq.spots.any fun x => x.running && x.unit == ⟨11, (devAddr r.addr - 0xF0000000000) / 0x100000000⟩) &&
  s.fenMet r.tile r.fenE && (!r.kind.writes || s.relMet r.tile r.relE)

/-! ## The instructions -/

/-- Issues a Hive instruction: the operand check, a load slot, and the request to its slice (R324 to R326). -/
def hiveIssue (t : TileNo) (opc opb : Byte) (legal sup : Bool) (pops : Nat) (form : List Word → Option Word) (s : State) :
    State :=
  s.issue t { opc, opb, legal, sup, din := pops } fun s =>
    let ops := (List.range pops).map fun i => s.arg t i
    if (s.tile t).gmem.slots.length ≥ 8 then .trap s 0x08 (s.tile t).slotCount 0
    else match form ops with
      | some v => .trap s 0x58 v 0
      | none =>
        let c := (s.tile t).core
        let sl := newSlot s.nextId (s.arg t 0) 3 true c.pc
        let s := { s with nextId := s.nextId + 1 }.addSlot t sl
        let a := s.cityOf (0xF0051000000 + hiveQuarter t opc ops * 0x100000000)
        let r := s.mkReq t (.hive opc opb ops c.issued c.pc none) a (some sl.id) false false .held
        let s := s.addReq t (.hive opc opb ops c.issued c.pc none) a (some sl.id) false .held
        let s := if s.mayHiveOp r then s.applyHive r else s
        .ok (s.push t pops [] 0) .seq

/-- HNEW ( deadline ctl -- ): creates a stream (R324). -/
def execHnew (t : TileNo) (b : Byte) (s : State) : Ans :=
  .next (hiveIssue t 0xE8 b (opNone b) false 2 (fun o =>
    let c := o.getD 0 0
    if fld c 10 54 ≠ 0 ∨ 19 < fld c 3 5 then some c else none) s)

/-- HSET ( x h -- ): sets a field (R324). -/
def execHset (t : TileNo) (b : Byte) (s : State) : Ans :=
  .next (hiveIssue t 0xE9 b (opRange 0 8 b) false 2 (fun _ => none) s)

/-- HGET ( h -- ): reads a field (R324). -/
def execHget (t : TileNo) (b : Byte) (s : State) : Ans :=
  .next (hiveIssue t 0xEA b (opRange 0 10 b) false 1 (fun _ => none) s)

/-- The operand byte of HCELL with function code fn. -/
def hcellByte (fn : Nat) (b : BitVec 6) : Byte := BitVec.ofNat 8 (fn + 4 * b.toNat)

/-- HIVE_FORM of HCELL with fn 0 or 2: n lies from 1 to 1,024 (R324, R326). -/
def cellCount (o : List Word) : Option Word :=
  let n := o.getD 1 0
  if n.toNat < 1 ∨ 1024 < n.toNat then some n else none

/-- HCELL fn 0 ( n h -- ): appends n cells (R324). -/
def execHcellAppend (t : TileNo) (b : BitVec 6) (s : State) : Ans :=
  .next (hiveIssue t 0xEB (hcellByte 0 b) (b == 0) false 2 cellCount s)

/-- HCELL fn 1 ( n h -- ): reads cell entry n (R324). -/
def execHcellEntry (t : TileNo) (b : BitVec 6) (s : State) : Ans :=
  .next (hiveIssue t 0xEB (hcellByte 1 b) (b == 0) false 2 (fun _ => none) s)

/-- HCELL fn 2 ( n h -- ): releases the last n cells (R324). -/
def execHcellRelease (t : TileNo) (b : BitVec 6) (s : State) : Ans :=
  .next (hiveIssue t 0xEB (hcellByte 2 b) (b == 0) false 2 cellCount s)

/-- HDONE ( x h -- ): ends a step (R324, R325). -/
def execHdone (t : TileNo) (b : Byte) (s : State) : Ans :=
  .next (hiveIssue t 0xEC b (opRange 0 2 b) false 2 (fun _ => none) s)

/-- HBEAT ( lim bta -- ): forms the next beat (R324, R328). -/
def execHbeat (t : TileNo) (b : Byte) (s : State) : Ans :=
  .next (hiveIssue t 0xED b (opNone b) false 2 (fun o =>
    let lim := o.getD 1 0
    let bta := o.getD 0 0
    if lim.toNat < 1 ∨ 4096 < lim.toNat then some lim else if bta.toNat % 64 ≠ 0 then some bta else none) s)

/-- HFREE ( h -- ): frees a stream (R324, R325). -/
def execHfree (t : TileNo) (b : Byte) (s : State) : Ans :=
  .next (hiveIssue t 0xEE b (opNone b) false 1 (fun _ => none) s)

/-- HADOPT ( va ctl -- ): adopts a stream from its mirror (R324, R335). -/
def execHadopt (t : TileNo) (b : Byte) (s : State) : Ans :=
  .next (hiveIssue t 0xEF b (opNone b) true 2 (fun o =>
    let c := o.getD 0 0
    let va := o.getD 1 0
    if fld c 5 59 ≠ 0 then some c else if va.toNat % 64 ≠ 0 then some va
    else if 19 < fld c 0 5 then some c else none) s)

end Sys2Proof.Machine
end

