-- ==== Sys2Proof/Machine/HostLink.lean ====
section
/-! DEFINITION. The host die's link: CXL.mem and CXL.io accesses, partition windows, MSI-X and the mailbox (R364 to
R378). -/

namespace Sys2Proof.Machine

/-! ## Partitions and their windows -/

/-- The lowest-numbered quarter of a partition (R372, R420). -/
def State.lowQuarter (s : State) (p : Nat) : Nat :=
  match (s.parts.find? fun e => e.1 = p) with
  | some e => ((List.range 20).find? fun q => bit e.2.desc.qmask q).getD 0
  | none => 0

/-- The host as an agent in a partition's windows: its class and the VF number (R406). -/
def whoWindow (p : Nat) : Who :=
  { src := 4, num := BitVec.ofNat 16 (p + 1), part := some (BitVec.ofNat 6 p), user := true }

/-- The host as an agent in its own region. -/
def whoHost : Who := { src := 4, num := 0, part := none, user := false }

/-- A host access that is answered under R195: counted, and recorded in the Square's log and in that of the partition
named, if any (R374, R405). -/
def State.hostViolation (s : State) (p : Option Nat) (dpa : Nat) (write : Bool) (reason : Byte) : State :=
  let num : BitVec 16 := match p with
    | some p => BitVec.ofNat 16 (p + 1)
    | none => 0
  let e : VioEntry := { time := s.time, addr := BitVec.ofNat 56 dpa, src := 4, write, srcid := num, reason }
  let s := { s with
    host := { s.host with hostviol := satInc s.host.hostviol }
    sq := { s.sq with dlog := s.sq.dlog.addDevice e } }
  match p with
  | some p => s.modHreg p fun h =>
    { h with
      hviol := satInc h.hviol, hvaddr := BitVec.ofNat 64 (dpa % 2 ^ 43 + if write then 2 ^ 63 else 0)
      vlog := h.vlog.addPart p e }
  | none => s

/-- Where a DPA leads (R370): into the host region, into an open window at an offset, or nowhere, with the partition
that the log names. -/
inductive HostDest where
  | region (a : Nat)
  | window (p : Nat) (w : Word) (va : Nat)
  | nothing (p : Option Nat)
  deriving DecidableEq, Repr

/-- The map of R370 and the bounds of R372 and R374; the windows of a partition under reset are closed (R378, R427). -/
def State.hostDest (s : State) (dpa : Nat) : HostDest :=
  if dpa < s.hostSize then .region (s.hostBase + dpa)
  else if dpa < 0x10000000000 ∨ 0x50000000000 ≤ dpa then .nothing none
  else
    let n := (dpa - 0x10000000000) / 0x400000000
    let o := dpa % 0x400000000
    let w := nth (s.hreg (n / 4)).hwin (n % 4) (0, 0)
    if !s.curfew && !(s.parts.any fun e => e.1 == n / 4 && e.2.ending.isSome) && bit w.1 0 && decide (o < (fld w.1 8 13 + 1) * 0x200000) then .window (n / 4) w.1 (w.2.toNat + o)
    else .nothing (some (n / 4))

/-- Translates a window's va through the partition's tables with user permissions, by the host link's TLB or a walk of
its lowest-numbered quarter (R372). -/
def State.hostLook (s : State) (p va : Nat) (k : Kind) : State × Option Nat :=
  let part : PartNo := BitVec.ofNat 6 p
  let give (s : State) (e : TlbEntry) : State × Option Nat :=
    if (protFault e k true).isSome then (s, none) else (s, some (e.addr va))
  match s.host.tlb.find? fun e => e.covers part va with
  | some e => give s e
  | none =>
    let q := s.lowQuarter p
    let r := s.walk q part (BitVec.ofNat 64 va)
    let s := s.walked q r (whoWindow p).agent
    match r.leaf with
    | some e => give { s with host := { s.host with tlb := (e :: s.host.tlb).take 256 } } e
    | none => (s, none)

/-- Whether an access is answered under R195, by the reason (R374). -/
def State.hostDenied (s : State) (w : Who) (a : Nat) : Option Byte :=
  match s.access w a with
  | .deny r => some r
  | _ => none

/-! ## CXL.mem (R370 to R375) -/

/-- A CXL.mem read of 64 B: the data with its poison, or zeros (R370, R374, R375); a window onto another device asks
there. -/
def State.hostRead (s : State) (dpa : Nat) : State :=
  let zeros (s : State) : State := s.emit (.hostData dpa 0 false)
  match s.hostDest dpa with
  | .nothing p => zeros (s.hostViolation p dpa false 7)
  | .region a =>
    let (s, bs, bad) := s.readHome whoHost a 64
    s.emit (.hostData dpa (lineOf bs) bad)
  | .window p _ va =>
    match s.hostLook p va kLoad with
    | (s, none) => zeros (s.hostViolation (some p) dpa false 7)
    | (s, some city) =>
      if s.isLocal city && !s.enters (devAddr city) then s
      else if s.isLocal city then
        match s.hostDenied (whoWindow p) (devAddr city) with
        | some r => zeros (s.hostViolation (some p) dpa false r)
        | none =>
          let (s, bs, bad) := s.readHome (whoWindow p) (devAddr city) 64
          s.emit (.hostData dpa (lineOf bs) bad)
      else if s.routable city then
        ({ s with nextId := s.nextId + 1 } : State).ask
          { owner := .host s.nextId dpa false, op := 0x01, part := BitVec.ofNat 6 p
            epoch := s.epochOf (s.lowQuarter p) (BitVec.ofNat 6 p), city, oparg := 64, data := [] }
      else s.emit (.hostData dpa 0 true)

/-- The aligned words of a line by their byte enables: offset, whether every enable of the word is set. -/
def enabledWords (be : BitVec 64) : List (Nat × Bool) :=
  ((List.range 8).filter fun i => fld be (8 * i) 8 ≠ 0).map fun i => (8 * i, fld be (8 * i) 8 = 255)

/-- The writes of an ADD window: each whole word is an MCNT at its home, in ascending order, and a partial word is
dropped and counted (R373, R374). Those of another device belong to write `id`, which they let wait. -/
def State.hostAdds (s : State) (id p dpa city : Nat) (be : BitVec 64) (data : Line) : State :=
  let part : PartNo := BitVec.ofNat 6 p
  (enabledWords be).foldl (fun (s : State) w =>
    if !w.2 then s.hostViolation (some p) dpa true 7
    else
      let x := lineWord data (w.1 / 8)
      if s.isLocal city then
        match s.hostDenied (whoWindow p) (devAddr city) with
        | some r => s.hostViolation (some p) dpa true r
        | none => s.countWord (whoWindow p) (devAddr city + w.1) x
      else s.countCity (whoWindow p) (.host id dpa true) part (s.epochOf (s.lowQuarter p) part) (city + w.1) x) s

/-- A CXL.mem write of 64 B with byte enables; it completes whatever comes of it, once it is performed (R240, R370 to
R375). -/
def State.hostWrite (s : State) (dpa : Nat) (be : BitVec 64) (data : Line) : State :=
  let done (s : State) : State := s.emit .hostDone
  match s.hostDest dpa with
  | .nothing p => done (s.hostViolation p dpa true 7)
  | .region a => done (s.writeMasked whoHost a be data)
  | .window p w va =>
    if !bit w 1 then done (s.hostViolation (some p) dpa true 7)
    else match s.hostLook p va kStore with
    | (s, none) => done (s.hostViolation (some p) dpa true 7)
    | (s, some city) =>
      let id := s.nextId
      let ends (s : State) : State := if s.owes (.host id dpa true) then s else done s
      if s.isLocal city && !s.enters (devAddr city) then s
      else if bit w 2 then ends (({ s with nextId := id + 1 } : State).hostAdds id p dpa city be data)
      else if s.isLocal city then
        match s.hostDenied (whoWindow p) (devAddr city) with
        | some r => done (s.hostViolation (some p) dpa true r)
        | none => done (s.writeMasked (whoWindow p) (devAddr city) be data)
      else
        let part : PartNo := BitVec.ofNat 6 p
        ends <| (maskRuns be data).foldl (fun (s : State) r =>
          (s.writeCity (whoWindow p) (.host id dpa true) part (s.epochOf (s.lowQuarter p) part) (city + r.1) r.2).1)
          { s with nextId := id + 1 }

/-- A CXL.mem read reaches the device (R370). -/
def execCxlMemRead (dpa : BitVec 43) (s : State) : Ans :=
  .next (if s.host.up then s.hostRead (dpa.toNat / 64 * 64) else s)

/-- A CXL.mem write reaches the device (R370). -/
def execCxlMemWrite (dpa : BitVec 43) (be : BitVec 64) (data : Line) (s : State) : Ans :=
  .next (if s.host.up then s.hostWrite (dpa.toNat / 64 * 64) be data else s)

/-! ## MSI-X (R376) -/

/-- Whether a partition's VF sends messages now (R368, R371, R376). -/
def State.mayMsix (s : State) (p : Nat) : Bool := (s.hreg p).msixen && bit s.host.exposed p

/-- A performed HMSI write: the message of the vector, its pending bit where the host masks it, or an absorbed write
(R376). -/
def State.sendVector (s : State) (p v : Nat) : State :=
  if !s.mayMsix p then s.modHreg p fun h => { h with hmsidrop := satInc h.hmsidrop }
  else if bit (s.hreg p).mask v then s.modHreg p fun h => { h with pend := setBit h.pend v true }
  else s.emit (.msix (p + 1) v)

/-- Sends the one message of a pending vector that nothing masks any more (R376). -/
def State.sendPending (s : State) (p v : Nat) : State :=
  let h := s.hreg p
  if s.mayMsix p && bit h.pend v && !bit h.mask v then
    (s.modHreg p fun h => { h with pend := setBit h.pend v false }).emit (.msix (p + 1) v)
  else s

/-- A vector's mask bit changes (R376). -/
def State.maskVector (s : State) (p v : Nat) (m : Bool) : State :=
  (s.modHreg p fun h => { h with mask := setBit h.mask v m }).sendPending p v

/-- Device address of a partition's host register block in a quarter (R371). -/
def hregAddr (q p : Nat) : Nat := 0xF0000000000 + q * 0x100000000 + 0x52000000 + p * 0x100

/-- Whether the ordering before a writer's next write holds: a tile's RELs and FENCEGs (R231, R235). -/
def State.writerFree (s : State) (w : Writer) : Bool :=
  match w with
  | .tile t => s.relMet t (s.tile t).gmem.relE && s.fenMet t (s.tile t).gmem.fenE
  | _ => true

/-- A write of HMSI is performed, once the ordering before it holds (R231, R371, R376). -/
def execHmsi (w : Writer) (q : QuarterNo) (p : PartNo) (v : Word) (s : State) : Ans :=
  .next (if !s.writerFree w then s
    else if s.mayHive w q.val p then s.sendVector p.toNat (fld v 0 6) else s.deniedCtl w (hregAddr q.val p.toNat + 0x48) true)

/-- The host unmasks a vector (R376). -/
def execVectorUnmask (p : PartNo) (vec : BitVec 6) (s : State) : Ans := .next (s.maskVector p.toNat vec.toNat false)

/-- The host enables a function or its MSI-X; pending vectors that nothing masks any more are sent (R371, R376). -/
def execConfigurationSpaceWrite (fn : Fin 65) (vfen msixen : Bool) (s : State) : Ans :=
  .next (if fn.val = 0 then s
    else
      let p := fn.val - 1
      let s := s.modHreg p fun h => { h with vfen, msixen }
      (List.range 64).foldl (fun (s : State) v => s.sendPending p v) s)

/-! ## CXL.io (R368, R369, R374) -/

/-- A location of a BAR (R369). -/
inductive BarLoc where
  | hrsize | vfmask | hostviol
  | vfinfo
  | vfwin (k : Nat)
  | msix (vec : Nat) (hi : Bool)
  | pba
  | standard
  | undefined
  deriving DecidableEq, Repr

/-- What lies at an offset of a function's BAR0 (R369). -/
def barLoc (fn off : Nat) : BarLoc :=
  let o := off / 8 * 8
  if fn = 0 then
    if o < 0x18000 then .standard
    else if o < 0x18100 then .standard
    else if o = 0x19000 then .standard
    else if o = 0x1C000 then .hrsize
    else if o = 0x1C008 then .vfmask
    else if o = 0x1C010 then .hostviol
    else .undefined
  else if o = 0 then .vfinfo
  else if 0x10 ≤ o ∧ o < 0x30 then .vfwin ((o - 0x10) / 8)
  else if 0x1000 ≤ o ∧ o < 0x1400 then .msix ((o - 0x1000) / 16) (o % 16 = 8)
  else if o = 0x2000 then .pba
  else .undefined

/-- The key of a register of CXL or PCIe. -/
def cxlKey (fn off : Nat) : Nat := fn * 0x20000 + off / 8 * 8

/-- Whether a function answers at its BARs: function 0, and the VF of an exposed partition (R368). -/
def State.barOpen (s : State) (fn : Nat) : Bool := fn == 0 || bit s.host.exposed (fn - 1)

/-- An access to a BAR location that this function does not show; its DPA the spec does not give (R374). -/
def State.barViolation (s : State) (fn : Nat) (write : Bool) : State :=
  let dpa := (Config.free s.fresh).toNat % 2 ^ 43
  { s with fresh := s.fresh + 1 }.hostViolation (if fn = 0 then none else some (fn - 1)) dpa write 7

/-- A CXL.io read of 8 bytes of a BAR (R369, R374). -/
def State.barRead (s : State) (fn off : Nat) : State :=
  if !s.barOpen fn then (s.barViolation fn false).emit (.hostWord 0)
  else
    let p := fn - 1
    let raw : Word := Tab.read 0 (cxlKey fn off) s.host.cxl
    match barLoc fn off with
    | .hrsize => s.emit (.hostWord (BitVec.ofNat 64 (s.hostSize / gib)))
    | .vfmask => s.emit (.hostWord s.host.exposed)
    | .hostviol => s.emit (.hostWord s.host.hostviol)
    | .vfinfo => s.emit (.hostWord (BitVec.ofNat 64 p))
    | .vfwin k => s.emit (.hostWord (BitVec.ofNat 64 (fld (nth (s.hreg p).hwin k (0, 0)).1 0 21)))
    | .msix v hi => s.emit (.hostWord (if hi then setBit raw 32 (bit (s.hreg p).mask v) else raw))
    | .pba => s.emit (.hostWord (s.hreg p).pend)
    | .standard => s.emit (.hostWord (Config.cxlRegister fn (off / 8 * 8) raw s.host.media))
    | .undefined => (s.barViolation fn false).emit (.hostWord 0)

/-- A CXL.io write of 8 bytes of a BAR; a write of any value clears HOSTVIOL (R4, R369, R374). -/
def State.barWrite (s : State) (fn off : Nat) (v : Word) : State :=
  if !s.barOpen fn then s.barViolation fn true
  else
    let keep (s : State) : State := { s with host := { s.host with cxl := Tab.write (cxlKey fn off) v s.host.cxl } }
    match barLoc fn off with
    | .msix n hi => if hi then (keep s).maskVector (fn - 1) n (bit v 32) else keep s
    | .hostviol => { s with host := { s.host with hostviol := 0 } }
    | .standard => keep s
    | .undefined => s.barViolation fn true
    | _ => s

/-- A CXL.io memory read reaches the device (R374). -/
def execCxlIoRead (fn : Fin 65) (off : BitVec 17) (s : State) : Ans :=
  .next (if s.host.up then s.barRead fn.val off.toNat else s)

/-- A CXL.io write reaches the device (R374). -/
def execCxlIoWrite (fn : Fin 65) (off : BitVec 17) (v : Word) (s : State) : Ans :=
  .next (if s.host.up then s.barWrite fn.val off.toNat v else s)

/-! ## The primary mailbox (R367) -/

/-- Answers a supported mailbox command; its payload is CXL 3.1's, of which the spec gives no value. -/
def State.mailbox (s : State) (cmd : Nat) : State :=
  if s.host.up then { s with fresh := s.fresh + 1 }.emit (.mailbox cmd true [Config.free s.fresh]) else s

/-- Identify Memory Device (R367). -/
def execIdentifyMemoryDevice (s : State) : Ans := .next (s.mailbox 0)

/-- Get Supported Logs (R367). -/
def execGetSupportedLogs (s : State) : Ans := .next (s.mailbox 1)

/-- Get Log (R367). -/
def execGetLog (s : State) : Ans := .next (s.mailbox 2)

/-- Get Health Info (R367). -/
def execGetHealthInfo (s : State) : Ans := .next (s.mailbox 3)

/-- Get Event Records (R367). -/
def execGetEventRecords (s : State) : Ans := .next (s.mailbox 4)

/-- Clear Event Records (R367). -/
def execClearEventRecords (s : State) : Ans := .next (if s.host.up then s.emit (.mailbox 5 true []) else s)

/-- Every other mailbox command returns Unsupported (R367). -/
def execUnsupportedMailbox (opcode : BitVec 16) (s : State) : Ans :=
  .next (if s.host.up then s.emit (.mailbox 6 false [opcode.setWidth 64]) else s)

/-! ## The UCIe modules (R366) -/

/-- The modules in the link (R366, R414): all four, modules 0 and 3 where both are good, else two of the good ones,
which the spec does not choose. -/
def linkModules (usable : BitVec 4) (choice : Word) : BitVec 4 :=
  let good := (List.range 4).filter fun m => bit usable m
  if good.length = 4 then 15
  else if good.length < 2 then 0
  else if bit usable 0 && bit usable 3 then 9
  else if good.length = 2 then usable
  else
    let out := good.getD (choice.toNat % 3) 0
    setBit usable out false

/-- The link runs on the modules that the floor plan keeps and that have not failed, or stays down (R366, R378). -/
def State.setUcie (s : State) : State :=
  let m := linkModules (~~~(s.sq.fp.ucie ||| s.sq.ucieBad)) (Config.free s.fresh)
  { s with fresh := s.fresh + 1, sq := { s.sq with ucie := m }
           host := { s.host with up := s.host.up && m != 0, media := s.host.media && m != 0 } }

/-- A UCIe module fails and leaves the link (R366). -/
def execUcieModuleFail (m : Fin 4) (s : State) : Ans :=
  .next (if bit s.sq.ucieBad m.val then s
    else { s with sq := { s.sq with ucieBad := setBit s.sq.ucieBad m.val true } }.setUcie)

end Sys2Proof.Machine
end

