-- ==== Sys2Proof/Machine/Spdm.lean ====
section
/-! DEFINITION. SPDM, attestation and the exchange of partition keys (R379 to R395). The bytes of certificates, digests,
measurements and signatures are opaque; each response carries a word that stands for them. -/

namespace Sys2Proof.Machine

/-- Answers an SPDM request over the DOE mailbox of function 0 (R391). -/
def State.spdm (s : State) (r : SpdmReply) (words : List Word) : State :=
  if s.host.up then s.emit (.spdm r words) else s

/-- The answer VD_ERROR with a code (R393). -/
def State.vdError (s : State) (code : Nat) : State := s.spdm (.vendor 0x7F) [BitVec.ofNat 64 code]

/-- What a cryptographic object says, by its kind and what it covers. -/
def crypto (kind a b : Nat) : Word := Config.crypto kind a b

/-- The Square whose DeviceID certifies the chains: 0 for E0, 1 for E1 (R389). -/
def Square.which (x : Square) : Nat := if x.active = some true then 1 else 0

/-- GET_VERSION (R391). -/
def execGetVersion (s : State) : Ans := .next (s.spdm .version [0x13])

/-- GET_CAPABILITIES (R391). -/
def execGetCapabilities (s : State) : Ans := .next (s.spdm .capabilities [crypto 0 0 0])

/-- NEGOTIATE_ALGORITHMS (R391). -/
def execNegotiateAlgorithms (s : State) : Ans := .next (s.spdm .algorithms [crypto 1 0 0])

/-- Whether E1 has taken over from E0, which stays in reset (R443). -/
def Square.took (x : Square) : Bool := x.active == some true && x.uds0

/-- Whether a certificate slot holds a chain: slot 0 the active Square's, slot 1 the standby's; after a takeover E1 answers
from slot 1 (R391, R443). -/
def State.slotHeld (s : State) (slot : Nat) : Bool :=
  (slot == 0 && !s.sq.took) || (slot == 1 && (s.sq.standby || s.sq.took))

/-- The chain to alias-2 of a slot's Square (R391). -/
def State.chain (s : State) (slot : Nat) : Word :=
  crypto 2 s.sq.uid.toNat (if slot = 0 ∨ s.sq.took then s.sq.which else 1 - s.sq.which)

/-- GET_DIGESTS: one digest for each slot that holds a chain (R391). -/
def execGetDigests (s : State) : Ans :=
  .next (s.spdm .digests (((List.range 2).filter s.slotHeld).map fun k => crypto 3 (s.chain k).toNat 0))

/-- GET_CERTIFICATE (R391). -/
def execGetCertificate (slot : BitVec 8) (s : State) : Ans :=
  .next (if s.slotHeld slot.toNat then s.spdm .certificate [s.chain slot.toNat] else s.spdm .error [])

/-- A signed response: its own Ed25519 signature, and in PQMODE 0 the ML-DSA-65 signature in OpaqueData (R392). -/
def State.signed (s : State) (r : SpdmReply) (body : Word) : State :=
  if s.host.up then
    let sig := crypto 4 body.toNat s.sq.which
    let pq := crypto 5 body.toNat s.sq.which
    { s with sec := { s.sec with signed := some body } }.spdm r ([body, sig] ++ if s.sec.pqmode = 0 then [pq] else [])
  else s

/-- CHALLENGE (R392). -/
def execChallenge (slot : BitVec 8) (nonce : List Byte) (s : State) : Ans :=
  .next (if s.slotHeld slot.toNat then s.signed .challengeAuth (crypto 6 (leNat nonce) slot.toNat) else s.spdm .error [])

/-- dbgstat: 2 while locked since boot, 0 after an unlock (R389). -/
def State.dbgstat (s : State) : Nat := if s.sec.unlocked then 0 else 2

/-- What a measurement block covers (R391): the floor plan record's block changes with its GEN, the last block shows
dbgstat, and block 0x10 + p exists while partition p does. -/
def State.measurement (s : State) (block : Nat) : Option Word :=
  if block = 5 then some (crypto 7 5 s.sq.fp.gen.toNat)
  else if block = 7 then some (BitVec.ofNat 64 s.dbgstat)
  else if 1 ≤ block ∧ block ≤ 6 then some (crypto 7 block 0)
  else if 0x10 ≤ block ∧ block < 0x50 ∧ Tab.has (block - 0x10) s.parts then some (crypto 7 block 0)
  else none

/-- GET_MEASUREMENTS of one block (R391, R392). -/
def execGetMeasurements (block : BitVec 8) (nonce : List Byte) (s : State) : Ans :=
  .next (match s.measurement block.toNat with
    | some m => s.signed .measurements (crypto 8 m.toNat (leNat nonce))
    | none => s.spdm .error [])

/-- PQMODE sets where the ML-DSA-65 signature travels (R392, R393). -/
def execPqmode (mode : BitVec 8) (s : State) : Ans :=
  .next (if !s.host.up then s
    else if 1 < mode.toNat then s.vdError 7
    else { s with sec := { s.sec with pqmode := mode } })

/-- GET_PQSIG returns the ML-DSA-65 signature of the last signed response (R392, R393). -/
def execGetPqsig (s : State) : Ans :=
  .next (match s.sec.signed with
    | some body => s.spdm (.vendor 0x02) [crypto 5 body.toNat s.sq.which]
    | none => s.spdm .error [])

/-! ## The exchange of partition keys (R394, R395) -/

/-- Changes the record of a partition that exists. -/
def State.modPart (s : State) (p : Nat) (f : Partition → Partition) : State :=
  { s with parts := s.parts.map fun e => if e.1 = p then (e.1, f e.2) else e }

/-- KX_INIT: the refusals of R394 and R395, or an exchange with KX_RESP (R409: every KX_INIT after an unlock receives
DEBUG). -/
def execKxInit (m : KxInit) (s : State) : Ans :=
  .next (if !s.host.up then s
    else if s.sec.unlocked then s.vdError 4
    else match s.parts.find? fun e => e.1 = m.part.toNat with
      | none => s.vdError 3
      | some e =>
        if e.2.keying = .keyed then s.vdError 2
        else if e.2.keying = .exchanging then s.vdError 1
        else if !m.formOk then s.vdError 7
        else (s.modPart e.1 fun x => { x with keying := .exchanging }).spdm (.vendor 0x11) [crypto 9 e.1 s.sq.which])

/-- The address ranges of a partition's HBM4 and DDR5 grants (R396, R419). -/
def State.grantRanges (s : State) (p : Nat) : List (Nat × Nat) :=
  let of (q : Nat) : List (Nat × Nat) :=
    match ((s.quarter q).grants.find? fun g => g.1 = p) with
    | none => []
    | some (_, g) =>
      let h := q * 0x1000000000 + g.hbBase.toNat * gib
      let d := 0x20000000000 + g.ddBase.toNat * gib
      (if g.hbSize = 0 then [] else [(h, h + g.hbSize.toNat * gib)])
        ++ (if g.ddSize = 0 then [] else [(d, d + g.ddSize.toNat * gib)])
  ((List.range 20).flatMap of).eraseDups

/-- The key of a partition's memory changes: its lines stand under a key they were not written with (R396, R399). -/
def State.rekeyGrants (s : State) (p : Nat) : State :=
  (s.grantRanges p).foldl (fun (s : State) r => s.rekey r.1 r.2) s

/-- A partition's keys go into every key table (R394, R396). -/
def State.installKeys (s : State) (p : Nat) : State :=
  (s.rekeyGrants p).modPart p fun x => { x with keying := .keyed, inTables := true }

end Sys2Proof.Machine
end

