-- ==== Sys2Proof/Machine/StagMath.lean ====
section
/-! DEFINITION. The arithmetic of the stags: the command record, the cells and their K rows, and the output conversion
(R99 to R111, R148 to R164). -/

namespace Sys2Proof.Machine

/-! ## The record (R148 to R153) -/

/-- The first 56 bytes of a command record, as words. -/
abbrev Rec := Vector Word 7

/-- A field of a record. -/
def recFld (r : Rec) (word lo len : Nat) : Nat := fld (nth r word 0) lo len

/-- AFMT. -/
def recA (r : Rec) : Nat := recFld r 0 0 4

/-- BFMT. -/
def recB (r : Rec) : Nat := recFld r 0 4 4

/-- ACC16. -/
def recAcc16 (r : Rec) : Bool := recFld r 0 8 1 = 1

/-- S0. -/
def recS0 (r : Rec) : Nat := recFld r 0 9 3

/-- OFMT. -/
def recO (r : Rec) : Nat := recFld r 0 12 3

/-- NOSAT. -/
def recNosat (r : Rec) : Bool := recFld r 0 15 1 = 1

/-- DKIND. -/
def recD (r : Rec) : Nat := recFld r 0 16 2

/-- M. -/
def recM (r : Rec) : Nat := recFld r 1 0 16

/-- N. -/
def recN (r : Rec) : Nat := recFld r 1 16 16

/-- K. -/
def recK (r : Rec) : Nat := recFld r 1 32 16

/-- Bits of an element of a format (R150). -/
def stagBits (c : Nat) : Nat :=
  match c with
  | 2 => 4 | 3 => 4 | 0xB => 4 | 6 => 16 | 7 => 16 | _ => 8

/-- Whether a format carries block scales (R150). -/
def stagScaled (c : Nat) : Bool := 8 ≤ c

/-- The accumulation path of a pair of formats (R150). -/
inductive Path where
  | integer | window | tree
  deriving DecidableEq, Repr

/-- The path of a record's pair, none for a pair that R150 does not list. -/
def recPath (r : Rec) : Option Path :=
  let a := recA r
  let b := recB r
  let int (c : Nat) : Bool := c < 4
  let win (c : Nat) : Bool := c = 4 || c = 5 || (8 ≤ c && c ≤ 0xB)
  if int a && int b then some .integer
  else if (int a || win a) && (int b || win b) then some .window
  else if a = b ∧ (a = 6 ∨ a = 7) then some .tree
  else none

/-- Bytes of an output element (R151). -/
def outBytes (o : Nat) : Nat :=
  match o with
  | 0 => 4 | 1 => 2 | 4 => 4 | _ => 1

/-- Whether a local address has a reserved bit set (R149). -/
def localReserved (a : Nat) : Bool := if a / 2 ^ 31 = 1 then a / 2 ^ 22 % 512 ≠ 0 else a / 2 ^ 25 % 64 ≠ 0

/-- The memory that a local address names: 0 the block store, 1 + t tile t's memory (R149). -/
def localMem (a : Nat) : Nat := if a / 2 ^ 31 = 1 then 1 + a / 2 ^ 18 % 16 else 0

/-- The offset that a local address names (R149). -/
def localOffset (a : Nat) : Nat := if a / 2 ^ 31 = 1 then a % 2 ^ 18 else a % 2 ^ 25

/-- The local addresses that a command uses (R149). -/
def recAddrs (r : Rec) : List Nat :=
  [recFld r 2 0 32, recFld r 3 0 32]
    ++ (if stagScaled (recA r) then [recFld r 4 0 32] else [])
    ++ (if stagScaled (recB r) then [recFld r 4 32 32] else [])
    ++ (if recD r = 0 then [recFld r 5 0 32] ++ (if recO r = 2 ∨ recO r = 3 then [recFld r 6 0 32] else []) else [])

/-- Bytes that n elements of a format take (R152, R153). -/
def elemsBytes (c n : Nat) : Nat := (n * stagBits c + 7) / 8

/-- An extent: a local address and a length. -/
abbrev Extent := Nat × Nat

/-- The extents that a command reads (R153). -/
def readExtents (r : Rec) : List Extent :=
  let g := (recK r + 31) / 32
  [(recFld r 2 0 32, (recK r - 1) * recFld r 2 32 24 + elemsBytes (recA r) (recM r)),
   (recFld r 3 0 32, (recK r - 1) * recFld r 3 32 24 + elemsBytes (recB r) (recN r))]
    ++ (if stagScaled (recA r) then [(recFld r 4 0 32, g * 64 * ((recM r + 63) / 64))] else [])
    ++ (if stagScaled (recB r) then [(recFld r 4 32 32, g * 64 * ((recN r + 63) / 64))] else [])

/-- The extents that a command writes (R153). -/
def writeExtents (r : Rec) : List Extent :=
  if recD r = 0 then
    [(recFld r 5 0 32, (recM r - 1) * recFld r 5 32 24 + recN r * outBytes (recO r))]
      ++ (if recO r = 2 ∨ recO r = 3 then [(recFld r 6 0 32, recM r * ((recN r + 31) / 32))] else [])
  else []

/-- Whether two extents share a byte. -/
def overlaps (x y : Extent) : Bool :=
  localMem x.1 == localMem y.1 && decide (localOffset x.1 < localOffset y.1 + y.2)
    && decide (localOffset y.1 < localOffset x.1 + x.2)

/-- Whether a reserved field of a record is set (R148). -/
def recReserved (r : Rec) : Bool :=
  recFld r 0 32 32 ≠ 0 || recFld r 1 48 16 ≠ 0 || recFld r 2 56 8 ≠ 0 || recFld r 3 56 8 ≠ 0 || recFld r 6 54 10 ≠ 0
    || (recD r = 0 && recFld r 5 56 8 ≠ 0) || (recD r = 1 && recFld r 5 16 48 ≠ 0)

/-- The first failing code of R153, 0 for none; `fits` says whether an extent stays inside its memory. -/
def recCheck (r : Rec) (fits : Extent → Bool) : Nat :=
  if recA r > 0xB ∨ recB r > 0xB ∨ recO r > 5 ∨ (recPath r).isNone then 1
  else if (recPath r == some .integer) != (recO r == 4 || recO r == 5) || (recD r = 1 && recO r ≠ 0 && recO r ≠ 4) then 2
  else if recM r = 0 ∨ recN r = 0 ∨ recK r = 0 then 3
  else if recAcc16 r && (recPath r != some .integer || decide (recK r > 8192) || decide (recS0 r > 4)) then 4
  else if (recAddrs r).any localReserved then 8
  else if recFld r 2 0 32 % 64 ≠ 0 ∨ recFld r 3 0 32 % 64 ≠ 0 ∨ recFld r 2 32 24 % 64 ≠ 0 ∨ recFld r 3 32 24 % 64 ≠ 0
      ∨ (recD r = 0 ∧ (recFld r 5 0 32 % 64 ≠ 0 ∨ recFld r 5 32 24 % 64 ≠ 0)) then 5
  else if !(readExtents r ++ writeExtents r).all fits then 6
  else if (writeExtents r).any fun x => (readExtents r).any (overlaps x) then 7
  else if recReserved r || recD r > 1 then 8
  else 0

/-- Output tiles of a command (R143). -/
def recTiles (r : Rec) : Nat := ((recM r + 127) / 128) * ((recN r + 127) / 128)

/-! ## Cycles (R155 to R157) -/

/-- Four times the K rows that the array admits in a cycle, with operands in the block store (R155). -/
def recRate (r : Rec) (p : Path) (a16 : Bool) : Nat :=
  match p with
  | .tree => 1
  | .window => 4
  | .integer => (if stagBits (recA r) = 4 ∧ stagBits (recB r) = 4 then 8 else 4) * (if a16 then 2 else 1)

/-- Bytes for each K row that the tile memory of number j delivers (R156). -/
def recBytes (r : Rec) (j : Nat) : Nat :=
  let held (a n : Nat) : Nat := if localMem a = j then n else 0
  held (recFld r 2 0 32) (16 * stagBits (recA r)) + held (recFld r 3 0 32) (16 * stagBits (recB r))
    + (if stagScaled (recA r) then held (recFld r 4 0 32) 4 else 0)
    + (if stagScaled (recB r) then held (recFld r 4 32 32) 4 else 0)

/-- Cycles in which n K rows enter: the rate of the path, capped by the tile memories (R155 to R157). -/
def rowCycles (r : Rec) (p : Path) (a16 : Bool) (n : Nat) : Nat :=
  let most := ((List.range 16).map fun j => recBytes r (1 + j)).foldl max 0
  max ((4 * n + recRate r p a16 - 1) / recRate r p a16) ((n * most + 127) / 128)

/-- W: cycles in which the outputs and output scales of a tile of mc rows and nc columns are written (R156, R157). -/
def writeCycles (r : Rec) (mc nc : Nat) : Nat :=
  let time (a bytes : Nat) : Nat := if localMem a = 0 then (bytes + 255) / 256 else (bytes + 127) / 128
  let c := mc * nc * outBytes (recO r)
  let sc := if recO r = 2 ∨ recO r = 3 then mc * ((nc + 31) / 32) else 0
  if recD r = 1 then (c + 127) / 128
  else if localMem (recFld r 5 0 32) = localMem (recFld r 6 0 32) ∨ sc = 0 then time (recFld r 5 0 32) (c + sc)
  else max (time (recFld r 5 0 32) c) (time (recFld r 6 0 32) sc)

/-! ## Elements -/

/-- Element i of packed bytes, as bits (R85, R152). -/
def packed (bits : Nat) (row : List Byte) (i : Nat) : Nat :=
  match bits with
  | 4 => (row.getD (i / 2) 0).toNat / 16 ^ (i % 2) % 16
  | 16 => (row.getD (2 * i) 0).toNat + 256 * (row.getD (2 * i + 1) 0).toNat
  | _ => (row.getD i 0).toNat

/-- The integer that an integer element stands for (R85, R150). -/
def stagInt (c x : Nat) : Int := intValue (stagBits c) (c = 0 || c = 2 || c = 8 || c = 0xB) x

/-- An operand of the exact window: a NaN, an infinity, or a value in units of 2^−16 with its sign. -/
inductive WinOp where
  | nan
  | inf (s : Bool)
  | num (s : Bool) (v : Int)
  deriving DecidableEq, Repr

/-- The value of an element on the window path, without its scale (R100, R103). -/
def winOp (c x : Nat) : WinOp :=
  let fp (f : Fmt) : WinOp :=
    match f.decode x with
    | .nan _ _ _ => .nan
    | .inf s => .inf s
    | .num s m e => .num s (let v : Int := m * 2 ^ (e + 16).toNat; if s then -v else v)
  match c with
  | 4 => fp e4m3
  | 9 => fp e4m3
  | 5 => fp e5m2
  | 0xA => fp e5m2
  | _ =>
    let v := stagInt c x
    .num (v < 0) (v * (if c = 8 then 2 ^ 10 else 2 ^ 16))

/-! ## Conditions -/

/-- The conditions that a command gathers: the FCSR flags in bits [6:0], INEXACT-WINDOW in bit 7 (R94, R154). -/
abbrev Cond := BitVec 8

/-- A condition from FCSR flags. -/
def condOf (f : BitVec 7) : Cond := f.setWidth 8

/-- INEXACT-WINDOW. -/
def condInexw : Cond := 0x80

/-- A command's status fields with conditions added (R154). -/
def StagFlags.add (x : StagFlags) (c : Cond) : StagFlags :=
  { x with nv := x.nv || bit c 4, of := x.of || bit c 2, uf := x.uf || bit c 1, nx := x.nx || bit c 0
           sat := x.sat || bit c 5, inexw := x.inexw || bit c 7 }

/-! ## The exact window (R103 to R108) -/

/-- The window after an addition; a value beyond ±2^47 puts the cell into the overflowed state (R106). -/
def winAdd (v : Int) (ovf : Option Bool) (d : Int) : Int × Option Bool :=
  match ovf with
  | some s => (v, some s)
  | none =>
    let r := v + d
    if 2 ^ 79 ≤ r then (r, some false) else if r < -(2 ^ 79) then (r, some true) else (r, none)

/-- An integer times 2^d, rounded to nearest even, and whether it was inexact (R89). -/
def scaleInt (v d : Int) : Int × Bool :=
  let r := rneShift v.natAbs d
  (if v < 0 then -(r.1 : Int) else r.1, r.2)

/-- One product enters a window cell; `scaled` says that a group's products are summed first, with combined scale
2^scale, and `last` that the group ends here (R104, R105). A scale of 0xFF makes the element a NaN. -/
def winRow (scaled last : Bool) (scale : Option Int) (a b : WinOp) (c : Cell) : Cell × Cond :=
  match c with
  | .window v g nanf pinf ninf negz ovf =>
    let r : Cell × Cond :=
      match scale with
      | none => (.window v g true pinf ninf negz ovf, 0)
      | some _ =>
        match a, b with
        | .nan, _ => (.window v g true pinf ninf negz ovf, 0)
        | _, .nan => (.window v g true pinf ninf negz ovf, 0)
        | .num s x, .num s' y =>
          let p := x * y
          let negz := negz && p = 0 && (s != s')
          if scaled then (.window v (g + p) nanf pinf ninf negz ovf, 0)
          else let w := winAdd v ovf p; (.window w.1 g nanf pinf ninf negz w.2, 0)
        | .inf s, .inf s' => (.window v g nanf (pinf || s == s') (ninf || s != s') negz ovf, 0)
        | .inf s, .num s' y =>
          if y = 0 then (.window v g true pinf ninf negz ovf, condOf flagNV)
          else (.window v g nanf (pinf || s == s') (ninf || s != s') negz ovf, 0)
        | .num s x, .inf s' =>
          if x = 0 then (.window v g true pinf ninf negz ovf, condOf flagNV)
          else (.window v g nanf (pinf || s == s') (ninf || s != s') negz ovf, 0)
    match r.1, scaled && last with
    | .window v g nanf pinf ninf negz ovf, true =>
      let p := scaleInt g (scale.getD 0)
      match ovf with
      | some _ => (.window v 0 nanf pinf ninf negz ovf, r.2)
      | none =>
        let w := winAdd v ovf p.1
        (.window w.1 0 nanf pinf ninf negz w.2, r.2 ||| (if p.2 then condInexw else 0))
    | x, _ => (x, r.2)
  | x => (x, 0)

/-- The result of a window cell at a pass end (R106). -/
def winResult (c : Cell) : Fp × Cond :=
  match c with
  | .window v _ nanf pinf ninf negz ovf =>
    if nanf || (pinf && ninf) then (.nan false 0 false, if pinf && ninf then condOf flagNV else 0)
    else if pinf then (.inf false, 0)
    else if ninf then (.inf true, 0)
    else match ovf with
      | some s => (.inf s, condOf flagOF)
      | none => if v = 0 then (.num negz 0 0, 0) else (.num (v < 0) v.natAbs (-32), 0)
  | _ => (.num false 0 0, 0)

/-- A cell loads the previous pass's FP32 result (R108). -/
def winReload (c : Cell) (bits : Nat) : Cell :=
  match c with
  | .window _ _ _ _ _ _ ovf =>
    match fp32.decode bits with
    | .nan _ _ _ => .window 0 0 true false false false ovf
    | .inf s => .window 0 0 false (!s) s false ovf
    | .num s m e =>
      let v := (scaleInt (if s then -(m : Int) else m) (e + 32)).1
      if 2 ^ 79 ≤ v.natAbs then .window v 0 false false false false (some s)
      else .window v 0 false false false (m = 0 && s) ovf
  | x => x

/-! ## Integers (R109, R110) -/

/-- Range of an accumulator word of n bits, unsigned when both operands are (R109, R110). -/
def wordSigned (r : Rec) : Bool := !((recA r = 1 || recA r = 3) && (recB r = 1 || recB r = 3))

/-- One product enters an integer cell of n bits, shifted right by s: a word that leaves its range keeps the limit it
crossed and is marked (R109, R110). -/
def wordRow (n : Nat) (sg : Bool) (s : Nat) (a b : Int) (c : Cell) : Cell × Cond :=
  match c with
  | .word v true => (.word v true, 0)
  | .word v false =>
    let w := v + (scaleInt (a * b) (-(s : Int))).1
    if w < intMin n sg then (.word (intMin n sg) true, 0)
    else if intMax n sg < w then (.word (intMax n sg) true, 0)
    else (.word w false, 0)
  | x => (x, 0)

/-! ## The tree (R111) -/

/-- A BF16 or FP16 product, exact and then converted to FP32; a NaN is canonical (R92, R111). -/
def treeProduct (f : Fmt) (a b : Nat) : BitVec 32 × BitVec 7 :=
  let x := f.decode a
  let y := f.decode b
  if x.isNan || y.isNan then (BitVec.ofNat 32 fp32.nan, if x.isSig || y.isSig then flagNV else 0)
  else
    let p := fpMul x y
    let r := fp32.encode false p.1
    (BitVec.ofNat 32 r.1, p.2 ||| r.2)

/-- A node of the tree. -/
def treeNode (x y : BitVec 32 × BitVec 7) : BitVec 32 × BitVec 7 :=
  let r := add32 x.1 y.1
  (r.1, x.2 ||| y.2 ||| r.2)

/-- A group's sum enters the slots as a binary counter carries (R111). -/
def treeCarry : List (Option (BitVec 32)) → BitVec 32 → List (Option (BitVec 32)) × BitVec 7
  | [], _ => ([], 0)
  | none :: r, v => (some v :: r, 0)
  | some x :: r, v =>
    let z := add32 x v
    let t := treeCarry r z.1
    (none :: t.1, z.2 ||| t.2)

/-- The sum of a group's leaves enters the slots. -/
def treeGroup (slots : List (Option (BitVec 32))) (leaves : List (BitVec 32)) :
    List (Option (BitVec 32)) × BitVec 7 :=
  match treeFold treeNode 5 (leaves.map fun l => (l, 0)) with
  | (v, f) :: _ => let c := treeCarry slots v; (c.1, f ||| c.2)
  | [] => (slots, 0)

/-- One product enters a tree cell. -/
def treeRow (p : BitVec 32 × BitVec 7) (c : Cell) : Cell × Cond :=
  match c with
  | .tree slots leaves prev =>
    let l := leaves ++ [p.1]
    if l.length = 32 then
      let g := treeGroup slots l
      (.tree g.1 [] prev, condOf (p.2 ||| g.2))
    else (.tree slots l prev, condOf p.2)
  | x => (x, 0)

/-- The result of a tree cell at a pass end: a short last group, the slots from the lowest level, then the previous
pass's result (R111). -/
def treeResult (c : Cell) : BitVec 32 × Cond :=
  match c with
  | .tree slots leaves prev =>
    let g := treeGroup slots leaves
    let acc := g.1.foldl (fun (a : Option (BitVec 32) × BitVec 7) sl =>
      match a.1, sl with
      | none, x => (x, a.2)
      | some v, none => (some v, a.2)
      | some v, some x => let r := add32 x v; (some r.1, a.2 ||| r.2)) (none, g.2)
    let v := acc.1.getD 0
    match prev with
    | none => (v, condOf acc.2)
    | some p => let r := add32 v p; (r.1, condOf (acc.2 ||| r.2))
  | _ => (0, 0)

/-- A cell at the start of an output tile (R143). -/
def freshCell (p : Path) : Cell :=
  match p with
  | .window => .window 0 0 false false false true none
  | .integer => .word 0 false
  | .tree => .tree (List.replicate 9 none) [] none

/-- A cell rounds and reloads at a pass boundary (R108, R111, R159). -/
def boundaryCell (p : Path) (c : Cell) : Cell × Cond :=
  match p with
  | .window =>
    let r := winResult c
    let b := fp32.encode false r.1
    (winReload c b.1, r.2 ||| condOf b.2)
  | .tree => let r := treeResult c; (.tree (List.replicate 9 none) [] (some r.1), r.2)
  | .integer => (c, 0)

/-- What one K row brings to a tile: the raw elements of A and B and the scale bytes of their group. -/
structure KRow where
  a  : List Nat
  b  : List Nat
  sa : List Nat
  sb : List Nat

/-- One K row enters every cell of a tile, row by row (R142). -/
def rowCells (r : Rec) (p : Path) (s : Nat) (last : Bool) (k : KRow) (cells : List Cell) : List Cell × Cond :=
  let nc := k.b.length
  let scaled := stagScaled (recA r) || stagScaled (recB r)
  let fmt := if recA r = 6 then bf16 else fp16
  let one (i : Nat) (c : Cell) : Cell × Cond :=
    let m := i / nc
    let n := i % nc
    let x := k.a.getD m 0
    let y := k.b.getD n 0
    match p with
    | .window =>
      let ea := k.sa.getD m 127
      let eb := k.sb.getD n 127
      let scale : Option Int := if ea = 255 ∨ eb = 255 then none else some ((ea : Int) + eb - 254)
      winRow scaled last scale (winOp (recA r) x) (winOp (recB r) y) c
    | .integer =>
      wordRow (if recAcc16 r && s < 5 then 16 else 32) (wordSigned r) (if recAcc16 r && s < 5 then s else 0)
        (stagInt (recA r) x) (stagInt (recB r) y) c
    | .tree => treeRow (treeProduct fmt x y) c
  let out := cells.mapIdx one
  (out.map (·.1), out.foldl (fun f x => f ||| x.2) 0)

/-- Whether a 16-bit word has left its range (R110). -/
def overflowed (cells : List Cell) : Bool :=
  cells.any fun c => match c with
    | .word _ b => b
    | _ => false

/-! ## Output conversion (R161 to R163) -/

/-- A cell's result at the end of a tile. -/
inductive Value where
  | fp (v : Fp)
  | int (v : Int)
  deriving DecidableEq, Repr

/-- The result of a cell (R161). -/
def cellValue (p : Path) (s : Nat) (c : Cell) : Value × Cond :=
  match p with
  | .window => let r := winResult c; (.fp r.1, r.2)
  | .tree => let r := treeResult c; (.fp (fp32.decode r.1.toNat), r.2)
  | .integer =>
    match c with
    | .word v sat => (.int (v * 2 ^ (if s < 5 then s else 0)), if sat then condOf flagSAT else 0)
    | _ => (.int 0, 0)

/-- A floating-point result in a format: a NaN is canonical (R92, R161). -/
def outFp (f : Fmt) (ns : Bool) (v : Value) : Nat × Cond :=
  match v with
  | .fp x => let r := f.encode ns x; (r.1, condOf r.2)
  | .int _ => (0, 0)

/-- v × 2^e. -/
def Fp.scale (v : Fp) (e : Int) : Fp :=
  match v with
  | .num s m x => .num s m (x + e)
  | x => x

/-- A value's magnitude where it is finite and not zero. -/
def finiteMag (v : Value) : Option (Nat × Int) :=
  match v with
  | .fp (.num _ m e) => if m = 0 then none else some (m, e)
  | _ => none

/-- The larger of two magnitudes. -/
def maxMag (x y : Nat × Int) : Nat × Int :=
  let e := min x.2 y.2
  if x.1 * 2 ^ (x.2 - e).toNat < y.1 * 2 ^ (y.2 - e).toNat then y else x

/-- The scale byte of a block and its elements (R162). -/
def scaleBlock (f : Fmt) (ns : Bool) (vs : List Value) : Nat × List Nat × Cond :=
  let nan (v : Value) : Bool := match v with
    | .fp x => x.isNan
    | .int _ => false
  if vs.any nan then (0xFF, vs.map fun _ => f.nan, 0)
  else
    let emax : Int := if f = e4m3 then 8 else 15
    let e : Int := match vs.filterMap finiteMag with
      | [] => 127
      | x :: r =>
        let m := r.foldl maxMag x
        let e := (Nat.log2 m.1 : Int) + m.2 - emax + 127
        let up := (f.round false false m.1 (m.2 + 127 - e)).2 &&& (flagOF ||| flagSAT) ≠ 0
        let e := if up then e + 1 else e
        min (max e 0) 254
    let out := vs.map fun v => match v with
      | .fp x => outFp f ns (.fp (x.scale (127 - e)))
      | v => outFp f ns v
    (e.toNat, out.map (·.1), out.foldl (fun c x => c ||| x.2) 0)

/-- A list cut into blocks of n. -/
def blocksOf {α : Type} (n : Nat) : Nat → List α → List (List α)
  | 0, _ => []
  | fuel + 1, l => if l.isEmpty then [] else l.take n :: blocksOf n fuel (l.drop n)

/-- The INT8 output of an accumulator value (R163). -/
def outInt8 (r : Rec) (v : Int) : Nat × Cond :=
  let y := (scaleInt (v * intValue 16 true (recFld r 6 32 16)) (-(recFld r 6 48 6 : Int))).1
  let c := intClamp 8 true flagSAT y
  (c.1, condOf c.2)

/-- One row of a tile converted to the record's output format: its bytes, its scale bytes and its conditions (R161). -/
def outRow (r : Rec) (vs : List Value) : List Byte × List Byte × Cond :=
  let join (w : Nat) (l : List (Nat × Cond)) : List Byte × List Byte × Cond :=
    (l.flatMap fun x => natBytes w x.1, [], l.foldl (fun c x => c ||| x.2) 0)
  let ofInt (v : Value) : Int := match v with
    | .int i => i
    | .fp _ => 0
  let scaled (f : Fmt) : List Byte × List Byte × Cond :=
    let bs := (blocksOf 32 5 vs).map (scaleBlock f (recNosat r))
    (bs.flatMap fun b => b.2.1.flatMap (natBytes 1), bs.map fun b => BitVec.ofNat 8 b.1, bs.foldl (fun c b => c ||| b.2.2) 0)
  match recO r with
  | 0 => join 4 (vs.map (outFp fp32 false))
  | 1 => join 2 (vs.map (outFp bf16 false))
  | 2 => scaled e4m3
  | 3 => scaled e5m2
  | 4 => join 4 (vs.map fun v => (intBits 32 (ofInt v), 0))
  | _ => join 1 (vs.map fun v => outInt8 r (ofInt v))

end Sys2Proof.Machine
end

