-- ==== Sys2Proof/Machine/Stag.lean ====
section
/-! DEFINITION. The stags: their queue, the running command and its events, and one meaning per instruction (R142 to
R171). -/

namespace Sys2Proof.Machine

/-- Changes a block's stag. -/
def State.modStag (s : State) (k : Nat) (f : Stag → Stag) : State := s.modBlock k fun b => { b with stag := f b.stag }

/-- Adds n to a stag counter (R171). -/
def State.stagCount (s : State) (k n v : Nat) : State :=
  s.modStag k fun x => { x with ctrs := x.ctrs.setIfInBounds n (satAdd (nth x.ctrs n 0) v) }

/-- The accesses of a stag for a command: the partition is the issuing tile's. -/
def StagCmd.who (c : StagCmd) : Who := { src := 1, num := BitVec.ofNat 16 c.tile, part := some c.part, user := false }

/-- Device address of an offset from a local address of block k (R149). -/
def stagAddr (k a o : Nat) : Nat :=
  (if a / 2 ^ 31 = 1 then tileMemBase (k * 16 + a / 2 ^ 18 % 16) else 0x80000000000 + k * 0x2000000) + localOffset a + o

/-- Whether an extent stays in its memory, names no retired tile, and, in the block store, stays in the partition's share
(R153, R419). -/
def State.extentFits (s : State) (k : Nat) (part : PartNo) (x : Extent) : Bool :=
  if localMem x.1 = 0 then
    decide (localOffset x.1 + x.2 ≤ 0x1400000) && s.ownerOf (stagAddr k x.1 0) == some part
      && s.ownerOf (stagAddr k x.1 (x.2 - 1)) == some part
  else decide (localOffset x.1 + x.2 ≤ 0x40000) && !s.sq.fp.tiles.contains (k * 16 + (localMem x.1 - 1))

/-- A running command's record and progress. -/
structure Job where
  cmd  : StagCmd
  run  : StagRun
  path : Path

/-- Whether a stag stands: preempted, under reset, under a spot test, or in curfew (R167, R169, R432, R440). -/
def State.stagHeld (s : State) (k : Nat) : Bool :=
  (s.block k).stag.paused || (s.block k).resetting.isSome || s.curfew || s.sq.spots.any fun x => x.running && x.unit == ⟨4, k⟩

/-- The running command of a stag that is not held (R167). -/
def State.job (s : State) (k : Nat) : Option Job :=
  let x := (s.block k).stag
  match x.queue, x.run with
  | c :: _, some r =>
    if s.stagHeld k then none
    else some { cmd := c, run := r, path := (recPath c.words).getD .integer }
  | _, _ => none

/-- Records a running command's progress. -/
def State.setRun (s : State) (k : Nat) (r : StagRun) : State := s.modStag k fun x => { x with run := some r }

/-- First row and column of an output tile, and its extent inside M and N (R143). -/
def tilePlace (r : Rec) (idx : Nat) : Nat × Nat × Nat × Nat :=
  let w := (recN r + 127) / 128
  let m0 := 128 * (idx / w)
  let n0 := 128 * (idx % w)
  (m0, n0, min 128 (recM r - m0), min 128 (recN r - n0))

/-- Reads bytes of an operand or of a scale array (R166). -/
def State.stagRead (s : State) (k : Nat) (c : StagCmd) (a o n : Nat) : State × List Byte × Bool :=
  s.readSpan c.who (stagAddr k a o) n

/-- Reads elements of an operand, counting the 64-byte units that come from tile memories (R171). -/
def State.stagElems (s : State) (k : Nat) (c : StagCmd) (a o n : Nat) : State × List Byte × Bool :=
  let r := s.stagRead k c a o n
  (if localMem a = 0 then r.1 else r.1.stagCount k 14 ((n + 63) / 64), r.2)

/-- Reads K row `row` of the current output tile: its elements and its group's scales, and whether a word is
uncorrectable (R152). -/
def State.stagRow (s : State) (k : Nat) (c : StagCmd) (idx row : Nat) : State × KRow × Bool :=
  let r := c.words
  let (m0, n0, mc, nc) := tilePlace r idx
  let ab := stagBits (recA r)
  let bb := stagBits (recB r)
  let (s, a, e1) := s.stagElems k c (recFld r 2 0 32) (row * recFld r 2 32 24 + m0 * ab / 8) (elemsBytes (recA r) mc)
  let (s, b, e2) := s.stagElems k c (recFld r 3 0 32) (row * recFld r 3 32 24 + n0 * bb / 8) (elemsBytes (recB r) nc)
  let g := row / 32
  let (s, sa, e3) := if stagScaled (recA r) then
      s.stagRead k c (recFld r 4 0 32) (g * 64 * ((recM r + 63) / 64) + m0) mc
    else (s, List.replicate mc 127, false)
  let (s, sb, e4) := if stagScaled (recB r) then
      s.stagRead k c (recFld r 4 32 32) (g * 64 * ((recN r + 63) / 64) + n0) nc
    else (s, List.replicate nc 127, false)
  (s, { a := (List.range mc).map (packed ab a), b := (List.range nc).map (packed bb b)
        sa := sa.map (·.toNat), sb := sb.map (·.toNat) }, e1 || e2 || e3 || e4)

/-- Admits the next K row of a command; at a pass boundary inside the tile the cells round and reload (R142, R159). A
command that has failed, or a 16-bit attempt that has overflowed, admits none. -/
def stagStep (k : Nat) (j : Job) (x : State × StagRun) (row : Nat) : State × StagRun :=
  let (s, r) := x
  let a16 := recAcc16 j.cmd.words && r.s < 5
  if r.err.isSome || (a16 && overflowed r.cells) then x
  else
    let (s, kr, bad) := s.stagRow k j.cmd r.otile row
    if bad then (s, { r with err := some 9 })
    else
      let rc := j.cmd.words
      let last := row % 32 = 31 || row + 1 = recK rc
      let cells := if r.cells.isEmpty then List.replicate (kr.a.length * kr.b.length) (freshCell j.path) else r.cells
      let (cells, c1) := rowCells rc j.path r.s last kr cells
      let edge := (row + 1) % 8192 = 0 && decide (row + 1 < recK rc)
      let bc := if edge then cells.map (boundaryCell j.path) else cells.map fun c => (c, 0)
      let c2 := bc.foldl (fun f y => f ||| y.2) 0
      let cells := bc.map (·.1)
      let n := if a16 && overflowed cells then 0 else if edge then 8192 else if row + 1 = recK rc then row % 8192 + 1 else 0
      let c := rowCycles rc j.path a16 n
      let s := (if edge then s.stagCount k 8 1 else s).stagCount k 1 c
      let gap := if edge && j.path != .integer then 8 else 0
      (s, { r with srow := row + 1, cyc := r.cyc + c + gap, cells, flags := r.flags.add (c1 ||| c2) })

/-- The cycles in which the array has waited for K rows, and the operand reads that have waited for a bank of the block store,
before a group of K rows entered: the commands do not show them, and they are free values (R158, R171). -/
def State.latchStalls (s : State) (k : Nat) (j : Job) : State × StagRun :=
  let n := (Config.free s.fresh).toNat
  let banks := if localMem (recFld j.cmd.words 2 0 32) = 0 ∨ localMem (recFld j.cmd.words 3 0 32) = 0 then
      (Config.free (s.fresh + 1)).toNat else 0
  ((({ s with fresh := s.fresh + 2 } : State).stagCount k 2 n).stagCount k 13 banks, { j.run with cyc := j.run.cyc + n })

/-- Admits K rows up to a row. -/
def State.stagAdvance (s : State) (k : Nat) (j : Job) (to_ : Nat) : State × StagRun :=
  if to_ ≤ j.run.srow then (s, j.run) else ((List.range to_).drop j.run.srow).foldl (stagStep k j) (s.latchStalls k j)

/-- Whether a run is a 16-bit attempt that has overflowed. -/
def Job.abandons (j : Job) (r : StagRun) : Bool := recAcc16 j.cmd.words && decide (r.s < 5) && overflowed r.cells

/-- The shift with which a tile starts (R159). -/
def firstShift (r : Rec) : Nat := if recAcc16 r then recS0 r else 0

/-- No condition yet. -/
def StagFlags.none_ : StagFlags :=
  { nv := false, of := false, uf := false, nx := false, sat := false, inexw := false, fallback := false, smax := 0, replays := 0 }

/-! ## Instructions (R144) -/

/-- SGO offers a record to the block's stag (R145, R146). -/
def execSgo (t : TileNo) (b : Byte) (s : State) : Ans :=
  .next (s.issue t { opc := 0xD0, opb := b, legal := opNone b, din := 1, dout := 1 } fun s =>
    let rec_ := s.arg t 0
    let k := blockOf t
    if rec_.toNat > 0x3FFC0 then .trap s 0x07 rec_ 0
    else if rec_.toNat % 64 ≠ 0 then .trap s 0x06 rec_ 0
    else if s.sq.fp.stags.contains k then .trap s 0x40 (BitVec.ofNat 64 k) 0
    else if (s.block k).stag.queue.length ≥ 16 then (s.stagCount k 6 1).gives t 1 [0] 3
    else
      let x := s.tile t
      let a := tileMemBase t + rec_.toNat
      let bad := (unitsOf 8 a 56).any fun w => s.badWord w
      let s := if s.marks.isEmpty then s else (unitsOf 8 a 56).foldl (fun (s : State) w =>
        s.meetSram w { src := 1, num := BitVec.ofNat 16 t }) s
      let c : StagCmd :=
        { words := Vector.ofFn fun (i : Fin 7) => s.wordAt (a + 8 * i.val)
          off := rec_.toNat, tile := t, part := x.part, relE := x.gmem.relE, fenE := x.gmem.fenE, seq := x.gmem.seq
          bad, behind := !(s.block k).stag.queue.isEmpty }
      let s := s.modStag k fun g => { g with queue := g.queue ++ [c], rot := (tileIn t + 1) % 16 }
      s.gives t 1 [1] 3)

/-- The stag's state word (R170). -/
def State.sstat (s : State) (k : Nat) : Word :=
  let x := (s.block k).stag
  let busy := x.run.isSome
  let head := x.queue.head?
  let a16 := match head with
    | some c => busy && recAcc16 c.words
    | none => false
  let v := x.queue.length + 32 * busy.toNat + 64 * x.paused.toNat + 128 * (s.sq.fp.stags.contains k).toNat
    + (match head, busy with | some c, true => 256 * tileIn c.tile | _, _ => 0) + 4096 * a16.toNat
    + (match x.run with
      | some r => (if a16 then 8192 * r.s else 0) + 0x10000 * (r.srow % 65536) + 0x100000000 * (r.otile % 2 ^ 18)
      | none => 0)
  BitVec.ofNat 64 v

/-- SSTAT pushes the stag's state word (R170). -/
def execSstat (t : TileNo) (b : Byte) (s : State) : Ans :=
  .next (s.issue t { opc := 0xD1, opb := b, legal := opNone b, dout := 1 } fun s => s.gives t 0 [s.sstat (blockOf t)] 3)

/-- SCTR pushes a performance counter (R171). -/
def execSctr (t : TileNo) (b : Byte) (s : State) : Ans :=
  .next (s.issue t { opc := 0xD2, opb := b, legal := opLow 4 b, dout := 1 } fun s =>
    s.gives t 0 [nth (s.block (blockOf t)).stag.ctrs b.toNat 0] 3)

/-- SCTRCLR clears the counters (R171). -/
def execSctrclr (t : TileNo) (b : Byte) (s : State) : Ans :=
  .next (s.issue t { opc := 0xD3, opb := b, legal := opNone b, sup := true } fun s =>
    .ok (s.modStag (blockOf t) fun x => { x with ctrs := Vector.replicate 16 0 }) .seq)

/-- The status word of a command (R154). -/
def statusWord (f : StagFlags) (err : BitVec 4) (cyc : Word) : Word :=
  BitVec.ofNat 64 (1 + (if err = 0 then 0 else 2) + 4 * err.toNat + 64 * f.nv.toNat + 128 * f.of.toNat + 256 * f.uf.toNat
    + 512 * f.nx.toNat + 1024 * f.sat.toNat + 2048 * f.inexw.toNat + 4096 * f.fallback.toNat + 8192 * f.smax.toNat
    + 65536 * f.replays.toNat) ||| (cyc.setWidth 32 ++ (0 : BitVec 32))

/-- CYC of a command: the cycles of R157, R158 and R160, or any value where no rule counts its cycles (R154). -/
def cycOf (base : Option Nat) (v : Word) : Word :=
  match base with
  | some n => BitVec.ofNat 64 (min n 0xFFFFFFFF)
  | none => v

/-- Writes a command's status word at offset 0x38 of its record; `base` are the cycles that R157 and R158 give it (R154). -/
def State.putStatus (s : State) (c : StagCmd) (f : StagFlags) (err : BitVec 4) (base : Option Nat) : State :=
  let w := statusWord f err (cycOf base (Config.free s.fresh))
  { s with fresh := s.fresh + 1 }.writeHome c.who (tileMemBase c.tile + c.off + 0x38) (natBytes 8 w.toNat)

/-- SCANCEL cancels every accepted command that has not completed: each gets its status, in order, and nothing else
(R168). -/
def execScancel (t : TileNo) (b : Byte) (s : State) : Ans :=
  .next (s.issue t { opc := 0xD4, opb := b, legal := opNone b, sup := true, dout := 1 } fun s =>
    let k := blockOf t
    let x := (s.block k).stag
    let f := match x.run with
      | some r => r.flags
      | none => .none_
    let s := (x.queue.zipIdx).foldl (fun (s : State) c => s.putStatus c.1 (if c.2 = 0 then f else .none_) 0xA none) s
    let n := x.queue.length
    let s := ((s.modStag k fun g => { g with queue := [], run := none }).stagCount k 4 n).stagCount k 5 n
    let s := (s.stagCount k 11 f.inexw.toNat).stagCount k 12 f.sat.toNat
    s.gives t 0 [BitVec.ofNat 64 n] 3)

/-! ## Events -/

/-- The stag decodes and checks the command at the head of its queue, once the ordering instructions of its tile let it
start (R153, R157, R231). -/
def execStagCommandStart (k : BlockNo) (s : State) : Ans :=
  let x := (s.block k).stag
  .next (match x.queue, x.run with
    | c :: _, none =>
      if s.stagHeld k || !s.relMet c.tile c.relE || !s.fenMet c.tile c.fenE then s
      else
        let e := if c.bad then 9 else recCheck c.words (s.extentFits k c.part)
        let r : StagRun := { srow := 0, otile := 0, cyc := 0, before := 0, s := firstShift c.words, cells := [], flags := .none_
                             err := if e = 0 then none else some (BitVec.ofNat 4 e) }
        (s.setRun k r).trace k 2 (tileIn c.tile) c.off
    | _, _ => s)

/-- At a pass boundary inside an output tile, the K rows of the pass have entered and the cells round and reload (R159). -/
def execStagPassBoundary (k : BlockNo) (s : State) : Ans :=
  .next (match s.job k with
    | some j =>
      let stop := (j.run.srow / 8192 + 1) * 8192
      if j.run.err.isSome || decide (recTiles j.cmd.words ≤ j.run.otile) || decide (recK j.cmd.words ≤ stop)
          || recAcc16 j.cmd.words then s
      else
        let (s, r) := s.stagAdvance k j stop
        s.setRun k r
    | none => s)

/-- The cycles by which the first cell to overflow stands behind cell (0, 0): the least i + j of the overflowed cells (R142,
R160). -/
def overflowSkew (nc : Nat) (cells : List Cell) : Nat :=
  (cells.zipIdx.filterMap fun e => if overflowed [e.1] then some (e.2 / nc + e.2 % nc) else none).foldl min 254

/-- A 16-bit word leaves its range: the attempt is abandoned and runs again with a larger shift, and after 4 in 32-bit
mode (R110, R159, R160). -/
def execStag16bitOverflow (k : BlockNo) (s : State) : Ans :=
  .next (match s.job k with
    | some j =>
      if j.run.err.isSome || decide (recTiles j.cmd.words ≤ j.run.otile) then s
      else
        let (s', r) := s.stagAdvance k j (recK j.cmd.words)
        if !j.abandons r then s
        else
          let f := { r.flags with replays := satInc r.flags.replays }
          let c := rowCycles j.cmd.words j.path true r.srow
          let skew := overflowSkew (tilePlace j.cmd.words r.otile).2.2.2 r.cells
          let s' := s'.setRun k { r with s := r.s + 1, srow := 0, cyc := r.cyc + c - 1 + skew + 262, cells := [], flags := f }
          ((s'.stagCount k 1 (min (c + skew) (rowCycles j.cmd.words j.path true (recK j.cmd.words)))).stagCount k 9 1).stagCount k 10 (if r.s = 4 then 1 else 0)
    | none => s)

/-- The partials of one row of a tile leave under the record's tag, run by run (R164, R304). -/
def State.injectRow (s : State) (k : Nat) (c : StagCmd) (kind : Bool) (e0 : Nat) (ws : List (BitVec 32)) : State :=
  let q := k / 64
  let runs := (List.range ((e0 + ws.length + 15) / 16)).drop (e0 / 16)
  runs.foldl (fun (s : State) run =>
    let val (l : Nat) : Option (BitVec 32) := if e0 ≤ 16 * run + l then ws[16 * run + l - e0]? else none
    let mask := (List.range 16).foldl (fun (m : BitVec 16) l => if (val l).isSome then setBit m l true else m) 0
    s.inject c.who c.part (s.epochOf q c.part) q (BitVec.ofNat 16 (recFld c.words 5 0 16)) kind run mask
      (Vector.ofFn fun (l : Fin 16) => (val l.val).getD 0) (tilePath (stagEntry k run))) s

/-- Writes the outputs of a tile, converted, at its destination; the conditions come along (R152, R161, R164). -/
def State.writeTile (s : State) (k : Nat) (j : Job) (r : StagRun) : State × Cond :=
  let rc := j.cmd.words
  let (m0, n0, mc, nc) := tilePlace rc r.otile
  let vals := r.cells.map (cellValue j.path r.s)
  let c0 := vals.foldl (fun f x => f ||| x.2) 0
  (List.range mc).foldl (fun (x : State × Cond) i =>
    let o := outRow rc (((vals.drop (i * nc)).take nc).map (·.1))
    let m := m0 + i
    let s :=
      if recD rc = 1 then
        x.1.injectRow k j.cmd (j.path == .integer) (m * recN rc + n0)
          ((blocksOf 4 nc o.1).map fun b => BitVec.ofNat 32 (leNat b))
      else
        let s := x.1.writeSpan j.cmd.who (stagAddr k (recFld rc 5 0 32) (m * recFld rc 5 32 24 + n0 * outBytes (recO rc))) o.1
        if o.2.1.isEmpty then s
        else s.writeSpan j.cmd.who (stagAddr k (recFld rc 6 0 32) (m * ((recN rc + 31) / 32) + n0 / 32)) o.2.1
    (s, x.2 ||| o.2.2)) (s, c0)

/-- The cycles for which a tile that took fewer cycles than its predecessor's outputs take to be written waits for them (R158). -/
def writeStall (rc : Rec) (r : StagRun) : Nat :=
  if r.otile = 0 then 0
  else
    let (_, _, mc, nc) := tilePlace rc (r.otile - 1)
    writeCycles rc mc nc - (r.cyc - r.before)

/-- A tile's last K row has reached the last cell: its outputs are converted and written (R161). A command whose operand
read meets an uncorrectable word fails here and writes nothing (R165). -/
def execStagOutputTileDone (k : BlockNo) (s : State) : Ans :=
  .next (match s.job k with
    | some j =>
      if j.run.err.isSome || decide (recTiles j.cmd.words ≤ j.run.otile) then s
      else
        let (s', r) := s.stagAdvance k j (recK j.cmd.words)
        if r.err.isSome then s'.setRun k r
        else if j.abandons r then s
        else
          let (s', c) := s'.writeTile k j r
          let a16 := recAcc16 j.cmd.words && decide (r.s < 5)
          let f := r.flags.add c
          let f := { f with fallback := f.fallback || recAcc16 j.cmd.words && r.s == 5 }
          let f := if a16 && decide (f.smax.toNat < r.s) then { f with smax := BitVec.ofNat 3 r.s } else f
          let stall := writeStall j.cmd.words r
          let cyc := r.cyc + stall
          (((s'.setRun k { r with otile := r.otile + 1, srow := 0, s := firstShift j.cmd.words, cells := [], flags := f
                                  cyc, before := cyc }).stagCount k 3 stall).stagCount k 7 1).stagCount k 8 1
    | none => s)

/-- A command completes: the status word, the tally, and the ERROR interrupt of a failure (R165). How many of the 40 cycles of
its decode fell before its predecessor's completion the commands do not show (R157). -/
def execStagCommandComplete (k : BlockNo) (s : State) : Ans :=
  .next (match s.job k with
    | some j =>
      let c := j.cmd
      if j.run.err.isNone && decide (j.run.otile < recTiles c.words) then s
      else
        let e := j.run.err.getD 0
        let f := j.run.flags
        let (_, _, mc, nc) := tilePlace c.words (recTiles c.words - 1)
        let decode := if c.behind then (Config.free (s.fresh + 1)).toNat % 41 else 40
        let cyc := decode + j.run.cyc + 254 + writeCycles c.words mc nc
        let s := { s.putStatus c f e (if e = 0 then some cyc else none) with fresh := s.fresh + 2 }
        let s := s.modStag k fun x => { x with queue := x.queue.tail, run := none }
        let s := (((s.stagCount k 4 1).stagCount k 5 (if e = 0 then 0 else 1)).stagCount k 11 f.inexw.toNat).stagCount k 12
          f.sat.toNat
        let amt := recFld c.words 0 24 8
        let s := if amt = 0 then s else s.sendTally k (recFld c.words 0 18 6) none c.part (s.epochOf (k / 64) c.part) (.add (BitVec.ofNat 32 amt) .stag)
        let s := if e = 0 then s
          else s.errorReport c.tile 0
        s.trace k 2 (tileIn c.tile) (c.off + 2 ^ 18)
    | none => s)

/-- An uncorrectable error in an operand read, or in the accumulator, ends the running command with ERRC = DATA; an error
that no operand of the tile shows is the accumulator's, and the stag's spot test follows (R165, R429, R432). -/
def execStagDataError (k : BlockNo) (s : State) : Ans :=
  .next (match s.job k with
    | some j =>
      if j.run.err.isSome || decide (recTiles j.cmd.words ≤ j.run.otile) then s
      else
        let (s', r) := s.stagAdvance k j (recK j.cmd.words)
        if r.err.isSome then s'.setRun k r
        else (s.setRun k { j.run with err := some 9 }).logError (k.val / 64) 0 ⟨4, k⟩ 1
          { src := 1, num := BitVec.ofNat 16 k.val }
    | none => s)

/-- The Square preempts the stag, to share its quarter's time: the K rows before `row` have entered, and it holds
(R167). -/
def execStagPreempt (k : BlockNo) (row : BitVec 16) (s : State) : Ans :=
  let x := (s.block k).stag
  let hold (s : State) : State := (s.modStag k fun g => { g with paused := true }).stagCount k 15 1
  .next (if x.paused then s
    else match s.job k with
      | none => hold s
      | some j =>
        if j.run.err.isSome || decide (recTiles j.cmd.words ≤ j.run.otile) then hold s
        else if recK j.cmd.words ≤ row.toNat ∨ row.toNat < j.run.srow then s
        else
          let (s', r) := s.stagAdvance k j row.toNat
          if j.abandons r then s else hold (s'.setRun k r))

/-- A held stag resumes at SROW, once no self-test holds it (R167, R432). -/
def execStagResume (k : BlockNo) (s : State) : Ans :=
  .next (if s.curfew || s.sq.spots.any (fun x => x.running && x.unit == ⟨4, k.val⟩) then s
    else s.modStag k fun x => { x with paused := false })

end Sys2Proof.Machine
end

