-- ==== Sys2Proof/Machine/Curfew.lean ====
section
/-! DEFINITION. Curfew and retired units: what entering curfew does, and how the floor plan record changes (R415, R416,
R430, R434, R439, R440). -/

namespace Sys2Proof.Machine

/-! ## The floor plan record -/

/-- Adds a RETLOG entry to the floor plan record; its cause has no coding in the spec (R415). -/
def State.logRetire (s : State) (kind : Byte) (unit : Nat) : State :=
  let f := s.sq.fp
  { s with
    fresh := s.fresh + 1
    sq := { s.sq with fp := { f with
      retlog := ((s.time, kind, unit, (Config.free s.fresh).setWidth 8) :: f.retlog).take 256
      time := s.time, dirty := true } } }

/-- Changes the floor plan. -/
def State.modPlan (s : State) (f : FloorPlan → FloorPlan) : State := { s with sq := { s.sq with fp := f s.sq.fp } }

/-- A list of unit numbers with one more, each once. -/
def addUnit (l : List Nat) (n : Nat) : List Nat := if l.contains n then l else l ++ [n]

/-- Retires a tile (R415, R416). -/
def State.retireTile (s : State) (t : Nat) : State :=
  if s.sq.fp.tiles.contains t then s
  else
    let s := (s.logRetire 3 t).modPlan fun f => { f with tiles := addUnit f.tiles t }
    if (s.tile t).core.run = .unreleased then s
    else s.modTile t fun x => { x with core := { x.core with run := .stopped } }

/-- Retires a stag (R415). -/
def State.retireStag (s : State) (k : Nat) : State :=
  if s.sq.fp.stags.contains k then s
  else (s.logRetire 4 k).modPlan fun f => { f with stags := addUnit f.stags k }

/-- Retires a block-store bank (R415, R416). -/
def State.retireBank (s : State) (n : Nat) : State :=
  if s.sq.fp.banks.contains n then s
  else (s.logRetire 2 n).modPlan fun f => { f with banks := addUnit f.banks n }

/-! ## Keys that go (R395, R409) -/

/-- Zeroises every partition's keys in every key table, and ends every exchange in progress (R395, R409). -/
def State.zeroiseKeys (s : State) : State :=
  let open_ := (s.parts.filter fun e => e.2.keying = .exchanging).map (·.1)
  let s := s.parts.foldl (fun (s : State) e => if e.2.inTables then s.rekeyGrants e.1 else s) s
  { s with
    parts := s.parts.map fun e => (e.1, { e.2 with keying := .unkeyed, inTables := false })
    sec := { s.sec with zeroised := s.sec.zeroised ++ open_ } }

/-! ## Curfew (R440) -/

/-- A block in curfew: its stag holds and its clock is gated. -/
def Block.curfew (b : Block) (cycles : Nat) : Block :=
  { b with stag := { b.stag with paused := true }, gatedAt := some (b.gatedAt.getD cycles), waking := false }

/-- The device enters curfew (R440): BOOTSTAT, every agent stops, the keys go where the measurement failed, the manager
hears of it, every block is gated and every quarter stands at OP 7 with its PLL running. -/
def State.enterCurfew (s : State) (cause : Byte) : State :=
  if s.curfew then s
  else
    let s := { s with
      sq := { s.sq with phase := 7, cause }
      tiles := s.tiles.map fun e =>
        (e.1, if e.2.core.run = .running then { e.2 with core := { e.2.core with run := .stopped } } else e.2) }
    let s := if cause = 0x12 then s.zeroiseKeys else s
    let s := (List.range 1280).foldl (fun (s : State) k =>
      let c := (s.quarter (k / 64)).cycles
      s.modBlock k fun b => b.curfew c) s
    let s := (List.range 20).foldl (fun (s : State) q =>
      s.modQuarter q fun x => { x with clk := { x.clk with op := 7, step := none, plloff := false } }) s
    s.tellManager 5 cause.toNat

end Sys2Proof.Machine
end

