-- ==== Sys2Proof/Machine/BringUp.lean ====
section
/-! DEFINITION. Power-on: the phases of bring-up, their failures, and the device reset (R381, R386, R410 to R416, R426). -/

namespace Sys2Proof.Machine

/-! ## The device reset (R426) -/

/-- The device restarts at phase 1, or waits for RESET# to rise (R482): every unit takes its reset values. What lies
outside the reset stays: device time, the module, the boot flash, and the device log (R410, R426, R441). -/
def State.deviceReset (s : State) : State :=
  { State.reset with
    pending := s.pending, time := s.time, ticks := s.ticks, fresh := s.fresh, nextId := s.nextId, out := s.out
    module := s.module
    sq := { Square.reset with
      phase := if s.module.resetLow || !s.module.powerGood then 0 else 1
      dlog := s.sq.dlog, flash := s.sq.flash, fp := s.sq.flash.fp, pgTime := s.sq.pgTime } }

/-! ## Phases 1 and 2 (R381, R386, R410, R412) -/

/-- The Square's phase in progress. -/
def State.inPhase (s : State) (k : Nat) : Bool := s.sq.phase.toNat == k && !s.sq.ready

/-- An entry of the Square's device log whose contents the spec does not give. -/
def State.noteDevice (s : State) : State :=
  let v := Config.free s.fresh
  let e : VioEntry := { time := s.time, addr := v.setWidth 56, src := v.extractLsb' 56 4, write := bit v 60
                        srcid := (Config.free (s.fresh + 1)).setWidth 16, reason := (Config.free (s.fresh + 1)).extractLsb' 16 8 }
  { s with fresh := s.fresh + 2, sq := { s.sq with dlog := s.sq.dlog.addDevice e } }

/-- Whether a device with a UID takes a signed object of a type from one of the signers that may sign it (R383 to R385). -/
def objAccepted (own : Word) (type : Byte) (signers : List Byte) (h : ObjHeader) : Bool :=
  h.edOk && h.pqOk && !h.rsv && h.magic == 0x20640B5C && h.type == type && h.hver == 1 && signers.contains h.keyid
    && h.bodylen.toNat % 8 == 0 && decide (h.bodylen.toNat ≤ 0xF0000)
    && (h.uid == own || (type == 1 && h.uid == 0)) && (type == 3 || h.gen == 0)

/-- The version of a valid firmware image (R386). -/
def fwValid (own : Word) (x : FwImage) : Option Word :=
  if objAccepted own 1 [0] x.hdr && x.digestsOk then some x.hdr.version else none

/-- The configuration that a flash part gives, where its records are accepted (R385, R386). -/
def cfgValid (own : Word) (x : CfgRecords) : Option OpRecord :=
  if objAccepted own 2 [0] x.owner && objAccepted own 2 [1] x.oper then some x.body else none

/-- The configuration that the boot finds: that of part A, or else that of part B (R386). -/
def foundRecord (f : BootFound) : Option OpRecord := (f.cfgA.bind (cfgValid f.uid)).or (f.cfgB.bind (cfgValid f.uid))

/-- The floor plan that a record in flash gives (R415). -/
def FloorPlan.ofRecord (r : PlanRecord) : FloorPlan :=
  { hbm := r.hbm, ddr := r.ddr, port := r.port, lane := r.lane, ucie := r.ucie, tiles := r.tiles, stags := r.stags
    banks := r.banks, gen := r.hdr.gen, time := r.time, retlog := r.retlog.take 256, dirty := false }

/-- Of two valid floor plan records the one with the higher GEN; an alias key of this device signs one (R385, R386). -/
def newerPlan (own : Word) (a b : Option PlanRecord) : Option PlanRecord :=
  match a.filter fun x => objAccepted own 3 [2] x.hdr, b.filter fun x => objAccepted own 3 [2] x.hdr with
  | some x, some y => some (if x.hdr.gen < y.hdr.gen then y else x)
  | some x, none => some x
  | none, y => y

/-- The floor plan that the boot takes: the valid record with the higher GEN, or none, to be rebuilt from this boot's self-test,
and the loss is logged (R386). -/
def State.takePlan (s : State) (a b : Option PlanRecord) : State :=
  match newerPlan s.sq.uid a b with
  | some r => s.modPlan fun _ => .ofRecord r
  | none => (s.modPlan fun _ => .reset).noteDevice

/-- Phase 1 ends: which Square is active, the firmware and the records that are valid (R381, R386, R412). -/
def execPhaseSquareEnd (f : BootFound) (s : State) : Ans :=
  .next (if !s.inPhase 1 then s
    else
      let s := { s with sq := { s.sq with
        uds0 := f.uds0, uds1 := f.uds1, standby := f.uds0 && f.uds1
        active := if f.uds0 then some false else if f.uds1 then some true else none, running := f.uds0 || f.uds1
        uid := f.uid, record := foundRecord f
        flash := { s.sq.flash with fwA := f.fwA.bind (fwValid f.uid), fwB := f.fwB.bind (fwValid f.uid) } } }
      if s.sq.active.isNone then s.enterCurfew 0x01
      else if s.sq.flash.fwA.isNone && s.sq.flash.fwB.isNone then s.enterCurfew 0x02
      else match foundRecord f with
        | none => s.enterCurfew 0x03
        | some r =>
          let s := s.takePlan f.fpA f.fpB
          { s with
            sq := { s.sq with phase := 2 }
            dist := { s.dist with role := r.role, manager := if r.role = 2 then r.devnum else s.dist.manager } })

/-- Phase 2 ends: the clocks lock and the lamplighters start, which show the device's number (R196, R410). -/
def execPhaseClocksEnd (s : State) : Ans :=
  .next (if !s.inPhase 2 then s
    else match s.sq.record with
      | none => s
      | some r =>
        let s := (List.range 20).foldl (fun (s : State) q => s.modQuarter q fun x => { x with devnum := r.devnum }) s
        { s with sq := { s.sq with phase := 3 } })

/-! ## Phase 3 (R202, R204, R412, R416) -/

/-- The populated channels of an edge die, ascending. -/
def dieChannels (ch : BitVec 24) (d : Nat) : List Nat := ((List.range 8).filter fun k => bit ch (8 * d + k)).map (8 * d + ·)

/-- The channels in use once a retired channel counts as unpopulated: each edge die keeps as many, the highest-numbered
going first (R416). -/
def evenChannels (ch : BitVec 24) : BitVec 24 :=
  let l := (List.range 3).map (dieChannels ch)
  let n := l.foldl (fun m d => Nat.min m d.length) 8
  (l.flatMap (·.take n)).foldl (fun (w : BitVec 24) k => setBit w k true) 0

/-- Whether a population keeps R202. -/
def populationOk (ch : BitVec 24) (uniform : Bool) : Bool :=
  let n (d : Nat) : Nat := (dieChannels ch d).length
  uniform && n 0 == n 1 && n 1 == n 2 && decide (1 ≤ n 0)

/-- Phase 3 ends: stacks and channels that failed training twice are retired, and the population is checked (R412). -/
def execPhaseMemoryTrainingEnd (f : MemFound) (s : State) : Ans :=
  .next (if !s.inPhase 3 then s
    else
      let s := ((List.range 20).filter fun q => bit f.stackFail q && !bit s.sq.fp.hbm q).foldl
        (fun (s : State) q => (s.logRetire 9 (q * 64)).modPlan fun p => { p with hbm := setBit p.hbm q true }) s
      let s := ((List.range 24).filter fun c => bit f.chanFail c && !bit s.sq.fp.ddr c).foldl
        (fun (s : State) c => (s.logRetire 10 c).modPlan fun p => { p with ddr := setBit p.ddr c true }) s
      let left := f.populated &&& ~~~s.sq.fp.ddr
      let ch := if left = f.populated then left else evenChannels left
      let s := { s with pop := { s.pop with tall := f.tall, channels := ch, moduleGib := f.moduleGib.toNat } }
      if !populationOk ch f.uniform then s.enterCurfew 0x04
      else if s.tierSize < s.hostSize then s.enterCurfew 0x03
      else { s with sq := { s.sq with phase := 4 } })

/-! ## Phases 4 to 6 (R411 to R414) -/

/-- Phase 4 ends: units that failed self-test are retired, every line of DRAM is zero under its key, and the fabric ports
leave DOWN for TRAINING (R343, R411, R412). -/
def execPhaseTestEnd (tiles stags banks : List Nat) (s : State) : Ans :=
  .next (if !s.inPhase 4 then s
    else
      let s := tiles.foldl State.retireTile s
      let s := stags.foldl State.retireStag s
      let s := banks.foldl State.retireBank s
      let s := { s with mem := [], marks := [], rekeyed := [] }
      let s := ((List.range 18).filter fun p => !bit s.sq.fp.port p && (s.port p).state == 0).foldl
        (fun (s : State) p => s.modPort p Port.train) s
      { s with sq := { s.sq with phase := 5 } })

/-- Whether phase 5 no longer waits for a port: it has qualified, counts as measured, or is retired (R413). -/
def State.portsMeasured (s : State) : Bool :=
  (List.range 18).all fun p => bit s.sq.fp.port p || (s.port p).measured

/-- Phase 5 ends: lanes and modules that failed are retired, with a port that has none left (R338), and the host link is up on two modules or more (R366,
R413). -/
def execPhaseLinksEnd (ucie : BitVec 4) (badLanes : List Nat) (s : State) : Ans :=
  .next (if !s.inPhase 5 || !s.portsMeasured then s
    else
      let s := (badLanes.filter fun l => l < 72 && !bit s.sq.fp.lane l).foldl
        (fun (s : State) l =>
          ((s.logRetire 7 (l / 4)).modPlan fun p => { p with lane := setBit p.lane l true }).applyLanes (l / 4)) s
      let s := ((List.range 4).filter fun m => !bit ucie m && !bit s.sq.fp.ucie m).foldl
        (fun (s : State) m => (s.logRetire 8 m).modPlan fun p => { p with ucie := setBit p.ucie m true }) s
      let s := { s with host := { s.host with up := true } }.setUcie
      { s with sq := { s.sq with phase := 6 } })

/-- The floor plan record is written with GEN raised, to the parts in turn (R386, R434). -/
def State.writePlan (s : State) : State :=
  let f := { s.sq.fp with gen := s.sq.fp.gen + 1, dirty := false }
  { s with sq := { s.sq with fp := f, flash := { s.sq.flash with fp := f, nextFp := !s.sq.flash.nextFp } } }

/-- Phase 6 ends: tiles and stags that failed self-test are retired, the floor plan record is written, and the device is
ready: Media Status where the host link is up, and the boot descriptors are taken (R410, R414, R418). -/
def execPhaseComputeEnd (tiles stags : List Nat) (s : State) : Ans :=
  .next (if !s.inPhase 6 then s
    else
      let s := (stags.foldl State.retireStag (tiles.foldl State.retireTile s)).writePlan
      let boot := match s.sq.record with
        | some r => r.boot
        | none => []
      { s with
        host := { s.host with media := s.host.up }
        sq := { s.sq with
          ready := true, tready := BitVec.ofNat 32 ((s.time.toNat - s.sq.pgTime.toNat) / 1000000)
          descs := s.sq.descs ++ boot } })

/-- BOOTSTAT (R414). -/
def State.bootstat (s : State) : Word :=
  BitVec.ofNat 64 (s.sq.phase.toNat + 8 * s.sq.ready.toNat + 16 * s.sq.ucie.toNat + 256 * s.sq.cause.toNat
    + 2 ^ 32 * s.sq.tready.toNat)

end Sys2Proof.Machine
end

