-- ==== Sys2Proof/Machine/Intake.lean ====
section
/-! DEFINITION. Hive intake: the ring of a partition in a quarter, its watch and its entries (R331, R332). -/

namespace Sys2Proof.Machine

/-- What the Hive finds at a ring's control block: nothing that it can watch, its words PROD, CONS, SIZE and NOTE, or that another
device has still to answer (R331). -/
inductive RingLook where
  | unfit
  | wait
  | words (ws : List Byte)
  deriving DecidableEq, Repr

/-- Reads the control block, where it translates and its SIZE is in range (R331). -/
def State.ringLook (s : State) (q : Nat) (p : PartNo) : State × RingLook :=
  let va := (s.hive q p).intakeBase.toNat
  match s.hiveCity q p va kBoth false with
  | none => (s, .unfit)
  | some _ =>
    match s.hiveFetch q p (.intake q p.toNat) va 4 with
    | (s, none) => (s, .wait)
    | (s, some bs) =>
      let size := fld (bytesWord bs 2) 0 5
      (s, if 4 ≤ size ∧ size ≤ 16 then .words bs else .unfit)

/-- Changes a partition's intake. -/
def State.modIntake (s : State) (q : Nat) (p : PartNo) (f : Intake → Intake) : State :=
  s.modHive q p fun h => { h with intake := f h.intake }

/-- Takes the watch on PROD away, and whatever else the ring awaits: a watch on another device is asked back (R48, R331, R346). -/
def State.dropIntake (s : State) (q : Nat) (p : PartNo) : State :=
  let rd : Reader := .intakeWatch q p.toNat
  let mine (o : TxOwner) : Bool := match o with
    | .far who _ => who == rd
    | _ => false
  let asked := s.txs.filter fun t => mine t.owner && !t.unwatched
  let s := { s with
    watches := s.watches.filter fun w => w.who ≠ Watcher.intake q p.toNat
    txs := s.txs.map fun (t : Transaction) => if mine t.owner then { t with unwatched := true } else t
    txWait := s.txWait.filter fun w => !mine w.owner }
  let s := asked.foldl (fun (s : State) t =>
    s.sendUnwatch p (s.epochOf q p) t.city t.txid) s
  (s.dropFar rd).dropFar (.intake q p.toNat)

/-- A ring that cannot be watched: its round ends, and the Square is told (R331). -/
def State.loseRing (s : State) (q : Nat) (p : PartNo) : State :=
  ((s.dropIntake q p).modIntake q p fun _ => { active := false, cons := 0, applied := false, count := 0, dead := true }).emit
    (.toSquare 6 q p.toNat)

/-- Places the watch on PROD for CONS + 1, once the control block has been read; a ring that cannot be watched is told to the
Square (R331). -/
def State.tryIntake (s : State) (q : Nat) (p : PartNo) : State :=
  match s.ringLook q p with
  | (s, .wait) => s
  | (s, .unfit) => s.loseRing q p
  | (s, .words ws) =>
    let cons := bytesWord ws 1
    let s := (s.dropFar (.intake q p.toNat)).modIntake q p fun k => { k with cons }
    match s.hiveCity q p (s.hive q p).intakeBase.toNat kBoth false with
    | none => s
    | some city =>
      let epoch := s.epochOf q p
      if s.isLocal city then
        { s with watches := s.watches ++ [{ addr := devAddr city, x := cons + 1, who := .intake q p.toNat, part := p, epoch }] }
      else (s.farAccess (.intakeWatch q p.toNat) 0x07 p epoch city 0 0 (natBytes 8 (cons + 1).toNat)).1

/-- Places the watch on PROD anew while EN = 1 (R331). -/
def State.placeIntake (s : State) (q : Nat) (p : PartNo) : State :=
  let s := s.dropIntake q p
  if (s.hive q p).intakeEn then s.tryIntake q p else s

/-- A write of the INTAKE register: EN places the watch or takes it away (R317, R331). -/
def State.writeIntake (s : State) (q : Nat) (p : PartNo) (v : Word) : State :=
  let s := s.modHive q p fun h =>
    { h with intakeEn := bit v 0, intakeBase := v &&& 0xFFFFFFFFFFFFC0
             intake := if bit v 0 then { h.intake with dead := false }
               else { active := false, cons := 0, applied := false, count := 0, dead := false } }
  if (s.hive q p).intake.active then s else s.placeIntake q p

/-- A round of intake starts at CONS (R331). -/
def State.startRound (s : State) (q : Nat) (p : PartNo) : State :=
  (s.dropIntake q p).modIntake q p fun k => { k with active := true, applied := false, count := 0 }

/-- The watch on PROD fires, and a round of intake starts; on another device, its answer is awaited, and a watch that it has not
taken is placed again (R331, R346). -/
def execIntakeWatchFires (q : QuarterNo) (p : PartNo) (s : State) : Ans :=
  .next (let h := s.hive q.val p
    if s.curfew || !h.intakeEn || h.intake.active || h.intake.dead then s
    else match s.watches.find? fun w => w.who = Watcher.intake q.val p.toNat with
      | some w => if w.x.toNat ≤ s.valueAt w.addr 8 then s.startRound q.val p else s
      | none =>
        match s.far.find? fun x => x.who == Reader.intakeWatch q.val p.toNat with
        | some x =>
          match x.ans with
          | none => s
          | some (_, bad) => if bad then s.placeIntake q.val p else s.startRound q.val p
        | none => s.tryIntake q.val p)

/-- The va of entry i of a ring of 2^size entries (R331). -/
def State.ringEntry (s : State) (q : Nat) (p : PartNo) (i size : Nat) : Nat :=
  (s.hive q p).intakeBase.toNat + 64 + i % 2 ^ size * 64

/-- Writes bytes of the ring for the Hive; nothing where nothing is mapped. -/
def State.ringWrite (s : State) (q : Nat) (p : PartNo) (va : Nat) (bs : List Byte) : State :=
  match s.hiveCity q p va kStore false with
  | none => s
  | some city => (s.partWrite (whoHive q p) (.intake q p.toNat) p (s.epochOf q p) city bs).1

/-- Writes RESULT of the entry at a va (R332). -/
def State.intakeResult (s : State) (q : Nat) (p : PartNo) (va r : Nat) : State :=
  (s.ringWrite q p (va + 0x38) (natBytes 8 r)).modIntake q p fun k => { k with applied := true }

/-- RESULT of an operation's exception (R332). -/
def intakeCode : Option Byte → Nat
  | none => 1
  | some c => if c = 0x59 then 3 else 4

/-- A change of the stream that the entry at a va names, as a supervisor's instruction makes it (R331, R332). -/
def State.intakeOn (s : State) (q : Nat) (p : PartNo) (va : Nat) (h : Word) (f : State → Nat → Nat → HiveAns) : State :=
  match s.named p h with
  | none => s.intakeResult q p va 3
  | some (hq, i) =>
    let (s, _, exc) := f s hq i
    s.intakeResult q p va (intakeCode exc)

/-- Applies an entry's words as operation `op` (R332). A NEW in a quarter that does not accept the partition's operations meets
the condition of HIVE_ACCESS (R318, R327). -/
def State.intakeApply (s : State) (q : Nat) (p : PartNo) (op va : Nat) (bs : List Byte) : State :=
  let w := bytesWord bs 0
  let h := bytesWord bs 1
  let d := bytesWord bs 2
  (match op with
  | 1 =>
    if !s.hiveOpen q p then s.intakeResult q p va 3
    else match s.hnew q p d (w.extractLsb' 4 3) (bit w 7) false #v[bytesWord bs 3, bytesWord bs 4, bytesWord bs 5, 0] with
      | (s, some i) => (s.ringWrite q p (va + 8) (natBytes 8 (s.handle q i).toNat)).intakeResult q p va 1
      | (s, none) => s.intakeResult q p va 2
  | 2 => s.intakeOn q p va h fun s q i => s.hset q i 0 2 true
  | 3 => s.intakeOn q p va h fun s q i => s.hset q i 0 4 true
  | 4 => s.intakeOn q p va h fun s q i => s.hset q i 0 5 true
  | 5 => s.intakeOn q p va h fun s q i => s.hfree q i
  | _ => s.intakeOn q p va h fun s q i => s.hset q i 2 d true).hiveWalked q

/-- Processes the current entry as operation `op`, once it has been read; an entry with a reserved OP or field is answered 0x05
whichever operation is named, and an entry of another operation waits for its own (R331, R332). -/
def State.intakeEntry (s : State) (q : Nat) (p : PartNo) (op : Nat) : State :=
  let k := (s.hive q p).intake
  if s.curfew || !k.active || k.applied then s
  else match s.ringLook q p with
    | (s, .wait) => s
    | (s, .unfit) => s.loseRing q p
    | (s, .words ws) =>
      let va := s.ringEntry q p k.cons.toNat (fld (bytesWord ws 2) 0 5)
      match s.hiveFetch q p (.intake q p.toNat) va 8 with
      | (s, none) => s
      | (s, some bs) =>
        let w := bytesWord bs 0
        let this := fld w 0 4
        if this = 0 ∨ 6 < this ∨ fld w 8 24 ≠ 0 then (s.dropFar (.intake q p.toNat)).intakeResult q p va 5
        else if this ≠ op then s
        else (s.dropFar (.intake q p.toNat)).intakeApply q p op va bs

/-- An intake NEW entry creates a stream and writes its handle (R332). -/
def execIntakeNew (q : QuarterNo) (p : PartNo) (s : State) : Ans := .next (s.intakeEntry q.val p 1)

/-- An intake READY entry makes its stream READY (R315, R332). -/
def execIntakeReady (q : QuarterNo) (p : PartNo) (s : State) : Ans := .next (s.intakeEntry q.val p 2)

/-- An intake PAUSE entry pauses its stream (R315, R332). -/
def execIntakePause (q : QuarterNo) (p : PartNo) (s : State) : Ans := .next (s.intakeEntry q.val p 3)

/-- An intake FINISH entry finishes its stream (R315, R332). -/
def execIntakeFinish (q : QuarterNo) (p : PartNo) (s : State) : Ans := .next (s.intakeEntry q.val p 4)

/-- An intake FREE entry frees its stream (R315, R332). -/
def execIntakeFree (q : QuarterNo) (p : PartNo) (s : State) : Ans := .next (s.intakeEntry q.val p 5)

/-- An intake DEADLINE entry sets its stream's deadline (R332). -/
def execIntakeDeadline (q : QuarterNo) (p : PartNo) (s : State) : Ans := .next (s.intakeEntry q.val p 6)

/-- Whether a write of the ring is still unacknowledged. -/
def State.ringOwes (s : State) (q : Nat) (p : PartNo) : Bool :=
  s.far.any fun x => x.who == Reader.intake q p.toNat && s.owes (.far (.intake q p.toNat) x.id)

/-- The word at NOTE takes the round's count, as an MCNT (R331). -/
def State.noteRound (s : State) (q : Nat) (p : PartNo) (va : Nat) (n : Word) : State :=
  if va = 0 then s
  else match s.hiveCity q p va kBoth false with
    | some city => s.countCity (whoHive q p) .other p (s.epochOf q p) city n
    | none => s

/-- RESULT is acknowledged and CONS advances; when CONS reaches PROD, the word at NOTE takes the round's count, and the
watch is placed again (R331). -/
def execIntakeConsAdvance (q : QuarterNo) (p : PartNo) (s : State) : Ans :=
  .next (
    let k := (s.hive q.val p).intake
    if s.curfew || !k.active || !k.applied || s.ringOwes q.val p then s
    else match s.ringLook q.val p with
      | (s, .wait) => s
      | (s, .unfit) => s.loseRing q.val p
      | (s, .words ws) =>
        let cons := k.cons + 1
        let s := (s.dropFar (.intake q.val p.toNat)).ringWrite q.val p ((s.hive q.val p).intakeBase.toNat + 8) (natBytes 8 cons.toNat)
        let s := (s.dropFar (.intake q.val p.toNat)).hiveWalked q.val
        if (bytesWord ws 0).toNat ≤ cons.toNat then
          let s := s.noteRound q.val p (fld (bytesWord ws 3) 0 56) (k.count + 1)
          (s.modIntake q.val p fun k => { k with active := false, cons := 0, applied := false, count := 0 }).placeIntake q.val p
        else s.modIntake q.val p fun k => { k with cons, applied := false, count := k.count + 1 })

end Sys2Proof.Machine
end

