-- ==== Sys2Proof/Machine/Partition.lean ====
section
/-! DEFINITION. Partitions: descriptors, grants, the clearing of a quarter, the boot table, the image and the release, and
the end of a key exchange (R193, R311, R394, R403, R418 to R420). -/

namespace Sys2Proof.Machine

/-! ## Quarters and their tiles -/

/-- The quarters of a descriptor. -/
def PartDesc_quarters (d : PartDesc) : List Nat := (List.range 20).filter fun q => bit d.qmask q

/-- The record of a partition that exists. -/
def State.part? (s : State) (p : Nat) : Option Partition := (s.parts.find? fun e => e.1 = p).map (·.2)

/-- The quarters of a partition. -/
def State.quartersOf (s : State) (p : Nat) : List Nat :=
  match s.part? p with
  | some x => PartDesc_quarters x.desc
  | none => []

/-- The tiles of a quarter. -/
def quarterTiles (q : Nat) : List Nat := (List.range 1024).map (q * 1024 + ·)

/-- The blocks of a quarter. -/
def quarterBlocks (q : Nat) : List Nat := (List.range 64).map (q * 64 + ·)

/-- The cycles that CYCLE of a tile shows beyond its own count (R58). -/
def State.clockPart (s : State) (t : Nat) : Word :=
  let b := s.block (blockOf t)
  BitVec.ofNat 64 (b.gatedAt.getD (s.quarter (quarterOf t)).cycles - b.lost)

/-- A tile at its reset values, whose CYCLE starts at 0. -/
def State.freshTile (s : State) (t : Nat) (p : PartNo) : Tile :=
  { Tile.reset with part := p, core := { Core.reset with cycle := 0 - s.clockPart t } }

/-- Gives every tile of a quarter the id of a partition in TILEID (R420). -/
def State.setTilePart (s : State) (q : Nat) (p : PartNo) : State :=
  (quarterTiles q).foldl (fun (s : State) t => s.modTile t fun x => { x with part := p }) s

/-- Device address of a block store (R194). -/
def storeBase (k : Nat) : Nat := 0x80000000000 + k * 0x2000000

/-- Zeroes a range of a store (R193). -/
def State.zeroRange (s : State) (lo hi : Nat) : State :=
  { s with mem := Memory.clear lo hi s.mem, marks := Tab.clear lo hi s.marks }

/-- Zeroes a grant's share of the block stores of a quarter, which another partition's share outlives (R193, R403, R421). -/
def State.zeroShare (s : State) (q : Nat) (g : Grant) : State :=
  (quarterBlocks q).foldl (fun (s : State) k =>
    let lo := storeBase k + g.bsBase.toNat * 0x100000
    s.zeroRange lo (lo + g.bsSize.toNat * 0x100000)) s

/-- What a partition's Hive slice in a quarter becomes at a partition reset (R336): its records are FREE with GEN
incremented, its moves go, its register block takes its reset values. -/
def State.clearHive (s : State) (q : Nat) (p : PartNo) : State :=
  ((s.dropIntake q p).dropFar (.journal q p.toNat)).modQuarter q fun x =>
    { x with
      streams := x.streams.map fun e =>
        if e.2.part = p ∧ e.2.state ≠ 0 then (e.1, { Stream.reset with gen := nextGen e.2.gen, part := e.2.part }) else e
      moves := x.moves.filter fun m => m.part ≠ p
      hive := Tab.erase p.toNat x.hive }

/-- Clears the tiles, the tile memories and the blocks' own state of a quarter, with the requests of its agents (R193,
R403). -/
def State.clearTiles (s : State) (q : Nat) : State :=
  let mine (t : Nat) : Bool := quarterOf t == q
  let s := { s with
    tiles := s.tiles.filter fun e => !mine e.1
    blocks := s.blocks.filter fun e => e.1 / 64 ≠ q
    reqs := s.reqs.filter fun r => !mine r.tile
    attempts := s.attempts.filter fun a => !mine a.tile }
  let s := s.modQuarter q fun x => { x with walks := [], wcache := [] }
  let s := s.zeroRange (tileMemBase (q * 1024)) (tileMemBase (q * 1024) + 0x10000000)
  (quarterTiles q).foldl (fun (s : State) t => s.setTile t (s.freshTile t 0)) s

/-- Clears a quarter that changes owner: its tiles, its stores, and the old partition's Hive records (R403). -/
def State.clearQuarter (s : State) (q : Nat) (old : Option PartNo) : State :=
  let s := (s.clearTiles q).zeroRange (storeBase (q * 64)) (storeBase (q * 64 + 64))
  match old with
  | some p => s.clearHive q p
  | none => s

/-! ## Epochs (R311) -/

/-- Adds 1 to a partition's epoch in every quarter and every edge die (R311). -/
def State.raiseEpoch (s : State) (p : PartNo) : State :=
  let e := Tab.read 0 p.toNat (s.quarter 0).pepoch + 1
  let s := (List.range 20).foldl (fun (s : State) q =>
    s.modQuarter q fun x => { x with pepoch := Tab.write p.toNat e x.pepoch }) s
  (List.range 3).foldl (fun (s : State) d => s.modEdge d fun x => { x with pepoch := Tab.write p.toNat e x.pepoch }) s

/-! ## Grants (R418 to R420) -/

/-- The partitions that hold a quarter. -/
def State.holders (s : State) (q : Nat) : List Nat := (s.quarter q).grants.map (·.1)

/-- Whether the range base to base + size − 1 meets none of the ranges taken. -/
def rangeFree (taken : List (Nat × Nat)) (base size : Nat) : Bool :=
  taken.all fun r => decide (base + size ≤ r.1) || decide (r.1 + r.2 ≤ base)

/-- A contiguous place of `size` units below `limit` beside the ranges taken; which one the Square takes the spec does
not give. -/
def placeRange (taken : List (Nat × Nat)) (limit size : Nat) (choice : Word) : Option Nat :=
  let fits := (List.range (limit + 1 - size)).filter fun b => decide (size ≤ limit) && rangeFree taken b size
  fits[choice.toNat % fits.length]?

/-- The block-store ranges taken in a quarter, in MiB. -/
def State.bsTaken (s : State) (q : Nat) : List (Nat × Nat) :=
  (s.quarter q).grants.map fun g => (g.2.bsBase.toNat, g.2.bsSize.toNat)

/-- The HBM4 ranges taken in a quarter, in GiB. -/
def State.hbTaken (s : State) (q : Nat) : List (Nat × Nat) :=
  (s.quarter q).grants.map fun g => (g.2.hbBase.toNat, g.2.hbSize.toNat)

/-- The DDR5 ranges taken, in GiB. -/
def State.ddTaken (s : State) : List (Nat × Nat) :=
  (s.quarters.flatMap fun e => e.2.grants).map fun g => (g.2.ddBase.toNat, g.2.ddSize.toNat)

/-- Whether a descriptor's own fields are legal (R418). -/
def PartDesc_ok (d : PartDesc) : Bool :=
  !d.reserved && d.qmask != 0 && decide (1 ≤ d.bssize.toNat) && decide (d.bssize.toNat ≤ 20)
    && decide (1 ≤ d.hbmgib.toNat) && decide (d.hbmgib.toNat ≤ 64) && decide (d.ddrgib.toNat ≤ 6144)
    && decide (1 ≤ d.imglen.toNat) && decide (d.imglen.toNat ≤ 0x4000000) && !bit d.entry 0

/-- The grant of a partition in a quarter, placed; none where one does not fit (R419, R420). -/
def State.placeGrant (s : State) (d : PartDesc) (dd q : Nat) : Option Grant :=
  match placeRange (s.bsTaken q) 20 d.bssize.toNat (Config.free (s.fresh + 2 * q)),
        placeRange (s.hbTaken q) (s.stackSize / gib) d.hbmgib.toNat (Config.free (s.fresh + 2 * q + 1)) with
  | some b, some h =>
    some { bsBase := BitVec.ofNat 5 b, bsSize := d.bssize, hbBase := BitVec.ofNat 6 h, hbSize := d.hbmgib
           ddBase := BitVec.ofNat 13 dd, ddSize := d.ddrgib, sliced := false }
  | _, _ => none

/-- The grants of a descriptor in its quarters, or none where the Square refuses it (R420, step 1); once unlocked it
accepts only SELFKEY = 1 (R465). -/
def State.plan (s : State) (d : PartDesc) : Option (List (Nat × Grant)) :=
  let qs := PartDesc_quarters d
  let shared := qs.all fun q => (s.holders q).all fun h =>
    d.share && match s.part? h with
      | some x => x.desc.share
      | none => true
  if !PartDesc_ok d || (s.sec.unlocked && !d.selfkey) || Tab.has d.part.toNat s.parts || !shared || qs.any (fun q => bit s.sq.fp.hbm q) then none
  else
    let dd := if d.ddrgib = 0 then some 0
      else placeRange s.ddTaken ((s.tierSize - s.hostSize) / gib) d.ddrgib.toNat (Config.free (s.fresh + 40))
    match dd with
    | none => none
    | some dd =>
      let l := qs.map fun q => (q, s.placeGrant d dd q)
      if l.all fun e => e.2.isSome then some (l.filterMap fun e => e.2.map fun g => (e.1, g)) else none

/-- SLICE.SLICED of a quarter's grants: whether partitions share it (R419). -/
def State.markSliced (s : State) (q : Nat) : State :=
  s.modQuarter q fun x =>
    { x with grants := x.grants.map fun g => (g.1, { g.2 with sliced := decide (1 < x.grants.length) }) }

/-! ## The boot table, the image and the release (R420, steps 7 to 10) -/

/-- A leaf with R, W and X set and U clear (R208, R420). -/
def leafOf (city : Nat) : Nat := city + 0x1F

/-- The 1 GiB leaves of a partition: its DRAM grants and the block stores of its quarters (R420). -/
def State.bigPages (s : State) (p : Nat) : List Nat :=
  let pages (lo hi : Nat) : List Nat := (List.range ((hi - lo) / gib)).map fun i => lo + i * gib
  ((s.grantRanges p).flatMap fun r => pages r.1 r.2)
    ++ (s.quartersOf p).flatMap fun q => pages (storeBase (q * 64)) (storeBase (q * 64 + 64))

/-- The 2 MiB leaves of a partition: the tile memories of its quarters (R420). -/
def State.smallPages (s : State) (p : Nat) : List Nat :=
  (s.quartersOf p).flatMap fun q => (List.range 128).map fun i => tileMemBase (q * 1024) + i * 0x200000

/-- The entries of the boot table: table address, index and word. The root comes first, then the level-1 table, then a
level-2 table for each 512 GiB and a level-3 table for each GiB of 2 MiB pages, in the order of their addresses. -/
def State.bootEntries (s : State) (p base : Nat) : List (Nat × Nat × Nat) :=
  let city (a : Nat) : Nat := s.cityOf a
  let big := s.bigPages p
  let small := s.smallPages p
  let l2 := sortBy id ((big ++ small).map (· / 0x8000000000)).eraseDups
  let l3 := sortBy id (small.map (· / gib)).eraseDups
  let at2 (x : Nat) : Nat := base + 0x1000 * (2 + l2.findIdx (· == x))
  let at3 (x : Nat) : Nat := base + 0x1000 * (2 + l2.length + l3.findIdx (· == x))
  [(base, city 0 / 2 ^ 48 % 256, base + 0x1000 + 1)]
    ++ l2.map (fun x => (base + 0x1000, city (x * 0x8000000000) / 2 ^ 39 % 512, at2 x + 1))
    ++ big.map (fun a => (at2 (a / 0x8000000000), a / gib % 512, leafOf (city a)))
    ++ l3.map (fun x => (at2 (x * gib / 0x8000000000), x % 512, at3 x + 1))
    ++ small.map (fun a => (at3 (a / gib), a / 0x200000 % 512, leafOf (city a)))

/-- First device address of a partition's HBM4 grant in its lowest-numbered quarter (R420). -/
def State.grantBase (s : State) (p : Nat) : Nat :=
  let q := s.lowQuarter p
  q * 0x1000000000 + (Tab.read .reset p (s.quarter q).grants).hbBase.toNat * gib

/-- The first good tile of a partition's quarters (R394, R431). -/
def State.firstGood (s : State) (p : Nat) : Option Nat :=
  ((s.quartersOf p).flatMap quarterTiles).find? fun t => !s.sq.fp.tiles.contains t

/-- The application key comes to the end of its tile's memory; that of a partition which does not run yet waits for its first
switch-in (R420, R423). -/
def State.placeKapp (s : State) (p t : Nat) (kapp : List Byte) : State :=
  let a := tileMemBase t + 0x3FFE0
  if (s.quarter (quarterOf t)).running = some (BitVec.ofNat 6 p) then s.storeBytes whoSquare.agent a kapp
  else { s with parts := s.parts.map fun (e : Nat × Partition) =>
    if e.1 = p then (e.1, { e.2 with savedMem := Memory.writeAll a kapp e.2.savedMem }) else e }

/-- Steps 7 to 10 of R420 for a keyed partition: the boot table and PTROOT, the image and its check, KAPP, and the
release. An image that does not match leaves the partition unreleased and is reported. -/
def State.buildPart (s : State) (p : Nat) : State :=
  match s.part? p with
  | none => s
  | some x =>
    if x.keying ≠ .keyed then s
    else
      let base := s.grantBase p
      let s := (List.range 23).foldl (fun (s : State) i =>
        s.storeMem whoSquare (base + 0x1000 * i) (List.replicate 0x1000 0)) s
      let s := (s.bootEntries p base).foldl (fun (s : State) e => s.storeMem whoSquare (e.1 + 8 * e.2.1) (natBytes 8 e.2.2)) s
      let s := (s.quartersOf p).foldl (fun (s : State) q =>
        s.modQuarter q fun y => { y with ptroot := Tab.write p (BitVec.ofNat 64 (base + 1)) y.ptroot }) s
      let img := if x.desc.imgsrc then s.bytesAt x.desc.imgaddr.toNat x.desc.imglen.toNat else x.img
      let ok := x.imgOk && img == x.img
      let s := s.storeMem whoSquare (base + 0x100000) img
      if !ok then (s.modPart p fun y => { y with released := false }).tellManager 6 p
      else
        let kapp := (List.range 4).flatMap fun i => natBytes 8 (crypto 10 (64 * s.fresh + p) i).toNat
        let s := match s.firstGood p with
          | some t => { s with fresh := s.fresh + 1 }.placeKapp p t kapp
          | none => s
        s.modPart p fun y => { y with released := true }

/-- The va at which a partition's tiles start: the image plus ENTRY (R420). -/
def State.entryPc (s : State) (p : Nat) : BitVec 56 :=
  match s.part? p with
  | some x => BitVec.ofNat 56 (s.cityOf (s.grantBase p + 0x100000) + x.desc.entry.toNat)
  | none => 0

/-! ## Creation (R418 to R420) -/

/-- Creates a partition whose grants are placed: steps 2 to 10 of R420 as far as they go without an exchange of keys. -/
def State.createPart (s : State) (d : PartDesc) (img : List Byte) (imgOk : Bool) (l : List (Nat × Grant)) : State :=
  let p := d.part
  let s := (l.filter fun e => (s.holders e.1).isEmpty).foldl (fun (s : State) e => s.clearQuarter e.1 none) s
  let s := l.foldl (fun (s : State) e =>
    (s.modQuarter e.1 fun x => { x with grants := Tab.write p.toNat e.2 x.grants }).markSliced e.1) s
  let s := s.raiseEpoch p
  let s := l.foldl (fun (s : State) e =>
    if (s.quarter e.1).running.isNone then
      (s.modQuarter e.1 fun x => { x with running := some p }).setTilePart e.1 p
    else s) s
  let img := if d.imgsrc then s.bytesAt d.imgaddr.toNat d.imglen.toNat else img
  let shown := d.vfexp && match s.sq.record with
    | some r => bit r.vfexp p.toNat
    | none => false
  let s := { s with
    fresh := s.fresh + 41
    parts := Tab.write p.toNat
      { desc := d, keying := .unkeyed, img, imgOk, released := false, inTables := false
        saved := [], savedBlocks := [], savedMem := [], ending := none } s.parts
    host := { s.host with exposed := setBit s.host.exposed p.toNat shown } }
  let s := s.modHreg p.toNat fun h => { h with vlog := .reset }
  if d.selfkey then (s.installKeys p.toNat).buildPart p.toNat else s

/-- A partition descriptor that the Square has accepted: refused under step 1 of R420, or the partition is created
(R418, R420). -/
def execPartitionDescriptor (d : PartDesc) (img : List Byte) (imgOk : Bool) (s : State) : Ans :=
  .next (if !s.sq.ready || !s.sq.running || s.curfew || !s.sq.descs.contains d then s
    else
      let s := { s with sq := { s.sq with descs := s.sq.descs.erase d } }
      match s.plan d with
      | some l => s.createPart d img imgOk l
      | none => s)

/-- KX_FIN: the keys are installed and KX_DONE answers, and creation goes on; a failed check gives CONFIRM (R394,
R395). -/
def execKxFin (part : BitVec 8) (confirms : Bool) (s : State) : Ans :=
  .next (let p := part.toNat
    if !s.host.up then s
    else if s.sec.zeroised.contains p then { s with sec := { s.sec with zeroised := s.sec.zeroised.erase p } }.vdError 6
    else match s.part? p with
      | none => s.vdError 3
      | some x =>
        if x.keying = .keyed then s.vdError 2
        else if x.keying = .exchanging ∧ confirms then
          ((s.installKeys p).spdm (.vendor 0x13) [crypto 11 p s.fresh]).buildPart p
        else (s.modPart p fun y => { y with keying := .unkeyed }).vdError 5)

/-- The Square's release message starts a good tile of a released partition at its entry (R420, step 10). -/
def execRelease (t : TileNo) (pc : BitVec 56) (s : State) : Ans :=
  .next (let x := s.tile t.val
    match s.part? x.part.toNat with
    | some p =>
      if p.released && p.ending.isNone && (s.quarter (quarterOf t.val)).running == some x.part && !s.curfew
          && x.core.run == .unreleased && x.resetting.isNone && !s.sq.fp.tiles.contains t.val
          && pc == s.entryPc x.part.toNat then
        s.setTile t.val { x with core := { x.core with run := .running, pc } }
      else s
    | none => s)

end Sys2Proof.Machine
end

