-- ==== Sys2Proof/Machine/Tally.lean ====
section
/-! DEFINITION. Tallies, their watches and the gridlock detector (R282 to R288). -/

namespace Sys2Proof.Machine

/-- A block's tally. -/
def State.tally (s : State) (k i : Nat) : Tally := Tab.read .reset i (s.block k).tallies

/-- Changes a tally. -/
def State.modTally (s : State) (k i : Nat) (f : Tally → Tally) : State :=
  s.modBlock k fun b => { b with tallies := Tab.write i (f (Tab.read .reset i b.tallies)) b.tallies }

/-- Device address of a tally's registers (R282). -/
def tallyAddr (k i : Nat) : Nat := 0xF0041000000 + k / 64 * 0x100000000 + k % 64 * 0x1000 + i * 0x40

/-- Whether a tally applies nothing (R284). -/
def Tally.frozen (x : Tally) : Bool := x.ovf || x.unf

/-! ## The tally instructions (R283) -/

/-- The operand byte of TALLY with function code fn. -/
def tallyByte (fn : Nat) (b : BitVec 6) : Byte := BitVec.ofNat 8 (fn + 4 * b.toNat)

/-- Whether a tile's partition has the block of a tally (R195, R283). -/
def State.ownsTally (s : State) (t k : Nat) : Bool := s.holds (s.tile t).part (k / 64)

/-- An operation on a tally of another partition reaches nothing and is recorded (R195, R405). -/
def State.foreignTally (s : State) (t k i : Nat) (write : Bool) : State :=
  s.violation (s.whoTile t) (s.quarter (k / 64)).running (s.cityOf (tallyAddr k i)) write 4

/-- Issues TADD or TSUB (R283). -/
def tallyOp (t : TileNo) (fn : Nat) (b : BitVec 6) (op : BitVec 32 → Party → TallyReq) (s : State) : State :=
  s.issue t { opc := 0xE6, opb := tallyByte fn b, legal := b == 0, din := 2 } fun s =>
    let tid := (s.arg t 0).toNat
    let n := (s.arg t 1).setWidth 32
    if 81919 < tid then .trap s 0x52 (s.arg t 0) 0
    else
      let k := tid / 64
      let c := (s.tile t).core
      let part := (s.tile t).part
      let s := if s.ownsTally t k then
          s.sendTally k (tid % 64) (some t.val) part (s.epochOf (quarterOf t) part) (op n (.tile t.val c.issued c.pc))
        else s.foreignTally t k (tid % 64) true
      .ok (s.push t 2 [] 0) .seq

/-- TADD ( n tid -- ): adds n[31:0] to a tally (R283). -/
def execTadd (t : TileNo) (b : BitVec 6) (s : State) : Ans := .next (tallyOp t 0 b .add s)

/-- TSUB ( n tid -- ): subtracts n[31:0] from a tally (R283). -/
def execTsub (t : TileNo) (b : BitVec 6) (s : State) : Ans := .next (tallyOp t 1 b .sub s)

/-- TREAD ( tid -- ): a tally's VALUE into a load slot (R283). -/
def execTread (t : TileNo) (b : BitVec 6) (s : State) : Ans :=
  .next (s.issue t { opc := 0xE6, opb := tallyByte 2 b, legal := b == 0, din := 1 } fun s =>
    let tid := (s.arg t 0).toNat
    if (s.tile t).gmem.slots.length ≥ 8 then .trap s 0x08 (s.tile t).slotCount 0
    else if 81919 < tid then .trap s 0x52 (s.arg t 0) 0
    else
      let k := tid / 64
      let i := tid % 64
      let city := s.cityOf (tallyAddr k i)
      let sl := newSlot s.nextId (BitVec.ofNat 64 city) 3 true (s.tile t).core.pc
      let s := { s with nextId := s.nextId + 1 }.addSlot t sl
      let own := s.ownsTally t k
      let id := s.nextId
      let s := s.addReq t .tread city (some sl.id) false (if own then .sent else .done 0 false)
      let part := (s.tile t).part
      let s := if own then s.sendTally k i none part (s.epochOf (quarterOf t) part) (.read id) else s.foreignTally t k i false
      .ok (s.push t 1 [] 0) .seq)

/-- TEVTS ( -- x ): pushes the tally-event mask and clears it, at ready distance 3 (R285). -/
def execTevts (t : TileNo) (b : BitVec 6) (s : State) : Ans :=
  .next (s.issue t { opc := 0xE6, opb := tallyByte 3 b, legal := b == 0, dout := 1 } fun s =>
    let v := (s.tile t).tevts
    .ok ((s.modTile t fun x => { x with tevts := 0 }).push t 0 [v] 3) .seq)

/-- WAITT ( n tid -- ): waits until VALUE ≥ n, then subtracts n if C = 1 (R283, R286). A tally of another partition
reads 0. -/
def execWaitt (t : TileNo) (b : Byte) (s : State) : Ans :=
  .next (s.issue t { opc := 0xE7, opb := b, legal := opLow 1 b, din := 2 } fun s =>
    let s := s.drain t
    let tid := (s.arg t 0).toNat
    let n := (s.arg t 1).setWidth 32
    if 81919 < tid then .trap s 0x52 (s.arg t 0) 0
    else
      let k := tid / 64
      if s.ownsTally t k then
        let part := (s.tile t).part
        .hold ((s.sendTally k (tid % 64) (some t.val) part (s.epochOf (quarterOf t) part) (.wait n (bit b 0) t.val)).setDoing t (.wait 0xE7 b))
      else
        let s := s.foreignTally t k (tid % 64) false
        if n = 0 then .ok (s.push t 2 [] 0) .seq else .hold (s.setDoing t (.wait 0xE7 b)))

/-! ## One cycle of a tally (R284 to R286) -/

/-- Whether an operation may reach its tally now (R231, R233, R235). -/
def State.mayTally (s : State) (k : Nat) (o : TallyOp) : Bool :=
  (o.tile.all fun t => s.roadOpen (tilePath t (.store k))) && match o.op with
  | .read id => (s.reqs.find? fun r => r.id = id).all fun r => s.mayPerform r
  | .wait _ _ t => s.fenMet t o.fenE && s.acqMet t o.acqE o.seq
  | _ => o.tile.all fun t => s.relMet t o.relE && s.fenMet t o.fenE

/-- What an operation adds. -/
def TallyReq.added : TallyReq → Nat
  | .add n _ => n.toNat
  | _ => 0

/-- What an operation subtracts. -/
def TallyReq.taken : TallyReq → Nat
  | .sub n _ => n.toNat
  | _ => 0

/-- Whether an operation is a TADD, a TSUB or an add of a stag or DMA engine. -/
def TallyReq.counts : TallyReq → Bool
  | .add _ _ => true
  | .sub _ _ => true
  | _ => false

/-- The party of an addition, or of a subtraction, that hears of a fault. -/
def TallyReq.party (o : TallyReq) (overflow : Bool) : Option Party :=
  match o, overflow with
  | .add _ p, true => some p
  | .sub _ p, false => some p
  | _, _ => none

/-- Reports an overflow or underflow to a party, and in the quarter's error log with the tally id and the agent
(R285). -/
def State.tallyReport (s : State) (k i : Nat) (code : Byte) (p : Party) : State :=
  let tid := k * 64 + i
  let note := k * 16 + (s.tally k i).note.toNat
  match p with
  | .tile t ord pc =>
    (s.land t { ord, rem := 0, dest := .flagsOnly, flags := 0, exc := some code, pc }).recordOpen (k / 64) tid
      (s.whoTile t).agent
  | .stag => (s.errorReport note 1).recordOpen (k / 64) tid ⟨1, BitVec.ofNat 16 k⟩
  | .dma => (s.errorReport note 1).recordOpen (k / 64) tid ⟨2, BitVec.ofNat 16 k⟩

/-- Steps 1 to 3 of R284: the operations' sum, or, frozen, their count in IGN. -/
def Tally.apply (x : Tally) (ops : List TallyReq) : Tally :=
  if x.frozen then { x with ign := satAdd x.ign (ops.countP TallyReq.counts) }
  else
    let up := x.value.toNat + (ops.map TallyReq.added).sum
    let down := (ops.map TallyReq.taken).sum
    if up < down then { x with value := 0, unf := true }
    else if x.limit.toNat < up - down then { x with value := x.limit, ovf := true }
    else { x with value := BitVec.ofNat 32 (up - down) }

/-- Whether VALUE has moved from below THRESH to it or above, with events enabled (R284 step 4). -/
def Tally.crossed (x y : Tally) : Bool := x.even && decide (x.value < x.thresh) && decide (x.thresh ≤ y.value)

/-- The watch numbers that a block's placed watches leave free (R286). -/
def freeWatch (l : List TallyWatch) : Option Nat :=
  (List.range 64).find? fun n => !l.any fun w => w.placed && w.num == n

/-- One check of a waiting WAITT: the tally, and whether it is served; a frozen tally serves none (R284 step 5). -/
def Tally.check (x : Tally) (w : TallyWatch) : Tally × Bool :=
  if !x.frozen && decide (w.n ≤ x.value) then
    ({ x with value := if w.consume then x.value - w.n else x.value }, true)
  else (x, false)

/-- Step 5 of R284 over the placed watches of tally i, from a number on, and then over those that have just arrived: the
tally, the block's watches and its next number of the rotation. A WAITT that is not served places a watch where one is
free (R286). -/
def serveWatches (x : Tally) (i rot : Nat) (ws : List TallyWatch) (new : List TallyWatch) :
    Tally × List TallyWatch × Nat :=
  let order := (sortBy (fun w => (w.num + 64 - rot) % 64) (ws.filter fun w => w.placed && w.i == i)).map (·.num)
  let old := order.foldl (fun (a : Tally × List TallyWatch × Nat) n =>
    match a.2.1.find? fun w => w.placed && w.num == n with
    | none => a
    | some w =>
      let r := a.1.check w
      if r.2 then
        (r.1, a.2.1.map fun v => if v.placed && v.num == n then { v with placed := false, served := true } else v,
          (n + 1) % 64)
      else a) (x, ws, rot)
  new.foldl (fun (a : Tally × List TallyWatch × Nat) w =>
    let r := a.1.check w
    if r.2 then (r.1, a.2.1 ++ [{ w with served := true }], a.2.2)
    else match freeWatch a.2.1 with
      | some n => (a.1, a.2.1 ++ [{ w with num := n, placed := true }], a.2.2)
      | none => (a.1, a.2.1 ++ [w], a.2.2)) old

/-- The WAITT that an operation brings, unserved and without a watch. -/
def TallyOp.watch? (o : TallyOp) : Option TallyWatch :=
  match o.op with
  | .wait n c t => some { num := 0, tile := t, i := o.i, n, consume := c, placed := false, served := false }
  | _ => none

/-- A tally with an uncorrectable error freezes with both flags set and reports to tile NOTE (R429). -/
def State.tallyError (s : State) (k i : Nat) : State :=
  if Tab.read false (tallyAddr k i) s.marks then
    let note := k * 16 + (s.tally k i).note.toNat
    ((({ s with marks := Tab.erase (tallyAddr k i) s.marks }.modTally k i fun x => { x with ovf := true, unf := true }).errorReport
      note 1).recordOpen (k / 64) (k * 64 + i) ⟨0, BitVec.ofNat 16 note⟩)
  else s

/-- Answers the TREADs among the operations of a cycle. -/
def State.answerReads (s : State) (ops : List TallyOp) (v : BitVec 32) : State :=
  { s with reqs := s.reqs.map fun r =>
    if ops.any (fun o => o.op == .read r.id) then { r with st := .done (v.setWidth 512) false } else r }

/-- Operations that a block absorbs, under reset or for an epoch older than its own: a TREAD reads zero, and a WAITT is never
served (R243, R311). -/
def State.absorbOps (s : State) (k : Nat) (ops : List TallyOp) : State :=
  if ops.isEmpty then s
  else (s.answerReads ops 0).modBlock k fun b => { b with watches := b.watches ++ ops.filterMap TallyOp.watch? }

/-- Whether an operation's epoch is older than that of its partition at a block (R311). -/
def State.staleOp (s : State) (k : Nat) (o : TallyOp) : Bool := epochOld o.epoch (s.epochOf (k / 64) o.part)

/-- One cycle of tally i of block k with the operations that reach it in the cycle (R284); a block under reset absorbs
them, and so does any block those of an old epoch (R243, R311). Register writes are commands of their own: those of the same
cycle come after it, and before a cycle with the TREADs that reach the tally with them. -/
def State.tallyCycle (s : State) (k i : Nat) (arrived : List TallyOp) : State :=
  let gone (o : TallyOp) : Bool := arrived.any fun p => p.id = o.id
  let s := s.modBlock k fun b => { b with tops := b.tops.filter fun o => !gone o }
  if (s.block k).resetting.isSome then s.absorbOps k arrived
  else
    let ops := arrived.filter fun o => !s.staleOp k o
    let new := ops.filterMap TallyOp.watch?
    let s := (s.absorbOps k (arrived.filter (s.staleOp k))).tallyError k i
    let x := s.tally k i
    let y := x.apply (ops.map (·.op))
    let s := s.modTally k i fun _ => y
    let s := if x.frozen then s
      else if y.ovf then (ops.filterMap fun o => o.op.party true).foldl (fun s p => s.tallyReport k i 0x53 p) s
      else if y.unf then (ops.filterMap fun o => o.op.party false).foldl (fun s p => s.tallyReport k i 0x54 p) s
      else s
    let s := if x.crossed y then
        let t := k * 16 + y.note.toNat
        ((s.modTile t fun z => { z with tevts := setBit z.tevts i true }).wakeBlock k).trace k 5 y.note.toNat
          (i + 64 * y.value.toNat)
      else s
    let r := serveWatches y i (s.block k).trot (s.block k).watches new
    ((s.modTally k i fun _ => r.1).modBlock k fun b => { b with watches := r.2.1, trot := r.2.2 }).answerReads ops r.1.value

/-- A cycle of a tally: of the operations named, it takes those on their way to it that may reach it (R284). -/
def execTallyCycle (k : BlockNo) (i : Fin 64) (arrived : List Nat) (s : State) : Ans :=
  .next (s.tallyCycle k.val i.val ((s.block k.val).tops.filter fun o =>
    o.i == i.val && arrived.contains o.id && s.mayTally k.val o))

/-- The block and tally that a WAITT of a tile waits for, by the tid on its stack. -/
def State.waittAt (s : State) (t : Nat) : Nat × Nat := ((s.arg t 0).toNat / 64, (s.arg t 0).toNat % 64)

/-- A WAITT that found no free watch asks again (R286). -/
def execTallyWatchRetry (t : TileNo) (s : State) : Ans :=
  .next (match (s.tile t).waitsIn with
    | some (opc, _) =>
      let (k, i) := s.waittAt t
      if opc = 0xE7 then
        match (s.block k).watches.find? fun w => w.tile = t.val && !w.placed && !w.served with
        | some w =>
          (s.modBlock k fun b => { b with watches := b.watches.filter fun v => v.tile ≠ t.val }).sendTally k i (some t.val)
            (s.tile t).part (s.epochOf (quarterOf t) (s.tile t).part) (.wait w.n w.consume t.val)
        | none => s
      else s
    | none => s)

/-- The answer that serves a WAITT reaches its tile, and it completes (R286). -/
def execWaittReplyArrives (t : TileNo) (s : State) : Ans :=
  .next (match (s.tile t).waitsIn with
    | some (opc, opb) =>
      let (k, _) := s.waittAt t
      if opc = 0xE7 ∧ ((s.block k).watches.any fun w => w.tile = t.val && w.served) then
        let s := s.modBlock k fun b => { b with watches := b.watches.filter fun w => w.tile ≠ t.val }
        (Res.ok (s.push t 2 [] 0) .seq).conclude t (heldForm opc opb)
      else s
    | none => s)

/-! ## The gridlock detector (R288) -/

/-- The tiles of a quarter that are live: released, and neither stopped nor reset since; one that a double fault halted is
(R288). -/
def State.liveTiles (s : State) (q : Nat) : List Nat :=
  (s.tiles.filter fun e => quarterOf e.1 = q && e.2.core.run != .unreleased && e.2.core.run != .stopped).map (·.1)

/-- Whether a tile is in SEND, RECV or SELECT. -/
def Tile.blocked (x : Tile) : Bool :=
  match x.waitsIn with
  | some (opc, _) => opc == 0xE0 || opc == 0xE3 || opc == 0xE4
  | none => false

/-- Every live tile of the quarter has been blocked for long enough: the detector fires, records them and interrupts the
Square with the list, which the Square passes on to the supervisor of the partition that runs there as a SQUARE message (R288). -/
def execGridlockFire (q : QuarterNo) (s : State) : Ans :=
  let live := s.liveTiles q.val
  .next (if (s.quarter q.val).gridEn && !(s.quarter q.val).gridFired && !live.isEmpty &&
      live.all fun t => (s.tile t).blocked then
    let l : BitVec 1024 := live.foldl (fun (v : BitVec 1024) t => setBit v (t % 1024) true) 0
    let s := (s.modQuarter q.val fun x => { x with gridFired := true, gridList := l }).emit (.toSquare 4 q.val l.toNat)
    match if s.sq.running then (s.quarter q.val).running.bind s.lowestTile else none with
    | some t => s.squareMsg t
    | none => s
    else s)

end Sys2Proof.Machine
end

