-- ==== Sys2Proof/Machine/Reset.lean ====
section
/-! DEFINITION. Resets of tiles, blocks and partitions, and the destruction of a partition (R310, R336, R378, R409, R421,
R425 to R427). -/

namespace Sys2Proof.Machine

/-! ## Withdrawing what a tile waits for -/

/-- Withdraws a WAITM's watch: one at a home of this device goes with its request, one on another device is asked back
with UNWATCH (R48, R346). -/
def State.unwatch (s : State) (r : Req) : State :=
  match r.st with
  | .remote txid =>
    let s := { s with txs := s.txs.map fun (t : Transaction) => if t.txid = txid then { t with unwatched := true } else t }
    s.sendUnwatch r.part r.epoch r.addr txid
  | _ => { s with watches := s.watches.filter fun w => w.who ≠ Watcher.tile r.id
                  reqs := s.reqs.filter fun x => x.id ≠ r.id }

/-- Whether a request is a WAITM's. -/
def Req.isWatch (r : Req) : Bool :=
  match r.kind with
  | .watch _ => true
  | _ => false

/-- Withdraws the watches of a tile (R427). -/
def State.unwatchTile (s : State) (t : Nat) : State :=
  (s.reqs.filter fun r => r.tile = t && r.isWatch).foldl State.unwatch s

/-- Withdraws the tally watches and the WAITT operations of a tile. -/
def State.untallyTile (s : State) (t : Nat) : State :=
  { s with blocks := s.blocks.map fun e =>
    (e.1, { e.2 with
      watches := e.2.watches.filter fun w => w.tile ≠ t
      tops := e.2.tops.filter fun o => match o.op with
        | .wait _ _ u => u ≠ t
        | _ => true }) }

/-! ## Tiles (R265, R426, R427) -/

/-- A channel discards its chains with no record, tally add or event (R265). -/
def Channel.discard (c : Channel) : Channel :=
  { c with chains := [], live := false, runs := [], next := none, lastCq := none, lastIrq := false, cqwait := false }

/-- One channel of an engine discards its chains. -/
def Dma.discard (d : Dma) (ch : Nat) : Dma :=
  { d with chans := Vector.ofFn fun (i : Fin 16) => if i.val = ch then d.chans[i].discard else d.chans[i] }

/-- Whether a tally operation or a stag command of the tile is still held by REL. -/
def State.heldByRel (s : State) (t relE : Nat) : Bool := !s.relMet t relE

/-- A queue that a tile reset leaves CLOSED and empty; DROPS and STALE stand (R268, R281). -/
def RQueue.closed (q : RQueue) : RQueue := { RQueue.reset with drops := q.drops, stale := q.stale }

/-- A tile reset starts: issue stops, what the tile has not sent is discarded, its watches are withdrawn, its queues close, and
its DMA channel discards its chains; its stag commands stay queued, with no ordering left to wait for (R169, R265, R310, R426,
R427). -/
def State.tileResetStart (s : State) (t : Nat) (rel : Bool) : State :=
  let old := s
  let s := (s.unwatchTile t).untallyTile t
  let unsent (a : Attempt) : Bool := match a.st with
    | .flying _ => false
    | _ => true
  let keep (b : Block) : Block :=
    { b with
      tops := (b.tops.filter fun o => o.tile ≠ some t || !old.heldByRel t o.relE).map fun (o : TallyOp) =>
        if o.tile = some t then { o with relE := 0, acqE := 0, fenE := 0 } else o
      stag := { b.stag with queue := b.stag.queue.map fun (c : StagCmd) =>
        if c.tile = t then { c with relE := 0, fenE := 0 } else c } }
  let s := { s with
    reqs := s.reqs.filter fun r => r.tile ≠ t || r.st ≠ ReqState.held
    attempts := s.attempts.filter fun a => a.tile ≠ t || !unsent a
    blocks := s.blocks.map fun (e : Nat × Block) => (e.1, keep e.2) }
  let s := s.modQuarter (quarterOf t) fun x => { x with walks := x.walks.filter fun w => w.tile ≠ t }
  let s := s.modTile t fun x =>
    { x with resetting := some rel, gmem := { x.gmem with mb := [] }, queues := x.queues.map RQueue.closed }
  let s := (s.dropFar (.fetch t)).dropFar (.ahead t)
  let gone (x : FarAccess) : Bool := match x.who with
    | .adopt id => old.reqs.any fun r => r.id = id && r.tile = t
    | .desc k ch => k == blockOf t && ch == tileIn t
    | .ring k ch => k == blockOf t && ch == tileIn t
    | .record k ch => k == blockOf t && ch == tileIn t
    | .prod k ch => k == blockOf t && ch == tileIn t
    | _ => false
  let s := { s with far := s.far.filter fun x => !gone x }
  s.modBlock (blockOf t) fun b => { b with dma := b.dma.discard (tileIn t) }

/-- Whether every request that a tile has sent has its reply (R426). -/
def State.tileQuiet (s : State) (t : Nat) : Bool :=
  (s.reqs.all fun r => r.tile ≠ t || r.performed) && (s.attempts.all fun a => a.tile ≠ t) &&
  (s.blocks.all fun e => e.2.tops.all fun o => o.tile ≠ some t) &&
  ((s.block (blockOf t)).dma.slots.all fun x => x.ch ≠ tileIn t || x.st = .done)

/-- A tile reset ends: every register of the tile takes its reset value, replies that have come are discarded, and the
tile runs at RELPC or stays stopped (R426). A tile of a partition under reset waits for its release. -/
def State.tileResetEnd (s : State) (t : Nat) (run : Run) : State :=
  let x := s.tile t
  let y := s.freshTile t x.part
  let s := { s with
    reqs := s.reqs.filter fun r => r.tile ≠ t
    attempts := s.attempts.filter fun a => a.tile ≠ t }
  s.setTile t { y with
    queues := x.queues.map RQueue.closed
    core := { y.core with run, pc := if run = .running then (s.quarter (quarterOf t)).relpc else 0 } }

/-- The state in which a reset with REL as given leaves a tile: a retired tile stays stopped (R425, R426). -/
def State.afterReset (s : State) (t : Nat) (rel : Bool) : Run :=
  if rel && !s.sq.fp.tiles.contains t && !s.curfew then .running else .stopped

/-! ## Blocks (R169, R265, R426) -/

/-- The tiles of a block. -/
def blockTiles (k : Nat) : List Nat := (List.range 16).map (k * 16 + ·)

/-- A block reset starts: a tile reset of its 16 tiles, and the stag and the channels discard what they hold (R169, R265,
R426). -/
def State.blockResetStart (s : State) (k : Nat) (rel : Bool) : State :=
  let s := (blockTiles k).foldl (fun (s : State) t => s.tileResetStart t rel) s
  s.modBlock k fun b => { b with resetting := some rel, stag := .reset }

/-- A block reset ends: its tallies, its stag and its DMA engine take their reset values (R169, R265, R426). -/
def State.blockResetEnd (s : State) (k : Nat) (run : Nat → Run) : State :=
  let s := (blockTiles k).foldl (fun (s : State) t => s.tileResetEnd t (run t)) s
  s.modBlock k fun b =>
    { b with resetting := none, tallies := [], stag := .reset, dma := .reset, trot := 0 }

/-! ## Partitions (R421, R426) -/

/-- The host's accesses to p's windows that are under way are absorbed: a read gives zeros, a write completes, and each is
counted; their transactions end as those of no one (R374, R378, R427). -/
def State.absorbHost (s : State) (p : Nat) : State :=
  let mine (t : TxOwner) : Option (Nat × Nat × Bool) :=
    match t with
    | .host id dpa w => if 0x10000000000 ≤ dpa ∧ (dpa - 0x10000000000) / 0x1000000000 = p then some (id, dpa, w) else none
    | _ => none
  let l := (s.txs.filterMap (fun t => mine t.owner) ++ s.txWait.filterMap fun t => mine t.owner).eraseDups
  let s := { s with
    txs := s.txs.map fun (t : Transaction) => if (mine t.owner).isSome then { t with owner := .other } else t
    txWait := s.txWait.filter fun t => (mine t.owner).isNone }
  l.foldl (fun (s : State) x =>
    (s.hostViolation (some p) x.2.1 x.2.2 7).emit (if x.2.2 then .hostDone else .hostData x.2.1 0 false)) s

/-- Steps 1 and 2 of the partition reset: the epoch rises, p's tiles, stags and channels stop, and the host's windows close
(R378, R426); a partition that is out loses its saved state. -/
def State.partResetStart (s : State) (p : Nat) (destroy : Bool) : State :=
  match s.part? p with
  | none => s
  | some x =>
    let s := s.raiseEpoch (BitVec.ofNat 6 p)
    let s := (s.quartersOf p).foldl (fun (s : State) q =>
      if (s.quarter q).running = some (BitVec.ofNat 6 p) then
        (quarterBlocks q).foldl (fun (s : State) k => s.blockResetStart k false) s
      else s) s
    let s := (s.modHreg p fun h => { h with hwin := Vector.replicate 4 (0, 0), pend := 0 }).absorbHost p
    s.modPart p fun y =>
      { y with ending := some (destroy || x.ending == some true), released := false
               saved := [], savedBlocks := [], savedMem := [] }

/-- What the end of a partition reset clears beside its blocks: multicast groups and tag entries (R310), the Hive (R336),
the host windows and pending vectors (R378), and the watches (R426). -/
def State.clearPart (s : State) (p : PartNo) : State :=
  let s := (List.range 20).foldl (fun (s : State) q =>
    s.modQuarter q fun x =>
      { x with
        mcgrp := x.mcgrp.map fun e =>
          if Tab.read 0 e.1 x.mcpart = p then (e.1, (setBit e.2.1 0 false, e.2.2)) else e
        rtags := x.rtags.map fun e => if e.2.part = p then (e.1, { e.2 with v := false }) else e }) s
  let s := (s.quartersOf p.toNat).foldl (fun (s : State) q => s.clearHive q p) s
  { s.modHreg p.toNat fun h => { h with hwin := Vector.replicate 4 (0, 0), pend := 0 } with
    watches := s.watches.filter fun w => w.part ≠ p }

/-- Whether every request of the tiles of p's quarters that p runs has its reply. -/
def State.partQuiet (s : State) (p : Nat) : Bool :=
  (s.quartersOf p).all fun q =>
    (s.quarter q).running ≠ some (BitVec.ofNat 6 p) || (quarterTiles q).all s.tileQuiet

/-- Steps 4 and 5 of the partition reset, or steps 2 to 4 of the destruction (R421, R426). -/
def State.partResetEnd (s : State) (p : Nat) (destroy : Bool) : State :=
  let part : PartNo := BitVec.ofNat 6 p
  let mine := (s.quartersOf p).filter fun q => (s.quarter q).running = some part
  let s := mine.foldl (fun (s : State) q =>
    (quarterBlocks q).foldl (fun (s : State) k => s.blockResetEnd k fun _ => .unreleased) s) s
  let s := mine.foldl (fun (s : State) q =>
    (quarterTiles q).foldl (fun (s : State) t => s.modTile t fun x => { x with queues := Vector.replicate 8 .reset }) s) s
  let s := s.clearPart part
  if destroy then
    let qs := s.quartersOf p
    let s := s.rekeyGrants p
    let s := mine.foldl (fun (s : State) q => (s.clearTiles q).clearHive q part) s
    let s := qs.foldl (fun (s : State) q => s.zeroShare q (Tab.read .reset p (s.quarter q).grants)) s
    let s := qs.foldl (fun (s : State) q =>
      (s.modQuarter q fun x =>
        { x with
          grants := Tab.erase p x.grants, clk := { x.clk with reqs := Tab.erase p x.clk.reqs }, running := if x.running = some part then none else x.running
          ptroot := match x.ptroot.find? fun e => e.1 = p with
            | some e => Tab.write p (setBit e.2 0 false) x.ptroot
            | none => x.ptroot }).markSliced q) s
    { s.raiseEpoch part with
      parts := s.parts.filter fun e => e.1 ≠ p
      host := { s.host with exposed := setBit s.host.exposed p false, tlb := s.host.tlb.filter fun e => e.part ≠ part } }
  else (s.modPart p fun y => { y with ending := none }).buildPart p

/-- The Square destroys a partition (R421). -/
def State.destroyPart (s : State) (p : Nat) : State :=
  match s.part? p with
  | some x => if x.ending.isSome then s.modPart p fun y => { y with ending := some true } else s.partResetStart p true
  | none => s

/-- The Square destroys a partition (R421). -/
def execPartitionDestroy (p : PartNo) (s : State) : Ans := .next (if s.curfew then s else s.destroyPart p.toNat)

/-- A partition reset that the Square or the manager asks for, or PRESET (R425, R426). -/
def State.resetPart (s : State) (p : Nat) : State :=
  match s.part? p with
  | some x => if x.ending.isSome then s else s.partResetStart p false
  | none => s

/-! ## The reset registers (R425) -/

/-- Whether a partition of the quarter is under reset. -/
def State.presetBusy (s : State) (q : Nat) : Bool :=
  s.parts.any fun e => bit e.2.desc.qmask q && e.2.ending.isSome

/-- BRESET.BUSY (R425). -/
def State.bresetBusy (s : State) (q : Nat) : Bool := (quarterBlocks q).any fun k => (s.block k).resetting.isSome

/-- TRESET.BUSY (R425). -/
def State.tresetBusy (s : State) (q : Nat) : Bool :=
  s.tiles.any fun e => quarterOf e.1 == q && e.2.resetting.isSome && (s.block (blockOf e.1)).resetting.isNone

/-- Device address of a quarter's reset registers (R425). -/
def resetAddr (q : Nat) : Nat := 0xF0000000000 + q * 0x100000000 + 0x54000000

/-- A write of TRESET, BRESET or PRESET, by its offset, that finds BUSY clear (R425): one that names a retired unit has no
effect. `p` is the writer's partition. -/
def State.applyReset (s : State) (q reg : Nat) (v : Word) (p : Option PartNo) : State :=
  match reg with
  | 0x00 =>
    let t := q * 1024 + fld v 0 10
    if s.sq.fp.tiles.contains t then s else s.tileResetStart t (bit v 10)
  | 0x08 => s.blockResetStart (q * 64 + fld v 0 6) (bit v 6)
  | _ =>
    if !bit v 0 then s
    else match p with
      | some p => s.resetPart p.toNat
      | none => match (s.quarter q).running with
        | some p => s.resetPart p.toNat
        | none => s

/-- Whether the reset register at an offset is busy. -/
def State.resetBusy (s : State) (q reg : Nat) : Bool :=
  match reg with
  | 0x00 => s.tresetBusy q
  | 0x08 => s.bresetBusy q
  | _ => s.presetBusy q

/-- A write of a reset register, held while BUSY is 1 (R425). -/
def State.writeReset (s : State) (q reg : Nat) (v : Word) (p : Option PartNo) : State :=
  if s.resetBusy q reg then s.modQuarter q fun x => { x with rheld := x.rheld ++ [(reg, v, p)] }
  else s.applyReset q reg v p

/-- Held writes whose register is no longer busy take effect, oldest first (R425). -/
def State.runHeldResets (s : State) (q : Nat) : Nat → State
  | 0 => s
  | n + 1 =>
    match (s.quarter q).rheld.find? fun w => !s.resetBusy q w.1 with
    | some w => ((s.modQuarter q fun x => { x with rheld := x.rheld.erase w }).applyReset q w.1 w.2.1 w.2.2).runHeldResets q n
    | none => s

/-- The partition of a writer. -/
def State.resetter (s : State) (w : Writer) : Option PartNo :=
  match w with
  | .tile t => some (s.tile t).part
  | _ => none

/-- A write of a reset register by a writer that R197 lets reach it. -/
def State.resetWrite (s : State) (w : Writer) (q reg : Nat) (v : Word) : State :=
  if s.mayCtl w q then s.writeReset q reg v (s.resetter w) else s.deniedCtl w (resetAddr q + reg) true

/-- A write of TRESET (R425, R426). -/
def execTreset (w : Writer) (q : QuarterNo) (v : Word) (s : State) : Ans := .next (s.resetWrite w q.val 0x00 v)

/-- A write of BRESET (R425, R426). -/
def execBreset (w : Writer) (q : QuarterNo) (v : Word) (s : State) : Ans := .next (s.resetWrite w q.val 0x08 v)

/-- A write of PRESET (R425, R426). -/
def execPreset (w : Writer) (q : QuarterNo) (v : Word) (s : State) : Ans := .next (s.resetWrite w q.val 0x18 v)

/-- Partition resets of a quarter whose last reply has come end. -/
def State.endPartResets (s : State) (q : Nat) : State :=
  s.parts.foldl (fun (s : State) e =>
    match e.2.ending with
    | some d => if bit e.2.desc.qmask q && s.partQuiet e.1 then s.partResetEnd e.1 d else s
    | none => s) s

/-- Block resets of a quarter whose last reply has come end. -/
def State.endBlockResets (s : State) (q : Nat) : State :=
  if s.presetBusy q then s
  else (quarterBlocks q).foldl (fun (s : State) k =>
    match (s.block k).resetting with
    | some rel =>
      if (blockTiles k).all s.tileQuiet then s.blockResetEnd k fun t => s.afterReset t rel else s
    | none => s) s

/-- Tile resets of a quarter whose last reply has come end. -/
def State.endTileResets (s : State) (q : Nat) : State :=
  (s.tiles.filter fun e => quarterOf e.1 == q && e.2.resetting.isSome).foldl (fun (s : State) e =>
    if (s.block (blockOf e.1)).resetting.isNone && s.tileQuiet e.1 then
      s.tileResetEnd e.1 (s.afterReset e.1 (e.2.resetting.getD false))
    else s) s

/-- The last replies have come: the resets of the quarter whose units are quiet end, and writes that BUSY held take effect
(R425, R426). -/
def execResetRepliesDrained (q : QuarterNo) (s : State) : Ans :=
  .next (
    let s := ((s.endPartResets q.val).endBlockResets q.val).endTileResets q.val
    s.runHeldResets q.val (s.quarter q.val).rheld.length)

end Sys2Proof.Machine
end

