-- ==== Sys2Proof/Machine/Vector.lean ====
section
/-! DEFINITION. The vector unit (R114 to R127): lanes, the vector port, and one meaning per vector instruction. -/

namespace Sys2Proof.Machine

/-! ## Lanes (R116) -/

/-- The lanes of w bits of a vector, lane 0 first. -/
def lanesOf (w : Nat) (v : Line) : List Nat := (List.range (512 / w)).map fun i => fld v (w * i) w

/-- A vector from its low lanes of w bits; the rest is 0. -/
def ofLanes (w : Nat) (xs : List Nat) : Line :=
  BitVec.ofNat 512 (xs.foldr (fun x (a : Nat) => x % 2 ^ w + 2 ^ w * a) 0)

/-- A vector of lane results, with the union of their flags (R119). -/
def gather (w : Nat) (xs : List (Nat × BitVec 7)) : Line × BitVec 7 :=
  (ofLanes w (xs.map (·.1)), xs.foldl (fun a x => a ||| x.2) 0)

/-- A lane operation on two vectors. -/
def lanes2 (w : Nat) (g : Nat → Nat → Nat × BitVec 7) (a b : Line) : Line × BitVec 7 :=
  gather w (List.zipWith g (lanesOf w a) (lanesOf w b))

/-- The floating-point format of F (R116). -/
def fpFormat (f : Nat) : Fmt := match f with | 0 => fp64 | 1 => fp32 | 2 => bf16 | _ => fp16

/-- Bits per lane of F. -/
def laneBits (f : Nat) : Nat := 8 * elemBytes f

/-- An exact integer result in a lane: it wraps, or saturates under S (R117, R119). -/
def intLane (w : Nat) (b : Byte) (v : Int) : Nat × BitVec 7 :=
  if bit b 4 then intClamp w (!bit b 3) flagSAT v else (intBits w v, 0)

/-- An integer lane's value under U (R117). -/
def laneInt (w : Nat) (b : Byte) (x : Nat) : Int := intValue w (!bit b 3) x

/-- One lane of VADD, VSUB, VMUL or VDIV, by the floating-point and the integer operation. -/
def laneArith (b : Byte) (g : Fmt → Nat → Nat → Nat × BitVec 7) (h : Int → Int → Int) (x y : Nat) : Nat × BitVec 7 :=
  let f := fmtOf b
  let w := laneBits f
  if isFp f then g (fpFormat f) x y else intLane w b (h (laneInt w b x) (laneInt w b y))

/-- One lane of VFMA: exact before one rounding or one saturation (R117, R118). -/
def laneFma (b : Byte) (x y z : Nat) : Nat × BitVec 7 :=
  let f := fmtOf b
  let w := laneBits f
  if isFp f then (fpFormat f).fma x y z else intLane w b (laneInt w b x * laneInt w b y + laneInt w b z)

/-- One lane of VMINMAX (R120). -/
def laneMinMax (b : Byte) (fn : Nat) (x y : Nat) : Nat × BitVec 7 :=
  let f := fmtOf b
  let w := laneBits f
  if isFp f then (fpFormat f).minmax fn x y
  else
    let less : Bool := decide (laneInt w b x < laneInt w b y)
    (if fn % 2 = 0 then (if less then x else y) else (if less then y else x), 0)

/-- One lane of VCMP: all ones where the relation holds (R120). -/
def laneCompare (b : Byte) (fn : Nat) (x y : Nat) : Nat × BitVec 7 :=
  let f := fmtOf b
  let w := laneBits f
  let r : Bool × BitVec 7 :=
    if isFp f then (fpFormat f).compare fn x y
    else
      let i := laneInt w b x
      let j := laneInt w b y
      (match fn with
        | 0 => decide (i = j)
        | 1 => decide (i ≠ j)
        | 2 => decide (i < j)
        | _ => decide (i ≤ j), 0)
  (if r.1 then 2 ^ w - 1 else 0, r.2)

/-- One lane of VSHIFT (R118). -/
def laneShift (w fn x n : Nat) : Nat :=
  let k := n % w
  match fn with
  | 0 => x * 2 ^ k % 2 ^ w
  | 1 => x / 2 ^ k
  | _ => intBits w (intValue w true x / 2 ^ k)

/-- One lane of VUNARY: negate, absolute value, square root, reciprocal (R117, R119). -/
def laneUnary (b : Byte) (fn : Nat) (x : Nat) : Nat × BitVec 7 :=
  let f := fmtOf b
  let w := laneBits f
  if isFp f then
    match fn with
    | 0 => (x ^^^ 2 ^ (w - 1), 0)
    | 1 => (x % 2 ^ (w - 1), 0)
    | 2 => (fpFormat f).sqrt x
    | _ => (fpFormat f).recip x
  else
    let i := laneInt w b x
    intLane w b (if fn = 0 then -i else i.natAbs)

/-- Whether a VCVT code names a floating-point format, and which (R121). -/
def cvtFp (c : Nat) : Option Fmt :=
  match c with
  | 0 => some fp64 | 1 => some fp32 | 2 => some bf16 | 3 => some fp16 | 4 => some e4m3 | 5 => some e5m2 | _ => none

/-- Whether a VCVT integer code is signed (R121). -/
def cvtSigned (c : Nat) : Bool := c < 0xD

/-- One element of VCVT from code `src` to code `dst` (R95 to R98, R121). -/
def cvtElement (src dst : Nat) (ns : Bool) (x : Nat) : Nat × BitVec 7 :=
  let sb := (cvtBits src).getD 8
  let db := (cvtBits dst).getD 8
  if src = dst then (x, 0)
  else match cvtFp src, cvtFp dst with
    | some f, some g => f.convert g ns x
    | some f, none => f.toInt db (cvtSigned dst) x
    | none, some g => g.ofInt ns (intValue sb (cvtSigned src) x)
    | none, none => intClamp db (cvtSigned dst) flagSAT (intValue sb (cvtSigned src) x)

/-- VCVT of a vector (R121). -/
def convertLanes (b : Byte) (ns : Bool) (a : Line) : Line × BitVec 7 :=
  let dst := fld b 0 4
  let src := fld b 4 4
  let sb := (cvtBits src).getD 8
  let db := (cvtBits dst).getD 8
  gather db (((lanesOf sb a).take (512 / max sb db)).map (cvtElement src dst ns))

/-- A node of VRED (R122). -/
def reduceNode (b : Byte) (x y : Nat × BitVec 7) : Nat × BitVec 7 :=
  let f := fmtOf b
  let w := laneBits f
  let r := match fld b 5 3 with
    | 0 => if isFp f then (fpFormat f).add x.1 y.1 else ((x.1 + y.1) % 2 ^ w, 0)
    | 1 => laneMinMax b 0 x.1 y.1
    | _ => laneMinMax b 1 x.1 y.1
  (r.1, x.2 ||| y.2 ||| r.2)

/-- VRED of a vector (R122). -/
def reduceLanes (b : Byte) (a : Line) : Line × BitVec 7 :=
  let w := laneBits (fmtOf b)
  gather w ((treeFold (reduceNode b) 6 ((lanesOf w a).map fun x => (x, 0))).take 1)

/-! ## Instructions on the vector stack -/

/-- A vector instruction that pops `vin` vectors and pushes one, with its flags. -/
def State.vgives (s : State) (t vin : Nat) (r : Line × BitVec 7) (d : Nat) : Res := s.arith t 0 [] vin [r.1] d r.2

/-- A two-operand arithmetic instruction of R117. -/
def vecOp (t : TileNo) (opc b : Byte) (legal : Bool) (g : Nat → Nat → Nat × BitVec 7) (s : State) : State :=
  s.issue t { opc, opb := b, legal, vin := 2, vout := 1 } fun s =>
    s.vgives t 2 (lanes2 (laneBits (fmtOf b)) g (s.varg t 1) (s.varg t 0)) 3

/-- The operand byte of VSTK function fn. -/
def stkByte (fn : Nat) (b : BitVec 5) : Byte := BitVec.ofNat 8 (32 * fn + b.toNat)

/-- VDUP ( a -- a a ) (R118). -/
def execVdup (t : TileNo) (b : BitVec 5) (s : State) : Ans :=
  .next (s.issue t { opc := 0xA4, opb := stkByte 0 b, legal := b == 0, vin := 1, vout := 2 } fun s =>
    .ok (s.pushV t 0 [s.varg t 0] 0) .seq)

/-- VDROP ( a -- ) (R118). -/
def execVdrop (t : TileNo) (b : BitVec 5) (s : State) : Ans :=
  .next (s.issue t { opc := 0xA4, opb := stkByte 1 b, legal := b == 0, vin := 1 } fun s => .ok (s.pushV t 1 [] 0) .seq)

/-- VSWAP ( a b -- b a ) (R118). -/
def execVswap (t : TileNo) (b : BitVec 5) (s : State) : Ans :=
  .next (s.issue t { opc := 0xA4, opb := stkByte 2 b, legal := b == 0, vin := 2, vout := 2 } fun s =>
    .ok (s.pushV t 2 [s.varg t 0, s.varg t 1] 0) .seq)

/-- VOVER ( a b -- a b a ) (R118). -/
def execVover (t : TileNo) (b : BitVec 5) (s : State) : Ans :=
  .next (s.issue t { opc := 0xA4, opb := stkByte 3 b, legal := b == 0, vin := 2, vout := 3 } fun s =>
    .ok (s.pushV t 0 [s.varg t 1] 0) .seq)

/-- VROT ( a b c -- b c a ) (R118). -/
def execVrot (t : TileNo) (b : BitVec 5) (s : State) : Ans :=
  .next (s.issue t { opc := 0xA4, opb := stkByte 4 b, legal := b == 0, vin := 3, vout := 3 } fun s =>
    .ok (s.pushV t 3 [s.varg t 1, s.varg t 0, s.varg t 2] 0) .seq)

/-- VNIP ( a b -- b ) (R118). -/
def execVnip (t : TileNo) (b : BitVec 5) (s : State) : Ans :=
  .next (s.issue t { opc := 0xA4, opb := stkByte 5 b, legal := b == 0, vin := 2, vout := 1 } fun s =>
    .ok (s.pushV t 2 [s.varg t 0] 0) .seq)

/-- VSPLAT puts the low bytes of x in every lane (R118). -/
def execVsplat (t : TileNo) (b : Byte) (s : State) : Ans :=
  .next (s.issue t { opc := 0xA5, opb := b, legal := opLow 3 b, din := 1, vout := 1 } fun s =>
    let w := laneBits (fmtOf b)
    s.arith t 1 [] 0 [ofLanes w (List.replicate (512 / w) (s.arg t 0).toNat)] 3 0)

/-- Whether the lane of VPULL or VINS lies below the lane count (R118). -/
def opLane (b : Byte) : Bool := decide (fld b 0 6 < 64 / widthOf (fld b 6 2))

/-- VPULL pushes a lane, zero-extended, on the data stack (R118). -/
def execVpull (t : TileNo) (b : Byte) (s : State) : Ans :=
  .next (s.issue t { opc := 0xA6, opb := b, legal := opLane b, dout := 1, vin := 1, vout := 1 } fun s =>
    let w := 8 * widthOf (fld b 6 2)
    s.gives t 0 [BitVec.ofNat 64 (fld (s.varg t 0) (w * fld b 0 6) w)] 3)

/-- VINS replaces a lane (R118). -/
def execVins (t : TileNo) (b : Byte) (s : State) : Ans :=
  .next (s.issue t { opc := 0xA7, opb := b, legal := opLane b, din := 1, vin := 1, vout := 1 } fun s =>
    let w := 8 * widthOf (fld b 6 2)
    s.arith t 1 [] 1 [setFld (s.varg t 0) (w * fld b 0 6) w (s.arg t 0).toNat] 3 0)

/-- VADD (R117, R118). -/
def execVadd (t : TileNo) (b : Byte) (s : State) : Ans :=
  .next (vecOp t 0xA8 b (opArith 1 b) (laneArith b Fmt.add (· + ·)) s)

/-- VSUB (R117, R118). -/
def execVsub (t : TileNo) (b : Byte) (s : State) : Ans :=
  .next (vecOp t 0xA9 b (opArith 1 b) (laneArith b Fmt.sub (· - ·)) s)

/-- VMUL (R117, R118). -/
def execVmul (t : TileNo) (b : Byte) (s : State) : Ans :=
  .next (vecOp t 0xAA b (opArith 1 b) (laneArith b Fmt.mul (· * ·)) s)

/-- VFMA ( a b c -- a×b+c ) (R117, R118). -/
def execVfma (t : TileNo) (b : Byte) (s : State) : Ans :=
  .next (s.issue t { opc := 0xAB, opb := b, legal := opArith 1 b, vin := 3, vout := 1 } fun s =>
    let w := laneBits (fmtOf b)
    let ab := List.zip (lanesOf w (s.varg t 2)) (lanesOf w (s.varg t 1))
    s.vgives t 3 (gather w (List.zipWith (fun p z => laneFma b p.1 p.2 z) ab (lanesOf w (s.varg t 0)))) 3)

/-- VMINMAX (R120). -/
def execVminmax (t : TileNo) (b : Byte) (s : State) : Ans :=
  .next (vecOp t 0xAC b (opArith 4 b) (laneMinMax b (fld b 5 3)) s)

/-- VCMP; functions 4 and 5 are floating-point only (R117, R120). -/
def execVcmp (t : TileNo) (b : Byte) (s : State) : Ans :=
  .next (vecOp t 0xAD b (opArith (if isFp (fmtOf b) then 6 else 4) b) (laneCompare b (fld b 5 3)) s)

/-- VSEL ( a b m -- z ): z takes the bits of a where m is 1 and those of b elsewhere (R118). -/
def execVsel (t : TileNo) (b : Byte) (s : State) : Ans :=
  .next (s.issue t { opc := 0xAE, opb := b, legal := opNone b, vin := 3, vout := 1 } fun s =>
    let m := s.varg t 0
    s.vgives t 3 ((s.varg t 2 &&& m) ||| (s.varg t 1 &&& ~~~m), 0) 3)

/-- VLOGIC (R118). -/
def execVlogic (t : TileNo) (b : Byte) (s : State) : Ans :=
  let fn := fld b 5 3
  let vin := if fn = 4 then 1 else 2
  .next (s.issue t { opc := 0xAF, opb := b, legal := decide (fn < 5) && fld b 0 5 = 0, vin, vout := 1 } fun s =>
    let x := s.varg t 1
    let y := s.varg t 0
    let z := match fn with
      | 0 => x &&& y
      | 1 => x ||| y
      | 2 => x ^^^ y
      | 3 => x &&& ~~~y
      | _ => ~~~y
    s.vgives t vin (z, 0) 3)

/-- VSHIFT ( a n -- z ), for integer lanes (R117, R118). -/
def execVshift (t : TileNo) (b : Byte) (s : State) : Ans :=
  .next (vecOp t 0xB0 b (opArith 3 b && !isFp (fmtOf b))
    (fun x n => (laneShift (laneBits (fmtOf b)) (fld b 5 3) x n, 0)) s)

/-- VCVT converts elements (R121). -/
def execVcvt (t : TileNo) (b : Byte) (s : State) : Ans :=
  .next (s.issue t { opc := 0xB1, opb := b, legal := (cvtBits (fld b 0 4)).isSome && (cvtBits (fld b 4 4)).isSome
                     vin := 1, vout := 1 } fun s =>
    s.vgives t 1 (convertLanes b (nosat (s.tile t).ctl.fcsr) (s.varg t 0)) 3)

/-- VRED combines the lanes in a balanced pairwise tree (R122). -/
def execVred (t : TileNo) (b : Byte) (s : State) : Ans :=
  .next (s.issue t { opc := 0xB2, opb := b, legal := opArith 3 b, vin := 1, vout := 1 } fun s =>
    s.vgives t 1 (reduceLanes b (s.varg t 0)) 7)

/-- VSHUF ( a idx -- z ) (R118, R123). -/
def execVshuf (t : TileNo) (b : Byte) (s : State) : Ans :=
  .next (s.issue t { opc := 0xB3, opb := b, legal := fld b 0 6 = 0, vin := 2, vout := 1 } fun s =>
    let w := 8 * widthOf (fld b 6 2)
    let a := lanesOf w (s.varg t 1)
    s.vgives t 2 (ofLanes w ((lanesOf w (s.varg t 0)).map fun i => a.getD (i % (512 / w)) 0), 0) 3)

/-- VSLIDE ( a b -- z ): bytes n to n + 63 of a ‖ b (R118, R123). -/
def execVslide (t : TileNo) (b : Byte) (s : State) : Ans :=
  .next (s.issue t { opc := 0xB4, opb := b, legal := opLow 6 b, vin := 2, vout := 1 } fun s =>
    let str := (s.varg t 1).toNat + 2 ^ 512 * (s.varg t 0).toNat
    s.vgives t 2 (BitVec.ofNat 512 (str / 2 ^ (8 * b.toNat)), 0) 3)

/-- VUNARY; square root and reciprocal are floating-point only (R117, R119). -/
def execVunary (t : TileNo) (b : Byte) (s : State) : Ans :=
  .next (s.issue t { opc := 0xB5, opb := b, legal := opArith (if isFp (fmtOf b) then 4 else 2) b, vin := 1, vout := 1 }
    fun s =>
      let w := laneBits (fmtOf b)
      s.vgives t 1 (gather w ((lanesOf w (s.varg t 0)).map (laneUnary b (fld b 5 3)))) 3)

/-- VSTAT pushes the vector unit's state word (R127). -/
def execVstat (t : TileNo) (b : Byte) (s : State) : Ans :=
  .next (s.issue t { opc := 0xB8, opb := b, legal := opNone b, dout := 1 } fun s =>
    let v := (s.tile t).vec
    s.gives t 0 [BitVec.ofNat 64 (v.vd + if v.port = 0 then 0 else 16)] 3)

/-- A lane of VDOT4: four products added to a 32-bit lane, wrapping (R118). -/
def dot4 (b : Byte) (x y : List Nat) (i z : Nat) : Nat :=
  let p (k : Nat) : Int := intValue 8 (!bit b 3) (x.getD (4 * i + k) 0) * intValue 8 (!bit b 4) (y.getD (4 * i + k) 0)
  intBits 32 ((z : Int) + p 0 + p 1 + p 2 + p 3)

/-- VDOT4 ( a b c -- z ) (R118). -/
def execVdot4 (t : TileNo) (b : Byte) (s : State) : Ans :=
  .next (s.issue t { opc := 0xB9, opb := b, legal := b &&& 0xE7 == 0, vin := 3, vout := 1 } fun s =>
    let x := lanesOf 8 (s.varg t 2)
    let y := lanesOf 8 (s.varg t 1)
    s.vgives t 3 (ofLanes 32 ((lanesOf 32 (s.varg t 0)).mapIdx fun i z => dot4 b x y i z), 0) 3)

/-- VDIV, floating point only (R117, R119). -/
def execVdiv (t : TileNo) (b : Byte) (s : State) : Ans :=
  .next (vecOp t 0xBA b (opArith 1 b && isFp (fmtOf b)) (laneArith b Fmt.div (fun x _ => x)) s)

/-! ## The vector port (R124, R125) -/

/-- The fault of one line at an offset: beyond tile memory first, then misaligned (R70, R124). DEDUCED (log entry 128): a
misaligned line that reaches past the end is beyond. -/
def vlineFault (off : Word) : Option Byte :=
  if (lineRange off 1).isSome then some 0x07 else if off.toNat % 64 ≠ 0 then some 0x06 else none

/-- VLD reads 64 B of tile memory as it stands at issue (R118, R124). -/
def execVld (t : TileNo) (b : Byte) (s : State) : Ans :=
  .next (s.issue t { opc := 0xA0, opb := b, port := true, din := 1, vout := 1 } fun s =>
    let off := localOff (s.arg t 0) b 64
    match vlineFault off with
    | some c => .trap s c off 0
    | none =>
      let v := lineOf (s.portRead t off.toNat 64)
      let bad := s.portBad t off.toNat 64
      let s := s.portMeet t off.toNat 64
      if bad && (s.tile t).precise then .trap s 0x1C ((s.tile t).core.pc.setWidth 64) 0
      else .ok (((s.push t 1 [] 3).pushV t 0 [v] 3).putFlags t 3 0 (if bad then some 0x1C else none)) .seq)

/-- VST writes 64 B of tile memory at its issue (R118, R124). -/
def execVst (t : TileNo) (b : Byte) (s : State) : Ans :=
  .next (s.issue t { opc := 0xA1, opb := b, port := true, din := 1, vin := 1 } fun s =>
    let off := localOff (s.arg t 0) b 64
    match vlineFault off with
    | some c => .trap s c off 0
    | none => .ok (((s.portWrite t off.toNat (lineBytes (s.varg t 0))).push t 1 [] 0).pushV t 1 [] 0) .seq)

/-- The operand byte of VGATHER and VSCATTER: 2 for 4-byte lanes, 3 for 8-byte lanes (R118). -/
def opGather (b : Byte) : Bool := b == 2 || b == 3

/-- The offsets that off and the index lanes name (R118). -/
def gatherOffsets (off : Word) (w : Nat) (idx : Line) : List Nat := (lanesOf (8 * w) idx).map fun i => off.toNat + i * w

/-- The fault of a VGATHER or VSCATTER, with its EVAL: misaligned first, then the lowest lane out of range (R70, R124,
R127). -/
def gatherFault (off : Word) (w : Nat) (offs : List Nat) : Option (Byte × Word) :=
  if off.toNat % w ≠ 0 then some (0x06, off)
  else (offs.find? fun o => decide (0x40000 < o + w)).map fun o => (0x32, BitVec.ofNat 64 o)

/-- A VGATHER or VSCATTER occupies the vector port (R125). -/
def State.occupyPort (s : State) (t : Nat) : State := s.modTile t fun x => { x with vec := { x.vec with port := 16 } }

/-- VGATHER loads lane i from off + idx_i × w (R118, R125). -/
def execVgather (t : TileNo) (b : Byte) (s : State) : Ans :=
  .next (s.issue t { opc := 0xA2, opb := b, legal := opGather b, port := true, din := 1, vin := 1, vout := 1 } fun s =>
    let w := widthOf b.toNat
    let offs := gatherOffsets (s.arg t 0) w (s.varg t 0)
    match gatherFault (s.arg t 0) w offs with
    | some (c, v) => .trap s c v 0
    | none =>
      let v := ofLanes (8 * w) (offs.map fun o => leNat (s.portRead t o w))
      let bad := offs.any fun o => s.portBad t o w
      let s := offs.foldl (fun (s : State) o => s.portMeet t o w) s
      if bad && (s.tile t).precise then .trap s 0x1C ((s.tile t).core.pc.setWidth 64) 0
      else .ok ((((s.occupyPort t).push t 1 [] 19).pushV t 1 [v] 19).putFlags t 19 0 (if bad then some 0x1C else none)) .seq)

/-- VSCATTER ( v idx -- ) stores lane i to off + idx_i × w: its write is a result in flight of distance 15 (R118,
R125). -/
def execVscatter (t : TileNo) (b : Byte) (s : State) : Ans :=
  .next (s.issue t { opc := 0xA3, opb := b, legal := opGather b, port := true, din := 1, vin := 2 } fun s =>
    let w := widthOf b.toNat
    let offs := gatherOffsets (s.arg t 0) w (s.varg t 0)
    match gatherFault (s.arg t 0) w offs with
    | some (c, v) => .trap s c v 0
    | none =>
      let writes := List.zip offs ((lanesOf (8 * w) (s.varg t 1)).map (natBytes w))
      let s := s.modTile t fun x =>
        { x with core := { x.core with flight := x.core.flight ++
          [{ ord := x.core.issued, rem := 16, dest := .scatter writes, flags := 0, exc := none, pc := x.core.pc }] } }
      .ok (((s.occupyPort t).push t 1 [] 0).pushV t 2 [] 0) .seq)

/-- Whether a result in flight is a VSCATTER's write. -/
def Flight.isScatter (f : Flight) : Bool :=
  match f.dest with
  | .scatter _ => true
  | _ => false

/-- A VSCATTER's write that is due writes all its lanes together (R125). Nothing happens where none is due. -/
def execVscatterWrite (t : TileNo) (s : State) : Ans :=
  let fl := (s.tile t).core.flight
  let due (f : Flight) : Bool := f.isScatter && f.rem == 0
  .next (if fl.any due then s.landList t (fl.filter due) (fl.filter fun f => !due f) else s)

/-! ## VCOPY and VFILL (R49, R126) -/

/-- VCOPY ( dst src n -- ): n lines in ascending order, each read before it is written (R126). -/
def execVcopy (t : TileNo) (b : Byte) (s : State) : Ans :=
  .next (s.issue t { opc := 0xB6, opb := b, legal := opNone b, din := 3 } fun s =>
    let s := s.drain t
    let n := s.arg t 0
    let src := s.arg t 1
    let dst := s.arg t 2
    match lineRange dst n, lineRange src n with
    | some v, _ => .trap s 0x07 v 0
    | none, some v => .trap s 0x07 v 0
    | none, none =>
      if dst.toNat % 64 ≠ 0 then .trap s 0x06 dst 0
      else if src.toNat % 64 ≠ 0 then .trap s 0x06 src 0
      else s.beginMove t 0xB6 b)

/-- VFILL ( x dst n -- ): every 8-byte word of n lines becomes x (R126). -/
def execVfill (t : TileNo) (b : Byte) (s : State) : Ans :=
  .next (s.issue t { opc := 0xB7, opb := b, legal := opNone b, din := 3 } fun s =>
    let s := s.drain t
    let n := s.arg t 0
    let dst := s.arg t 1
    match lineRange dst n with
    | some v => .trap s 0x07 v 0
    | none =>
      if dst.toNat % 64 ≠ 0 then .trap s 0x06 dst 0
      else s.beginMove t 0xB7 b)

end Sys2Proof.Machine
end

