-- ==== Sys2Proof/Machine/Tmu.lean ====
section
/-! DEFINITION. The tile matrix unit (R128 to R141): its array, the moves of its tile registers, and one meaning per
instruction and event. -/

namespace Sys2Proof.Machine

/-! ## TCFG (R129) -/

/-- M: rows of A used. -/
def cfgM (c : Word) : Nat := fld c 4 3 + 1

/-- N: rows of B used. -/
def cfgN (c : Word) : Nat := fld c 7 3 + 1

/-- K: elements along K. -/
def cfgK (c : Word) : Nat := fld c 10 7

/-- ATYPE. -/
def cfgA (c : Word) : Nat := fld c 0 2

/-- BTYPE. -/
def cfgB (c : Word) : Nat := fld c 2 2

/-- Whether a TMMA that captures this TCFG raises TMU_CONFIG (R140). -/
def cfgBad (c : Word) : Bool :=
  cfgA c == 3 || cfgB c == 3 || ((cfgA c == 2) != (cfgB c == 2)) || cfgK c == 0
    || decide ((if cfgA c = 2 then 32 else 64) < cfgK c)

/-! ## The array (R131, R132) -/

/-- An INT8 word accumulated over products: a word that leaves its range keeps the limit it crossed (R109, R131). -/
def dotInt (ua ub : Bool) (k : Nat) (a b : Line) (c : BitVec 32) : BitVec 32 × Bool :=
  let sg := !(ua && ub)
  let r := (List.range k).foldl (fun (x : Int × Bool) i =>
    if x.2 then x
    else
      let v := x.1 + intValue 8 (!ua) (fld a (8 * i) 8) * intValue 8 (!ub) (fld b (8 * i) 8)
      if v < intMin 32 sg then (intMin 32 sg, true)
      else if intMax 32 sg < v then (intMax 32 sg, true)
      else (v, false)) (intValue 32 sg c.toNat, false)
  (BitVec.ofInt 32 r.1, r.2)

/-- A BF16 word accumulated over products, each converted to FP32 and added in ascending k (R131). -/
def dotBf (k : Nat) (a b : Line) (c : BitVec 32) : BitVec 32 × BitVec 7 :=
  (List.range k).foldl (fun (x : BitVec 32 × BitVec 7) i =>
    let p := fp32.mul (fld a (16 * i) 16 * 65536) (fld b (16 * i) 16 * 65536)
    let r := fp32.add x.1.toNat p.1
    (BitVec.ofNat 32 r.1, x.2 ||| p.2 ||| r.2)) (c, 0)

/-- The accumulator, SAT and flags after a TMMA (R131). -/
def Tmu.multiply (u : Tmu) (m : Tmma) : Tmu × BitVec 7 :=
  let c := m.cfg
  let acc0 := if m.z then Vector.replicate 64 0 else u.acc
  (List.range (cfgM c * cfgN c)).foldl (fun (x : Tmu × BitVec 7) n =>
    let i := n / cfgN c
    let j := n % cfgN c
    let a := u.row m.a.toNat i
    let b := u.row m.b.toNat j
    let old := nth x.1.acc (8 * i + j) 0
    if cfgA c = 2 then
      let r := dotBf (cfgK c) a b old
      ({ x.1 with acc := x.1.acc.setIfInBounds (8 * i + j) r.1 }, x.2 ||| r.2)
    else
      let r := dotInt (cfgA c == 1) (cfgB c == 1) (cfgK c) a b old
      ({ x.1 with acc := x.1.acc.setIfInBounds (8 * i + j) r.1, sat := x.1.sat || r.2 }, x.2))
    ({ u with acc := acc0 }, 0)

/-! ## Instructions (R130) -/

/-- TCFG sets TCFG for the instructions after it (R130, R134). -/
def execTcfg (t : TileNo) (b : Byte) (s : State) : Ans :=
  .next (s.issue t { opc := 0xC0, opb := b, legal := opNone b, din := 1 } fun s =>
    let c := s.arg t 0 &&& 0xFFFFFFFFFFFF
    .ok ((s.modTile t fun x => { x with tmu := { x.tmu with tcfg := c } }).push t 1 [] 0) .seq)

/-- TCFGR reads TCFG (R130). -/
def execTcfgr (t : TileNo) (b : Byte) (s : State) : Ans :=
  .next (s.issue t { opc := 0xC1, opb := b, legal := opNone b, dout := 1 } fun s =>
    s.gives t 0 [(s.tile t).tmu.tcfg] 3)

/-- TSTAT pushes the unit's state word; SAT clears as it is read (R141). -/
def execTstat (t : TileNo) (b : Byte) (s : State) : Ans :=
  .next (s.issue t { opc := 0xC8, opb := b, legal := opNone b, dout := 1 } fun s =>
    let u := (s.tile t).tmu
    let busy := u.queue.any (·.started)
    let v := BitVec.ofNat 64 (u.queue.length + 8 * busy.toNat + 16 * u.sat.toNat)
    .ok ((s.modTile t fun x => { x with tmu := { x.tmu with sat := false } }).push t 0 [v] 3) .seq)

/-- The TMMA that an operand byte makes of a tile's state. -/
def Tile.tmma (x : Tile) (opb : Byte) : Tmma :=
  { ord := x.core.issued, cfg := x.tmu.tcfg, a := opb.extractLsb' 0 3, b := opb.extractLsb' 3 3, z := bit opb 6
    pc := x.core.pc, started := false }

/-- A TMMA has run: the accumulator, SAT and the reuse latches (R131, R135). -/
def State.tmmaDone (s : State) (t : Nat) (m : Tmma) (u : Tmu) (queue : List Tmma) : State :=
  let latch := (u.latch.setIfInBounds m.a.toNat (some (cfgM m.cfg - 1))).setIfInBounds m.b.toNat (some (cfgN m.cfg - 1))
  s.modTile t fun x => { x with tmu := { u with queue, latch } }

/-- Cycles for which the array runs a TMMA (R132). -/
def Tmma.cycles (m : Tmma) : Nat := cfgM m.cfg * cfgN m.cfg * if cfgA m.cfg = 2 then (cfgK m.cfg + 15) / 16 else 1

/-- Whether a TMMA may raise an exception that PRECISE makes precise: a BF16 one, under an enabled trap (R80, R132). -/
def Tile.tmmaTraps (x : Tile) : Bool := x.precise && cfgA x.tmu.tcfg == 2 && fld x.ctl.fcsr 8 5 != 0

/-- TMMA once its parcel has passed: TMU_CONFIG first, then a place in the array queue (R131, R133, R140). DEDUCED (log entry
127): one whose exception must be precise waits until the queue is empty and runs before the next instruction issues; its
exception leaves it without effect (R80). -/
def tmmaBody (t : Nat) (opb : Byte) (s : State) : Res :=
  let s := s.drain t
  let x := s.tile t
  let u := x.tmu
  let m := x.tmma opb
  if cfgBad u.tcfg then .trap s 0x38 u.tcfg 0
  else if u.queue.length ≥ 4 ∨ (x.tmmaTraps ∧ u.queue ≠ []) then .hold (s.setDoing t (.wait 0xC4 opb))
  else if x.tmmaTraps then
    let (u', fl) := u.multiply m
    match trapCode x.ctl.fcsr fl with
    | some c => .trap s c (x.core.pc.setWidth 64) 0
    | none => .ok (((s.tmmaDone t m u' []).putFlags t 0 fl none).modTile t fun x => x.idle m.cycles) .seq
  else .ok (s.modTile t fun x => { x with tmu := { x.tmu with queue := x.tmu.queue ++ [m] } }) .seq

/-- TMMA queues a multiplication (R131). -/
def execTmma (t : TileNo) (b : Byte) (s : State) : Ans :=
  .next (s.issue t { opc := 0xC4, opb := b, legal := opLow 7 b } (tmmaBody t b))

/-- An instruction that reaches the accumulator waits until the array queue is empty (R133). -/
def State.whenIdle (s : State) (t : Nat) (opc opb : Byte) (k : State → Res) : Res :=
  let s := s.drain t
  if (s.tile t).tmu.queue.isEmpty then k s else .hold (s.setDoing t (.wait opc opb))

/-- TPULL once its parcel has passed. -/
def tpullBody (t : Nat) (opb : Byte) (s : State) : Res :=
  s.whenIdle t 0xC5 opb fun s =>
    let w := nth (s.tile t).tmu.acc (fld opb 0 6) 0
    s.gives t 0 [if bit opb 6 then w.signExtend 64 else w.setWidth 64] 3

/-- TPULL pushes an accumulator word (R130). -/
def execTpull (t : TileNo) (b : Byte) (s : State) : Ans :=
  .next (s.issue t { opc := 0xC5, opb := b, legal := opLow 7 b, dout := 1 } (tpullBody t b))

/-- The 256 bytes of the accumulator. -/
def Tmu.accBytes (u : Tmu) : List Byte := u.acc.toList.flatMap fun w => natBytes 4 w.toNat

/-- The fault of a 256-byte accumulator move at an offset: out of range first, then misaligned (R70, R130). -/
def accFault (off : Word) : Option (Byte × Word) :=
  match lineRange off 4 with
  | some v => some (0x07, v)
  | none => if off.toNat % 64 ≠ 0 then some (0x06, off) else none

/-- TSTA once its parcel has passed. -/
def tstaBody (t : Nat) (opb : Byte) (s : State) : Res :=
  let s := s.drain t
  match accFault (s.arg t 0) with
  | some (c, v) => .trap s c v 0
  | none =>
    s.whenIdle t 0xC6 opb fun s =>
      let off := (s.arg t 0).toNat
      .ok ((s.portWrite t off (s.tile t).tmu.accBytes).push t 1 [] 0) .seq

/-- TSTA stores the accumulator to tile memory (R130). -/
def execTsta (t : TileNo) (b : Byte) (s : State) : Ans :=
  .next (s.issue t { opc := 0xC6, opb := b, legal := opNone b, din := 1 } (tstaBody t b))

/-- TLDA once its parcel has passed. -/
def tldaBody (t : Nat) (opb : Byte) (s : State) : Res :=
  let s := s.drain t
  match accFault (s.arg t 0) with
  | some (c, v) => .trap s c v 0
  | none =>
    s.whenIdle t 0xC7 opb fun s =>
      let off := (s.arg t 0).toNat
      let bs := s.portRead t off 256
      let bad := s.portBad t off 256
      let s := s.portMeet t off 256
      if bad && (s.tile t).precise then .trap s 0x1C ((s.tile t).core.pc.setWidth 64) 0
      else
        let acc := Vector.ofFn fun (i : Fin 64) => BitVec.ofNat 32 (leNat ((bs.drop (4 * i.val)).take 4))
        .ok (((s.modTile t fun x => { x with tmu := { x.tmu with acc } }).push t 1 [] 0).putFlags t 0 0
          (if bad then some 0x1C else none)) .seq

/-- TLDA loads the accumulator from tile memory (R130). -/
def execTlda (t : TileNo) (b : Byte) (s : State) : Ans :=
  .next (s.issue t { opc := 0xC7, opb := b, legal := opNone b, din := 1 } (tldaBody t b))

/-- TVEC once its parcel has passed. -/
def tvecBody (t : Nat) (opb : Byte) (s : State) : Res :=
  s.whenIdle t 0xC9 opb fun s =>
    let u := (s.tile t).tmu
    let v := ofLanes 32 ((List.range 16).map fun i => (nth u.acc (16 * fld opb 0 2 + i) 0).toNat)
    .ok (s.pushV t 0 [v] 3) .seq

/-- TVEC pushes accumulator rows 2p and 2p + 1 on the vector stack (R130). -/
def execTvec (t : TileNo) (b : Byte) (s : State) : Ans :=
  .next (s.issue t { opc := 0xC9, opb := b, legal := opLow 2 b, vout := 1 } (tvecBody t b))

/-! ## Moving tile registers (R136, R137) -/

/-- The fault of the rows' addresses: a row beyond tile memory, where a is an offset, then a misaligned a or STRIDE
(R70, R136). -/
def Tile.rowFault (x : Tile) (a : Word) (global : Bool) : Option (Byte × Word) :=
  let stride := cfgStride x.tmu.tcfg
  let far := if global then none else x.rowsLeft.find? fun r => decide (0x40000 < a.toNat + r * stride + 64)
  match far with
  | some r => some (0x07, a + BitVec.ofNat 64 (r * stride))
  | none =>
    if a.toNat % 64 ≠ 0 then some (0x06, a)
    else if stride % 64 ≠ 0 then some (0x06, a + BitVec.ofNat 64 stride)
    else none

/-- Whether a row of this tile's TLOAD has been requested. -/
def State.rowAsked (s : State) (t r : Nat) : Bool :=
  s.reqs.any fun q => q.tile = t && q.kind == .row r

/-- TLOAD of rows from global memory: rows are requested in order as line accesses under the rules for GLD. A row that
the cache or the tile's own memory gives is written when it is next; a fault or a TLB miss counts when its row is next
(R136, R137, R216). -/
def tloadGlobal (t reg : Nat) (opb : Byte) (a : Word) (tr : Option TlbEntry) : List Nat → State → Res
  | [], s => if (s.reqs.any fun q => q.tile = t && match q.kind with | .row _ => true | _ => false)
      then .hold (s.setDoing t (.long 0xC2 opb)) else s.rowsDone t
  | r :: rest, s =>
    let wait (s : State) : Res := .hold (s.setDoing t (.long 0xC2 opb))
    let first := (s.tile t).firstRow == r
    if s.rowAsked t r then tloadGlobal t reg opb a tr rest s
    else
      let va := (s.tile t).rowAddr a r
      match s.look t tr va kLoad with
      | .fault c => if first then .trap (s.setRowNext t r) c va 0 else wait s
      | .miss => if first then .hold (s.startWalk t 0xC2 opb va kLoad) else wait s
      | .hit s' city e =>
        let x := s'.tile t
        let cached := x.den && s'.cacheable t city e.nc
        let free := s'.acqMet t x.gmem.acqE x.gmem.seq && s'.fenMet t x.gmem.fenE
        match if cached && free then cacheFind x.gmem.dcache (city / 64) else none with
        | some l =>
          if first then
            let s' := s'.modTile t fun x => { x with gmem := { x.gmem with dcache := cacheInstall x.gmem.dcache l } }
            tloadGlobal t reg opb a tr rest (s'.putRow t reg r l.data)
          else wait s
        | none =>
          if free && s'.ownMem t city then
            if first then
              let off := devAddr city - tileMemBase t
              let v := lineOf (s'.portRead t off 64)
              tloadGlobal t reg opb a tr rest ((s'.portMeet t off 64).putRow t reg r v)
            else wait s
          else
            let s' := s'.modTile t fun y => { y with gmem := y.gmem.drainLines (· == city / 64) }
            if !cached then tloadGlobal t reg opb a tr rest (s'.addReq t (.row r) city none false .sent)
            else match if free then s'.joinable t (city / 64) else none with
              | some q =>
                let s' := ((s'.count t 5 1).demand q.id).addReq t (.row r) city none false (.joined q.id)
                tloadGlobal t reg opb a tr rest (s'.prefetch t city e.big)
              | none =>
                match s'.takeReg t with
                | none => wait s'
                | some s' =>
                  let id := s'.nextId
                  let s' := (((s'.noInstall t (· == city / 64)).count t 5 1).addFill t city false).addReq t (.row r) city none
                    false (.joined id)
                  tloadGlobal t reg opb a tr rest (s'.prefetch t city e.big)

/-- TLOAD once its parcel has passed (R133, R136, R137). -/
def tloadBody (t : Nat) (opb : Byte) (tr : Option TlbEntry) (s : State) : Res :=
  let s := s.drain t
  let a := s.arg t 0
  let reg := fld opb 0 3
  let x := s.tile t
  match x.rowFault a (bit opb 3) with
  | some (c, v) => .trap s c v 0
  | none =>
    if x.tmu.queue.any fun m => m.a.toNat = reg || m.b.toNat = reg then .hold (s.setDoing t (.wait 0xC2 opb))
    else
      let s := s.modTile t fun x => { x with tmu := { x.tmu with latch := x.tmu.latch.setIfInBounds reg none } }
      if bit opb 3 then tloadGlobal t reg opb a tr x.rowsLeft s else s.beginMove t 0xC2 opb

/-- TLOAD loads rows of a tile register (R136). -/
def execTload (t : TileNo) (b : Byte) (s : State) : Ans :=
  .next (s.issue t { opc := 0xC2, opb := b, legal := opLow 4 b, din := 1 } (tloadBody t b none))

/-- TSTORE once its parcel has passed (R136, R137). -/
def tstoreBody (t : Nat) (opb : Byte) (tr : Option TlbEntry) (s : State) : Res :=
  let s := s.drain t
  let a := s.arg t 0
  match (s.tile t).rowFault a (bit opb 3) with
  | some (c, v) => .trap s c v 0
  | none =>
    match tr with
    | some _ => tstoreRows t opb a tr false (s.tile t).rowsLeft s
    | none => s.beginMove t 0xC3 opb

/-- TSTORE stores rows of a tile register (R136). -/
def execTstore (t : TileNo) (b : Byte) (s : State) : Ans :=
  .next (s.issue t { opc := 0xC3, opb := b, legal := opLow 4 b, din := 1 } (tstoreBody t b none))

/-! ## Events -/

/-- The instruction of the TMU that a tile holds goes on, if it is one of those that wait for the array (R133). -/
def State.retryTmu (s : State) (t : Nat) : State :=
  match (s.tile t).waitsIn with
  | some (opc, opb) =>
    match opc.toNat with
    | 0xC2 => (tloadBody t opb none s).conclude t (heldForm opc opb)
    | 0xC4 => (tmmaBody t opb s).conclude t (heldForm opc opb)
    | 0xC5 => (tpullBody t opb s).conclude t (heldForm opc opb)
    | 0xC6 => (tstaBody t opb s).conclude t (heldForm opc opb)
    | 0xC7 => (tldaBody t opb s).conclude t (heldForm opc opb)
    | 0xC9 => (tvecBody t opb s).conclude t (heldForm opc opb)
    | _ => s
  | none => s

/-- The TMMA at the head of the array queue starts (R132). -/
def execTmmaStart (t : TileNo) (s : State) : Ans :=
  .next (match (s.tile t).tmu.queue with
    | m :: rest =>
      if m.started then s
      else s.modTile t fun x => { x with tmu := { x.tmu with queue := { m with started := true } :: rest } }
    | [] => s)

/-- The running TMMA finishes: the accumulator, SAT, the reuse latches, the FCSR flags and the exception they raise;
an instruction that waits for the array goes on (R131 to R135). -/
def execTmmaFinish (t : TileNo) (s : State) : Ans :=
  .next (match (s.tile t).tmu.queue with
    | m :: rest =>
      if !m.started then s
      else
        let (u, fl) := (s.tile t).tmu.multiply m
        let s := s.tmmaDone t m u rest
        let exc := trapCode (s.tile t).ctl.fcsr fl
        let s := s.land t { ord := m.ord, rem := 0, dest := .flagsOnly, flags := fl, exc, pc := m.pc }
        s.retryTmu t
    | [] => s)

/-- The next row of a global TLOAD arrives and is written; the TLOAD goes on (R136, R137, R216). -/
def execTloadRowArrives (t : TileNo) (s : State) : Ans :=
  let x := s.tile t
  .next (match x.longIn with
    | some (opc, opb) =>
      if opc ≠ 0xC2 then s
      else
        match s.reqs.find? fun q => q.tile = t.val && q.kind == .row x.firstRow && q.performed with
        | none => s
        | some q =>
          match q.st with
          | .done data poison =>
            let s := { s with reqs := s.reqs.filter fun r => r.id ≠ q.id }
            let va := x.rowAddr (s.arg t 0) x.firstRow
            let s := if poison then s.logConsumed t va else s
            let s := s.putRow t (fld opb 0 3) x.firstRow data
            if x.firstRow = cfgRows x.tmu.tcfg then (s.rowsDone t).conclude t (heldForm opc opb)
            else (tloadBody t opb none s).conclude t (heldForm opc opb)
          | _ => s
    | _ => s)

end Sys2Proof.Machine
end

