-- ==== Sys2Proof/Machine/Held.lean ====
section
/-! DEFINITION. The instruction that a tile holds: running it again when a walk or an event lets it go on, and leaving it
unexecuted (R46 to R49, R133, R137, R211, R286, R346). -/

namespace Sys2Proof.Machine

/-- What a held instruction that makes global accesses does when it runs again, with the translation that a walk has
delivered (R206, R211). -/
def heldBody (t : Nat) (opc opb : Byte) (tr : Option TlbEntry) (s : State) : Res :=
  match opc.toNat with
  | 0x60 => gldBody t 0x60 opb tr s
  | 0x61 => gldBody t 0x61 opb tr s
  | 0x63 => gstBody t opb tr s
  | 0x64 => gldbBody t opb tr s
  | 0x68 => aaddBody t opb tr s
  | 0x69 => acasBody t opb tr s
  | 0x6A => mcmpBody t opb tr s
  | 0x6B => mcntBody t opb tr s
  | 0x6C => mrcntBody t 0x6C opb tr s
  | 0x6D => mrcntBody t 0x6D opb tr s
  | 0x6E => waitmBody t opb tr s
  | 0xC2 => tloadBody t opb tr s
  | 0xC3 => tstoreBody t opb tr s
  | 0xD8 => dmagoBody t opb tr s
  | _ => .hold s

/-- The held instruction runs again and concludes. -/
def State.rerun (s : State) (t : Nat) (opc opb : Byte) (tr : Option TlbEntry) : State :=
  (heldBody t opc opb tr s).conclude t (heldForm opc opb)

/-- The requests of a long instruction that are dropped when it stops (R137, R188, R490). -/
def ReqKind.ofLong (k : ReqKind) : Bool :=
  match k with
  | .gldb _ => true
  | .row _ => true
  | .count _ _ _ => true
  | _ => false

/-- Drops a tile's requests for lines, rows and ranges. -/
def State.dropLong (s : State) (t : Nat) : State :=
  { s with reqs := s.reqs.filter fun r => r.tile ≠ t || !r.kind.ofLong }

/-- A TLOAD or TSTORE that stops names its next row in TSTART (R137). -/
def State.stopRows (s : State) (t : Nat) (opc : Byte) : State :=
  if opc = 0xC2 ∨ opc = 0xC3 then (s.dropLong t).setRowNext t (s.tile t).firstRow else s.dropLong t

/-- Leaves the held instruction unexecuted, with its operands in place, for an interrupt, a timeout or a park; answers
whether it has been left, or the tile must still wait for an answer that decides (R48, R286, R346). An instruction that is
neither waiting nor long is not left while its access walks. VCOPY, VFILL, TLOAD and TSTORE have by then moved some of the
lines or rows that remain, how many is a free value. -/
def State.abandon (s : State) (t : Nat) : State × Bool :=
  let free (s : State) : State × Bool := (s.setDoing t .issue, true)
  match (s.tile t).core.doing with
  | .issue => (s, true)
  | .walk opc _ _ _ _ =>
    match opc.toNat with
    | 0x63 => free s
    | 0x64 => free (s.dropLong t)
    | 0x6C => free (s.dropLong t)
    | 0x6D => free (s.dropLong t)
    | 0x6E => free s
    | 0xC2 => free (s.stopRows t opc)
    | 0xC3 => free s
    | _ => (s, false)
  | .long opc opb =>
    if movesItself opc opb then
      let n := (Config.free s.fresh).toNat % s.unitsLeft t opc
      match { s with fresh := s.fresh + 1 }.moveOn t opc opb n with
      | .hold s => free (s.stopRows t opc)
      | r => (r.conclude t (heldForm opc opb), false)
    else free (s.stopRows t opc)
  | .wait opc _ =>
    match opc.toNat with
    | 0x6E =>
      match s.reqs.find? fun r => r.tile = t && r.isWatch with
      | none => free s
      | some r =>
        match r.st with
        | .remote txid =>
          if s.txs.any fun x => x.txid = txid && x.unwatched then (s, false) else (s.unwatch r, false)
        | _ => free (s.unwatch r)
    | 0xE7 =>
      if s.blocks.any fun e => e.2.watches.any fun w => w.tile = t && w.served then (s, false)
      else free (s.untallyTile t)
    | 0xE0 =>
      match s.attempts.find? fun a => a.tile = t && a.opc = 0xE0 with
      | none => free s
      | some a =>
        match a.st with
        | .flying _ => (s, false)
        | _ => free (s.dropAttempt a.id)
    | _ => free s

end Sys2Proof.Machine
end

