-- ==== Sys2Proof/Machine/Power.lean ====
section
/-! DEFINITION. Clocks, power and temperature: operating points and their ceilings, steps, gating and waking of blocks,
parking of tiles, PLLs, self-refresh, the patrols and the sweeper (R189 to R192, R200, R428, R447 to R460). -/

namespace Sys2Proof.Machine

/-! ## Operating points and ceilings (R448 to R452) -/

/-- The supply of an operating point, in mV (R448). -/
def opSupply (op : Nat) : Nat := [750, 720, 690, 660, 630, 600, 575, 560].getD op 560

/-- Main cycles per always-on tick at an operating point (R2, R447, R448). -/
def opCycles (op : Nat) : Nat := [21, 19, 17, 15, 13, 11, 9, 8].getD op 8

/-- The greater of two unsigned values. -/
def hiOf (a b : BitVec n) : BitVec n := if a < b then b else a

/-- The lesser of two unsigned values. -/
def loOf (a b : BitVec n) : BitVec n := if b < a then b else a

/-- The quarters that share an avenue link with a quarter (R7, R451). -/
def adjacent (q : Nat) : List Nat :=
  (if 5 ≤ q then [q - 5] else []) ++ (if q % 5 < 4 then [q + 1] else []) ++ (if q < 15 then [q + 5] else [])
    ++ (if 0 < q % 5 then [q - 1] else [])

/-- The highest request (R452). -/
def QClk.req (c : QClk) : BitVec 3 := c.reqs.foldl (fun m e => hiOf m e.2) 0

/-- The highest ceiling (R450). -/
def QClk.ceil (c : QClk) : BitVec 3 := hiOf (hiOf c.req c.thermal) (hiOf c.power c.neigh)

/-- The ceiling that a quarter calls for by itself. -/
def QClk.own (c : QClk) : BitVec 3 := hiOf c.op (hiOf c.req (hiOf c.thermal c.power))

/-- QCLK.CAUSE: the first source that gives the highest ceiling (R452). -/
def QClk.cause (c : QClk) : Nat :=
  if c.ceil = 0 then 0 else if c.req = c.ceil then 1 else if c.thermal = c.ceil then 2 else if c.power = c.ceil then 3 else 4

/-- The lowest operating point whose supply exceeds that of `op` by at most 75 mV (R451). -/
def leastOp (op : Nat) : Nat := ((List.range 8).find? fun o => decide (opSupply o ≤ opSupply op + 75)).getD op

/-- Changes a quarter's clock registers. -/
def State.modClk (s : State) (q : Nat) (f : QClk → QClk) : State :=
  s.modQuarter q fun x => { x with clk := f x.clk }

/-- A quarter's clock registers. -/
def State.clk (s : State) (q : Nat) : QClk := (s.quarter q).clk

/-- The permit of a quarter's clock step (R436). -/
def clockPermit (q : Nat) : Permit := { act := .clock, unit := ⟨23, q⟩ }

/-- Starts a step of a quarter to an operating point, once it holds the CLOCK permit (R449). -/
def State.startStep (s : State) (q : Nat) (op : BitVec 3) : State :=
  if (s.clk q).step.isSome || s.curfew then s
  else
    let (s, ok) := s.askPermit (some q) (clockPermit q)
    if ok then s.modClk q fun c => { c with step := some op } else s

/-- Steps a quarter down by one operating point where a ceiling stands above it. A neighbour whose supply would then stand
more than 75 mV higher receives a neighbour ceiling and steps first (R450, R451). -/
def State.stepDown (s : State) (q : Nat) : Nat → State
  | 0 => s
  | n + 1 =>
    let c := s.clk q
    if c.step.isSome || decide (c.ceil ≤ c.op) then s
    else
      let to_ := c.op.toNat + 1
      let high (m : Nat) : Bool := decide ((s.clk m).op.toNat < leastOp to_)
      let block := (adjacent q).filter high
      if block.isEmpty then s.startStep q (c.op + 1)
      else block.foldl (fun (s : State) m =>
        (s.modClk m fun y => { y with neigh := hiOf y.neigh (BitVec.ofNat 3 (leastOp to_)) }).stepDown m n) s

/-- The Square looks at every quarter's ceilings again (R450). -/
def State.stepAll (s : State) : State :=
  if s.curfew then s
  else ((List.range 20).filter fun q => decide ((s.clk q).op < (s.clk q).ceil)).foldl (fun (s : State) q => s.stepDown q 20) s

/-- The neighbour ceiling that a quarter still needs (R451). -/
def State.neighNeed (s : State) (q : Nat) : BitVec 3 :=
  BitVec.ofNat 3 ((adjacent q).foldl (fun m n => Nat.max m (leastOp (s.clk n).own.toNat)) 0)

/-- A quarter has stepped up: its neighbours keep the neighbour ceilings that are still needed (R451). -/
def State.releaseNeigh (s : State) (q : Nat) : State :=
  (adjacent q).foldl (fun (s : State) m => s.modClk m fun c => { c with neigh := loOf c.neigh (s.neighNeed m) }) s

/-- A step of one operating point ends (R449). -/
def execOpStepEnd (q : QuarterNo) (s : State) : Ans :=
  .next (match (s.clk q.val).step with
    | none => s
    | some op =>
      let up := decide (op < (s.clk q.val).op)
      let last := (List.range 20).foldl (fun m r => Nat.max m (s.clk r).stepped) 0
      let s := (s.modClk q.val fun c =>
        { c with op, step := none, vq := BitVec.ofNat 16 (opSupply op.toNat), stepped := last + 1 }).dropPermit
        (some q.val) (clockPermit q.val)
      (if up then s.releaseNeigh q.val else s).stepAll)

/-- Whether a step up keeps the supply limit against every neighbour (R451). -/
def State.mayRise (s : State) (q : Nat) : Bool :=
  (adjacent q).all fun m => decide (opSupply ((s.clk q).op.toNat - 1) ≤ opSupply (s.clk m).op.toNat + 75)

/-- 10 ms have passed: a quarter whose ceilings all stand below its operating point steps up by one (R450). -/
def execOpStepUpTimer (q : QuarterNo) (s : State) : Ans :=
  .next (let c := s.clk q.val
    if c.ceil < c.op ∧ s.mayRise q.val then s.startStep q.val (c.op - 1) else s)

/-- Device address of a quarter's clock registers (R452). -/
def qclkAddr (q : Nat) : Nat := 0xF0000000000 + q * 0x100000000 + 0x57000000

/-- A write of QCLK sets REQ for the writer's partition (R450, R452). -/
def State.writeQclk (s : State) (q : Nat) (p : Option PartNo) (v : Word) : State :=
  let key := match p with
    | some p => p.toNat
    | none => 64
  (s.modClk q fun c => { c with reqs := Tab.write key (v.extractLsb' 8 3) c.reqs }).stepAll

/-- A write of QCLK (R452). -/
def execQclkReq (w : Writer) (q : QuarterNo) (v : Word) (s : State) : Ans :=
  .next (if s.mayCtl w q.val then s.writeQclk q.val (s.resetter w) v else s.deniedCtl w (qclkAddr q.val) true)

/-! ## Temperature and input power (R451, R453, R454) -/

/-- One operating point higher, up to 7. -/
def raiseOp (c : BitVec 3) : BitVec 3 := if c = 7 then 7 else c + 1

/-- One operating point lower, down to 0. -/
def lowerOp (c : BitVec 3) : BitVec 3 := if c = 0 then 0 else c - 1

/-- The thermal ceiling after a sample: 50 samples make 1 ms and 500 make 10 ms (R451, R453). -/
def QClk.sample (c : QClk) (tj thbm : Byte) (diff : Bool) : QClk :=
  let hot := decide (95 ≤ tj.toNat) || decide (95 ≤ thbm.toNat)
  let cool := decide (tj.toNat ≤ 90) && decide (thbm.toNat ≤ 90)
  let up := (hot && c.hotN % 50 == 0) || (diff && c.diffN % 50 == 0)
  let down := cool && c.coolN == 500
  { c with
    tj, thbm, tpeak := hiOf c.tpeak tj
    hotN := if hot then c.hotN + 1 else 0
    diffN := if diff then c.diffN + 1 else 0
    coolN := if down then 1 else if cool then c.coolN + 1 else 0
    thermal := if up then raiseOp c.thermal else if down then lowerOp c.thermal else c.thermal
    vq := BitVec.ofNat 16 (opSupply c.op.toNat) }

/-- The lamplighter's sample: 105 °C at a junction is curfew THERMAL (R439, R451, R453). -/
def execThermalSample (q : QuarterNo) (tj thbm : Byte) (s : State) : Ans :=
  .next (
    let diff := (adjacent q.val).any fun m => decide ((s.clk m).tj.toNat + 25 < tj.toNat)
    let s := s.modClk q.val fun c => c.sample tj thbm diff
    if 105 ≤ tj.toNat then s.enterCurfew 0x10 else s.stepAll)

/-- An edge-die junction reaches 105 °C (R453). -/
def execEdgeDieThermalLimit (_e : EdgeNo) (s : State) : Ans := .next (s.enterCurfew 0x10)

/-- The order in which quarters' power ceilings rise: lowest operating point first, then the least recently stepped, then
the lowest number (R454). -/
def State.powerOrder (s : State) : List Nat :=
  sortBy (fun q => (s.clk q).op.toNat * 2 ^ 64 + (s.clk q).stepped) (List.range 20)

/-- Quarters whose CLOCK permit is free (R454). -/
def State.clockFree (s : State) (q : Nat) : Bool :=
  !s.permitBlocked (clockPermit q) && !(s.permitsOf (some q)).wait.contains (clockPermit q)

/-- What the power stages let in of a draw: at most 17.5 kW (R16). -/
def stagesLimit : Nat := 17500

/-- The input power, which the power stages limit, is sampled by the running Square: two power ceilings rise above 16.5 kW, one
falls after 10 ms below 15.5 kW, and 10 ms above 16.5 kW is curfew SUPPLY; 100 samples make 10 ms (R16, R439, R454). -/
def execPowerSample (watt : Nat) (s : State) : Ans :=
  .next (
    let m := s.module
    let watt := min watt stagesLimit
    if !s.sq.running then { s with module := { m with watt } } else
    let overCnt := if 16500 < watt then m.overCnt + 1 else 0
    let under := if watt < 15500 then m.underCnt + 1 else 0
    let fall := under == 101
    let s := { s with module := { m with watt, overCnt, underCnt := if fall then 1 else under } }
    if overCnt = 101 then s.enterCurfew 0x11
    else if 16500 < watt then
      let two := (s.powerOrder.filter fun q => s.clockFree q && (s.clk q).op ≠ 7).take 2
      (two.foldl (fun (s : State) q => s.modClk q fun c => { c with power := raiseOp c.power }) s).stepAll
    else if fall then
      match (s.powerOrder.filter fun q => (s.clk q).power ≠ 0).getLast? with
      | some q => s.modClk q fun c => { c with power := lowerOp c.power }
      | none => s
    else s)

/-! ## Gating and waking blocks (R456, R458, R459) -/

/-- Whether a tile is runnable (R456). -/
def State.runnable (s : State) (t : Nat) : Bool :=
  let x := s.tile t
  x.core.run == .running && !x.parked && x.resetting.isNone && !s.sq.fp.tiles.contains t

/-- A block with no runnable tile, no stag command and no DMA chain gates itself; a wake event cancels the gating (R456,
R458). -/
def execBlockGate (k : BlockNo) (s : State) : Ans :=
  .next (let b := s.block k.val
    if b.gatedAt.isSome || b.waking || (blockTiles k.val).any s.runnable || !b.stag.queue.isEmpty
        || b.dma.chans.toList.any (fun c => !c.chains.isEmpty) then s
    else s.setBlock k.val { b with gatedAt := some (s.quarter (k.val / 64)).cycles, waking := false })

/-- A gated block's clock starts after a wake event, once the quarter PLL runs (R458). -/
def execBlockWake (k : BlockNo) (s : State) : Ans :=
  .next (let b := s.block k.val
    let q := s.quarter (k.val / 64)
    match b.gatedAt with
    | some g =>
      if b.waking && !q.clk.plloff && !s.curfew then
        s.setBlock k.val { b with gatedAt := none, waking := false, lost := b.lost + (q.cycles - g) }
      else s
    | none => s)

/-- The quarter PLL goes off when every block of the quarter is gated and no CLOCK permit is held (R459). -/
def execPllOff (q : QuarterNo) (s : State) : Ans :=
  .next (if (quarterBlocks q.val).all (fun k => (s.block k).gatedAt.isSome && !(s.block k).waking)
        && !s.holdsPermit (some q.val) (clockPermit q.val) && !s.curfew then
      s.modClk q.val fun c => { c with plloff := true }
    else s)

/-- The quarter PLL locks again (R459). -/
def execPllLock (q : QuarterNo) (s : State) : Ans := .next (s.modClk q.val fun c => { c with plloff := false })

/-! ## Parking (R457) -/

/-- A write of TPARK: it wakes a gated block, and PARK = 0 wakes a parked tile (R457, R458). -/
def State.writePark (s : State) (t : Nat) (v : Word) : State :=
  (s.modTile t fun x =>
    { x with park := bit v 0, parked := x.parked && bit v 0, wake := v.extractLsb' 8 6, lslot := bit v 14 }).wakeBlock
    (blockOf t)

/-- Device address of a tile's window in the quarter control space (R281, R457). -/
def tparkAddr (t : Nat) : Nat := tileWindow t + 0x90000

/-- A write of TPARK by a writer that R197 lets reach it. -/
def execTpark (w : Writer) (t : TileNo) (v : Word) (s : State) : Ans :=
  .next (if s.mayCtl w (quarterOf t.val) then s.writePark t.val v else s.deniedCtl w (tparkAddr t.val) true)

/-- Whether an IPEND bit wakes the tile. -/
def State.wakeDue (s : State) (t : Nat) : Bool := s.ipend t &&& (s.tile t).wake.setWidth 64 != 0

/-- Whether a tile stands at a point where R29 or R48 would allow an interrupt: inside a waiting or long instruction, or at
a boundary with no result in flight that is not before a delay slot (R29, R66). -/
def Tile.boundary (x : Tile) : Bool :=
  match x.core.doing with
  | .issue => x.core.flight.isEmpty && x.core.branch.isNone
  | _ => true

/-- A tile that TPARK asks to park does so; a wake condition that holds leaves it running and clears PARK (R457). -/
def execTilePark (t : TileNo) (s : State) : Ans :=
  .next (let x := s.tile t.val
    if !x.park || x.parked || !x.alive || !x.boundary then s
    else match s.abandon t.val with
      | (s, true) =>
        if s.wakeDue t.val then s.modTile t.val fun y => { y with park := false }
        else s.modTile t.val fun y => { y with parked := true, came := false }
      | (s, false) => s)

/-- A wake condition wakes a parked tile, whose block's clock runs; the tile clears PARK (R457). -/
def execTileWake (t : TileNo) (s : State) : Ans :=
  .next (let x := s.tile t.val
    if x.parked && (s.block (blockOf t.val)).gatedAt.isNone && (s.wakeDue t.val || (x.lslot && x.came)) then
      s.modTile t.val fun y => { y with parked := false, park := false, came := false }
    else s)

/-! ## Self-refresh, patrols and the sweeper (R189 to R192, R200, R428, R460) -/

/-- The agent of a patrol or the sweeper in an error log, which the spec does not number. -/
def State.patrolAgent (s : State) : State × AgentId :=
  ({ s with fresh := s.fresh + 1 }, { src := (Config.free s.fresh).setWidth 4, num := (Config.free s.fresh).extractLsb' 4 16 })

/-- The device address of line n of a DDR5 channel's data (R203). -/
def State.channelLine (s : State) (c n : Nat) : Nat :=
  let die := c / 8
  let mine := (List.range 8).filter fun k => bit s.pop.channels (8 * die + k)
  let i := 3 * mine.findIdx (· == c % 8) + die
  let a := n * 64
  0x20000000000 + (a / 4096 * s.channelCount + i) * 4096 + a % 4096

/-- Lines of a DDR5 channel's data (R203). -/
def State.channelLines (s : State) : Nat := 7 * s.pop.moduleGib * gib / 8 / 64

/-- A patrol reads one line under the PATROL permit of its pseudo-channel or channel, or skips it; answers whether it read it
(R200, R435, R437). -/
def State.patrolLine (s : State) (g : Granter) (u : SpotUnit) (a : Nat) : State × Bool :=
  let p : Permit := { act := .patrol, unit := u }
  let (s, ok) := s.askPermit g p
  if ok then
    let (s, w) := s.patrolAgent
    ((s.meetDram a w).dropPermit g p, true)
  else (s, false)

/-- The pseudo-channel of line n of a quarter's stack. -/
def stackUnit (q n : Nat) : SpotUnit := ⟨9, q * 64 + pseudoChannel (n * 64)⟩

/-- The HBM4 patrol of a quarter reads n lines: each time a line that it has skipped and that is free again, else the next one,
which it skips where another holds its permit (R192, R200, R435). -/
def State.hbmPatrol (s : State) (q : Nat) : Nat → State
  | 0 => s
  | n + 1 =>
    if bit s.sq.fp.hbm q then s
    else
      let line (i : Nat) : Nat := q * 0x1000000000 + i * 64
      match (s.quarter q).patrolSkip.find? fun i => !s.permitBlocked { act := .patrol, unit := stackUnit q i } with
      | some i =>
        let (s, _) := s.patrolLine (some q) (stackUnit q i) (line i)
        (s.modQuarter q fun x => { x with patrolSkip := x.patrolSkip.erase i }).hbmPatrol q n
      | none =>
        let i := (s.quarter q).patrol
        let (s, ok) := s.patrolLine (some q) (stackUnit q i) (line i)
        (s.modQuarter q fun x =>
          { x with patrol := (i + 1) % (s.stackSize / 64), patrolSkip := if ok then x.patrolSkip else x.patrolSkip ++ [i] }).hbmPatrol q n

/-- The patrol of a DDR5 channel reads n lines in the same way (R428, R435). -/
def State.ddrPatrol (s : State) (c : Nat) : Nat → State
  | 0 => s
  | n + 1 =>
    if !bit s.pop.channels c then s
    else
      match if s.permitBlocked { act := .patrol, unit := ⟨10, c⟩ } then none else s.pop.ddrSkip.find? fun e => e.1 = c with
      | some e =>
        let (s, _) := s.patrolLine none ⟨10, c⟩ (s.channelLine c e.2)
        { s with pop := { s.pop with ddrSkip := s.pop.ddrSkip.erase e } }.ddrPatrol c n
      | none =>
        let i := Tab.read 0 c s.pop.ddrPatrol
        let (s, ok) := s.patrolLine none ⟨10, c⟩ (s.channelLine c i)
        { s with pop := { s.pop with
          ddrPatrol := Tab.write c ((i + 1) % s.channelLines) s.pop.ddrPatrol
          ddrSkip := if ok then s.pop.ddrSkip else s.pop.ddrSkip ++ [(c, i)] } }.ddrPatrol c n

/-- The HBM4 patrol reads one line, unless the stack is in self-refresh (R200, R460). -/
def execHbmPatrol (q : QuarterNo) (s : State) : Ans :=
  .next (if (s.quarter q.val).selfRef then s else s.hbmPatrol q.val 1)

/-- A DDR5 channel's patrol reads one line, unless the channel is in self-refresh (R428, R460). -/
def execDdr5Patrol (c : Fin 24) (s : State) : Ans :=
  .next (if bit s.pop.ddrSelf c.val then s else s.ddrPatrol c.val 1)

/-- A stack or a DDR5 channel enters self-refresh (R460). -/
def execSelfRefreshEntry (u : OpUnit) (s : State) : Ans :=
  .next (match u with
    | .hbm q _ => s.modQuarter q.val fun x => { x with selfRef := true }
    | .ddr c => { s with pop := { s.pop with ddrSelf := setBit s.pop.ddrSelf c.val true } })

/-- In self-refresh the patrol reads its lines in one burst: 64 for HBM4, 256 for DDR5 (R460). -/
def execPatrolBurst (u : OpUnit) (s : State) : Ans :=
  .next (match u with
    | .hbm q _ => if (s.quarter q.val).selfRef then s.hbmPatrol q.val 64 else s
    | .ddr c => if bit s.pop.ddrSelf c.val then s.ddrPatrol c.val 256 else s)

/-- Accesses of a sweeper lane's pass (R189). -/
def sweepLength : Nat := 720896

/-- The device address and the bytes of access n of a lane's pass (R189). -/
def sweepAt (k n : Nat) : Nat × Nat :=
  if n < 655360 then (storeBase k + 32 * n, 32)
  else
    let m := n - 655360
    (tileMemBase (k * 16 + m / 4096) + m % 4096 * 64, 64)

/-- Whether an access lies in a retired tile or bank (R189). -/
def State.sweepRetired (s : State) (a : Nat) : Bool :=
  if a < 0x80A00000000 then s.sq.fp.banks.contains (sramUnit a).unit
  else s.sq.fp.tiles.contains ((a - 0x80A00000000) / 0x40000)

/-- Whether a spot test holds the bank of a store word (R192). -/
def State.bankHeld (s : State) (a : Nat) : Bool := s.permitBlocked { act := .sweep, unit := sramUnit a }

/-- A lane reads words of its pass and corrects them, each bank under its permit; the words of held banks are left (R191,
R192). -/
def State.sweepWords (s : State) (ws : List Nat) : State × List Nat :=
  let skip := ws.filter s.bankHeld
  let (s, w) := s.patrolAgent
  ((ws.filter fun a => !skip.contains a).foldl (fun (s : State) a => s.meetSram a w) s, skip)

/-- The access of a pass that a store word belongs to (R189). -/
def sweepLine (a : Nat) : Nat := if a < 0x80A00000000 then a / 32 else a / 64

/-- One access of a sweeper lane: the skipped words of an access whose banks are free again first, else the next one of the
pass, of which it skips the words in banks that a spot test holds (R189, R191, R192). -/
def State.sweep (s : State) (k : Nat) : State :=
  match (s.block k).skipped.find? fun a => !s.bankHeld a with
  | some a =>
    let mine := (s.block k).skipped.filter fun b => sweepLine b = sweepLine a
    let (s, left) := s.sweepWords mine
    s.modBlock k fun b => { b with skipped := b.skipped.filter fun x => sweepLine x ≠ sweepLine a || left.contains x }
  | none =>
    let n := (s.block k).sweep
    let (a, len) := sweepAt k n
    let s := s.modBlock k fun b => { b with sweep := (n + 1) % sweepLength }
    if s.sweepRetired a then s
    else
      let (s, left) := s.sweepWords (unitsOf 8 a len)
      let skips := ((left.map sramUnit).eraseDups).length
      let s := if skips = 0 then s else s.modPermits (some (k / 64)) fun x => { x with skips := satAdd x.skips skips }
      s.modBlock k fun b => { b with skipped := b.skipped ++ left }

/-- A sweeper lane takes a free slot (R190, R191). -/
def execSweeperAccess (k : BlockNo) (s : State) : Ans := .next (s.sweep k.val)

/-- A sweeper lane takes a forced slot (R190, R191). -/
def execSweeperForcedAccess (k : BlockNo) (s : State) : Ans :=
  .next (if (s.block k.val).gatedAt.isSome then s else s.sweep k.val)

end Sys2Proof.Machine
end

