-- ==== Sys2Proof/Machine/Faults.lean ====
section
/-! DEFINITION. Faults and recovery: spot tests and retirement, permits as they are granted, the measurement, and the two
Squares (R428 to R443). -/

namespace Sys2Proof.Machine

/-! ## Permits of spot tests (R432, R435, R436) -/

/-- The granter of a unit: the Square for fabric ports, UCIe modules, DDR5 channels and the boot flash, else the quarter's
lamplighter (R435). -/
def unitGranter (u : SpotUnit) : Granter :=
  if [7, 8, 10, 22, 24].contains u.kind.toNat then none else (unitQuarters u).head?

/-- Whether a granter acts: the Square must hold quorum (R442, R443). -/
def State.granterActs (s : State) (g : Granter) : Bool := g.isSome || s.sq.running

/-- The activity that tests a unit (R436). -/
def spotActivity (kind : Nat) : Activity :=
  if [3, 4].contains kind then .spotT else if [5, 6, 7, 8].contains kind then .spotL else .spotM

/-- The permit of a unit's spot test. -/
def spotPermit (u : SpotUnit) : Permit := { act := spotActivity u.kind.toNat, unit := u }

/-- A permit that is held already, or is asked for (R435). -/
def State.needPermit (s : State) (g : Granter) (p : Permit) : State × Bool :=
  if s.holdsPermit g p then (s, true) else s.askPermit g p

/-! ## Spot tests (R432 to R434) -/

/-- Changes the spot test of a unit. -/
def State.modSpot (s : State) (u : SpotUnit) (f : Spot → Spot) : State :=
  { s with sq := { s.sq with spots := s.sq.spots.map fun (x : Spot) => if x.unit = u then f x else x } }

/-- The spot test of a unit. -/
def State.spotOf (s : State) (u : SpotUnit) : Option Spot := s.sq.spots.find? fun x => x.unit = u

/-- The test of a unit begins: what it takes out of use meanwhile, and whether it ran before (R432). A tile must first
leave the instruction that it holds (R423). -/
def State.beginSpot (s : State) (u : SpotUnit) : State :=
  let go (s : State) (was : Bool) : State := s.modSpot u fun x => { x with running := true, was }
  match u.kind.toNat with
  | 3 =>
    match s.abandon u.unit with
    | (s, true) =>
      let was := (s.tile u.unit).core.run == .running
      go (if was then s.modTile u.unit fun x => { x with core := { x.core with run := .stopped } } else s) was
    | (s, false) => s
  | 4 =>
    let was := !(s.block u.unit).stag.paused
    go (if was then (s.modStag u.unit fun x => { x with paused := true }).stagCount u.unit 15 1 else s) was
  | 7 => go (if (s.port u.unit).state = 3 then s.modPort u.unit Port.train else s) true
  | 8 => go { s with sq := { s.sq with ucieBad := setBit s.sq.ucieBad u.unit true } }.setUcie (!bit s.sq.ucieBad u.unit)
  | _ => go s true

/-- A scheduled spot test starts once it holds its permit (R432, R435). -/
def execSpotTestStart (u : SpotUnit) (s : State) : Ans :=
  .next (match s.spotOf u with
    | none => s
    | some x =>
      if x.running || u.kind = 12 || !s.granterActs (unitGranter u) then s
      else match s.needPermit (unitGranter u) (spotPermit u) with
        | (s, true) => s.beginSpot u
        | (s, false) => s)

/-- The SPOT field of entry n of an error log, while the ring still holds it (R431). -/
def ErrLog.setSpot (l : ErrLog) (n : Nat) (v : Byte) : ErrLog :=
  if n < l.head.toNat ∧ l.head.toNat ≤ n + 512 then
    { l with entries := l.entries.map fun e => if e.1 = n % 512 then (e.1, { e.2 with spot := v }) else e }
  else l

/-- A test ends with a result: the SPOT field of the entry that scheduled it is rewritten, and the monitor hears of it where
it asked (R431, R464). -/
def State.setSpot (s : State) (x : Spot) (v : Byte) : State :=
  let s := if x.asked then s.emit (.mon true 1 [v.setWidth 64]) else s
  match x.entry with
  | none => s
  | some n =>
    match x.unit.kind.toNat with
    | 7 => s.modEdge (x.unit.unit / 6) fun e => { e with elog := e.elog.setSpot n v }
    | 10 => s.modEdge (x.unit.unit / 8) fun e => { e with elog := e.elog.setSpot n v }
    | _ =>
      match (unitQuarters x.unit).head? with
      | some q => s.modQuarter q fun e => { e with elog := e.elog.setSpot n v }
      | none => s

/-- A test is over: the unit comes back into use unless it has retired, and the permit is given back (R432, R433). -/
def State.endSpot (s : State) (x : Spot) (retired : Bool) : State :=
  let u := x.unit
  let s := { s with sq := { s.sq with spots := s.sq.spots.filter fun y => y.unit ≠ u } }
  let s := match u.kind.toNat with
    | 3 =>
      if x.was && !retired && (s.tile u.unit).core.run == Run.stopped && !s.curfew then
        s.modTile u.unit fun y => { y with core := { y.core with run := .running } }
      else s
    | 4 => if x.was && !s.curfew then s.modStag u.unit fun y => { y with paused := false } else s
    | 8 => if x.was then { s with sq := { s.sq with ucieBad := setBit s.sq.ucieBad u.unit false } }.setUcie else s
    | _ => s
  s.dropPermit (unitGranter u) (spotPermit u)

/-- A SQUARE message to the lowest-numbered good tile of a partition, whether it runs or is switched out (R423, R434). -/
def State.tellPart (s : State) (p : Nat) : State :=
  match s.lowestTile (BitVec.ofNat 6 p) with
  | some t => s.squareMsg t
  | none =>
    match s.firstGood p with
    | some t => s.modPart p fun y =>
      { y with saved := y.saved.map fun (e : Nat × Tile) =>
        if e.1 = t then (e.1, { e.2 with ctl := { e.2.ctl with ipend := setBit e.2.ctl.ipend 5 true } }) else e }
    | none => s

/-- A stag that retires: each queued command will complete with ERRC = DATA (R434). -/
def Stag.fail (g : Stag) : Stag :=
  { g with
    paused := false
    queue := g.queue.map fun (c : StagCmd) => { c with bad := true }
    run := g.run.map fun (r : StagRun) => { r with err := some (r.err.getD 9) } }

/-- A lane of a port retires; which lane failed the spec leaves to the test. A port with a retired lane in both pairs is
retired (R338, R434). -/
def State.retireLane (s : State) (p : Nat) : State :=
  let l := 4 * p + (Config.free s.fresh).toNat % 4
  (({ s with fresh := s.fresh + 1 }.logRetire 7 p).modPlan fun f => { f with lane := setBit f.lane l true }).applyLanes p

/-- A DRAM row is repaired while a spare row remains; else its lines read as uncorrectable. Whether one remains, and which
lines beside the one that met the error make up the row, the spec does not give (R434). -/
def State.retireRow (s : State) (x : Spot) : State :=
  let line (l : ErrLog) (n : Nat) : Nat := (Tab.read { time := 0, addr := 0, kind := 0, sev := 0, unit := 0, spot := 0, agent := 0, src := 0 : ErrEntry } (n % 512) l.entries).addr.toNat
  let log := if x.unit.kind = 10 then (s.edge (x.unit.unit / 8)).elog else (s.quarter (x.unit.unit / 64)).elog
  let spare := bit (Config.free s.fresh) 0
  let s := { s with fresh := s.fresh + 1 }.logRetire x.unit.kind x.unit.unit
  match x.entry with
  | some n => if spare then s else { s with marks := Tab.write (line log n / 64 * 64) true s.marks }
  | none => s

/-- Takes a unit out of service and adds it to the floor plan record (R434, steps 1 and 2). -/
def State.retireUnit (s : State) (x : Spot) : State :=
  let u := x.unit
  match u.kind.toNat with
  | 1 => s.retireTile (u.unit / 16)
  | 2 => s.retireBank u.unit
  | 3 => s.retireTile u.unit
  | 4 => (s.retireStag u.unit).modStag u.unit Stag.fail
  | 7 => s.retireLane u.unit
  | 8 => ((s.logRetire 8 u.unit).modPlan fun f => { f with ucie := setBit f.ucie u.unit true }).setUcie
  | 9 => s.retireRow x
  | 10 => s.retireRow x
  | 11 => s.logRetire 11 u.unit
  | _ =>
    let key := u.kind.toNat * 2 ^ 20 + u.unit
    let s := s.logRetire u.kind u.unit
    if s.sq.badLinks.contains key then s.enterCurfew 0x13
    else { s with sq := { s.sq with badLinks := key :: s.sq.badLinks } }

/-- A unit retires (R433, R434). -/
def State.retire_ (s : State) (x : Spot) : State :=
  let s := ((s.retireUnit x).setSpot x 3).endSpot x true
  let s := { s with sq := { s.sq with failures := s.sq.failures.filter fun f => f.1 ≠ x.unit } }
  let parts := (if (unitGranter x.unit).isSome then unitQuarters x.unit else []).flatMap s.holders
  (parts.eraseDups.foldl State.tellPart s).tellManager 8 x.unit.unit

/-- 30 days in ns (R433). -/
def days30 : Nat := 30 * 86400 * 1000000000

/-- Whether a unit has a failure recorded within the last 30 days (R433). -/
def State.failedBefore (s : State) (u : SpotUnit) : Bool :=
  s.sq.failures.any fun f => f.1 = u && decide (s.time.toNat ≤ f.2.toNat + days30)

/-- A spot test ends, as the Square decides (R433). More than 16 corrected errors within 1 s count as a failure (R432). -/
def execSpotTestEnd (u : SpotUnit) (pass : Bool) (s : State) : Ans :=
  .next (match s.spotOf u with
    | none => s
    | some x =>
      if !x.running || !s.sq.running then s
      else if x.again then
        if pass then
          let s := (s.setSpot x 2).endSpot x false
          { s with sq := { s.sq with failures := (u, s.time) :: s.sq.failures.filter fun f => f.1 ≠ u } }
        else s.retire_ x
      else if pass && !x.storm then (s.setSpot x 1).endSpot x false
      else if s.failedBefore u then s.retire_ x
      else s.modSpot u fun x => { x with again := true, storm := false })

/-- The permit of a write of the floor plan record to the part whose turn it is (R386, R436). -/
def flashPermit (a : Activity) (part : Nat) : Permit := { act := a, unit := ⟨24, part⟩ }

/-- The write of the floor plan record completes, under its permit (R434, R435). -/
def execFloorPlanWriteDone (s : State) : Ans :=
  .next (if !s.sq.fp.dirty || !s.sq.running then s
    else
      let p := flashPermit .flashw s.sq.flash.nextFp.toNat
      match s.needPermit none p with
      | (s, true) => s.writePlan.dropPermit none p
      | (s, false) => s)

/-- The Square rewrites a control entry from its master copy: the entry holds what it held, and the error needs no test
(R429, R432). -/
def execControlEntryRewrite (entry : Nat) (s : State) : Ans :=
  .next (if s.sq.running then { s with sq := { s.sq with spots := s.sq.spots.filter fun x => x.unit ≠ ⟨12, entry⟩ } } else s)

/-! ## Permits granted (R435, R436) -/

/-- The oldest request that waits at a granter for a unit of a number and can be granted: no older one waits for the same
unit (R435). -/
def State.grantable (s : State) (g : Granter) (unit : Nat) : Option Permit :=
  let l := (s.permitsOf g).wait
  l.find? fun w => w.unit.unit == unit && !s.permitBlocked w && (l.find? fun x => x.unit == w.unit) == some w

/-- The longest hold of a memory interface's activity, in ns (R436). -/
def longestHold (p : Permit) : Nat :=
  if p.act = .hbmcal then 2000000 else if p.unit.kind = 21 then 1000000 else 5000000

/-- A recalibration or a retrain of a memory interface runs until its longest hold (R436). -/
def State.holdFor (s : State) (g : Granter) (p : Permit) : State :=
  s.modPermits g fun x => { x with till := x.till ++ [(p, s.time + BitVec.ofNat 64 (longestHold p))] }

/-- What an activity does once its waiting request is granted. -/
def State.granted (s : State) (g : Granter) (p : Permit) : State :=
  match p.act with
  | .retrain =>
    if p.unit.kind = 7 then
      if (s.port p.unit.unit).state = 3 then s.modPort p.unit.unit Port.train else s.dropPermit g p
    else s.holdFor g p
  | .hbmcal => s.holdFor g p
  | .clock =>
    let q := p.unit.unit
    let c := s.clk q
    if c.op < c.ceil then s.modClk q fun y => { y with step := some (y.op + 1) }
    else if c.ceil < c.op ∧ s.mayRise q then s.modClk q fun y => { y with step := some (y.op - 1) }
    else s.dropPermit g p
  | _ => s

/-- A waiting permit request is granted (R435). -/
def execPermitGrant (u : PermitUnit) (s : State) : Ans :=
  .next (let g : Granter := u.quarter.map (·.val)
    if !s.granterActs g then s
    else match s.grantable g u.unit with
      | none => s
      | some p => (s.modPermits g fun x => { x with wait := x.wait.erase p, held := x.held ++ [p] }).granted g p)

/-- The HBM4 controller starts a recalibration of a stack (R436). -/
def execHbmRefreshRecalibration (q : QuarterNo) (s : State) : Ans :=
  let p : Permit := { act := .hbmcal, unit := ⟨20, q.val⟩ }
  .next (match s.askPermit (some q.val) p with
    | (s, true) => s.holdFor (some q.val) p
    | (s, false) => s)

/-- A memory interface is retrained (R436). -/
def execMemoryInterfaceRetrain (u : OpUnit) (s : State) : Ans :=
  let p : Permit := match u with
    | .hbm q _ => { act := .retrain, unit := ⟨21, q.val⟩ }
    | .ddr c => { act := .retrain, unit := ⟨22, c.val⟩ }
  let g := unitGranter p.unit
  .next (if !s.granterActs g then s
    else match s.askPermit g p with
      | (s, true) => s.holdFor g p
      | (s, false) => s)

/-- The running firmware and the records are measured under MEASURE permits on both flash parts; a difference is curfew
MEASURE (R436, R439). -/
def execMeasureCheck (same : Bool) (s : State) : Ans :=
  let pa := flashPermit .measure 0
  let pb := flashPermit .measure 1
  .next (if !s.sq.running then s
    else
      let (s, a) := s.needPermit none pa
      let (s, b) := s.needPermit none pb
      if a && b then
        let s := (s.dropPermit none pa).dropPermit none pb
        if same then s else s.enterCurfew 0x12
      else s)

/-! ## The Squares (R442, R443) -/

/-- How many lamplighters a Square hears. -/
def heardCount (w : BitVec 20) : Nat := (List.range 20).countP fun q => bit w q

/-- Whether a Square that hears these lamplighters holds quorum (R442). -/
def quorum (w : BitVec 20) : Bool := decide (11 ≤ heardCount w)

/-- Whether E0 works: it recovered its UDS and no takeover holds it in reset (R381, R443). -/
def Square.here0 (x : Square) : Bool := x.uds0 && x.active != some true

/-- Whether E1 works: it recovered its UDS and, as the standby, has not failed. -/
def Square.here1 (x : Square) : Bool := x.uds1 && (x.standby || x.active == some true)

/-- The Squares and lamplighters exchange heartbeats. An active Square that has regained quorum acts again; a standby that
hears neither the active Square nor any lamplighter has failed, and the active reports it (R442, R443). -/
def execSquareHeartbeat (heard0 heard1 : BitVec 20) (standbyHears : Bool) (s : State) : Ans :=
  let x := s.sq
  let h0 : BitVec 20 := if x.here0 then heard0 else 0
  let h1 : BitVec 20 := if x.here1 then heard1 else 0
  let mine := if x.active = some true then h1 else h0
  let gone := x.standby && h1 == 0 && !standbyHears
  let s := { s with sq := { x with
    heard0 := h0, heard1 := h1
    lost0 := if quorum h0 then 0 else x.lost0 + 1
    lost1 := if quorum h1 then 0 else x.lost1 + 1
    silent := if standbyHears || !x.standby then 0 else x.silent + 1
    running := x.running || (x.active.isSome && quorum mine)
    standby := x.standby && !gone } }
  .next (if gone && s.sq.running then s.tellManager 9 0 else s)

/-- Lack of quorum for 1 ms stops the active Square; lack of it at both for 10 ms is curfew QUORUM, run by the Square that
hears more lamplighters, E0 on a tie (R442). -/
def execQuorumLoss (s : State) : Ans :=
  let x := s.sq
  let lost := if x.active = some true then x.lost1 else x.lost0
  let more := if heardCount x.heard0 < heardCount x.heard1 then some true
    else if heardCount x.heard1 < heardCount x.heard0 || x.here0 then some false else x.active
  .next (if x.active.isNone || s.curfew then s
    else if 100 ≤ x.lost0 ∧ 100 ≤ x.lost1 then
      { s with sq := { x with active := more, running := true } }.enterCurfew 0x14
    else if 10 ≤ lost then { s with sq := { x with running := false } }
    else s)

/-- The standby takes over: it has heard no active Square for 1 ms, holds quorum, and its lamplighters hear no active
Square either (R443). -/
def execSquareTakeover (s : State) : Ans :=
  let x := s.sq
  .next (if x.standby && x.active == some false && decide (10 ≤ x.silent) && quorum x.heard1 && (x.heard0 &&& x.heard1) == 0 then
      { s with sq := { x with active := some true, standby := false, running := true, silent := 0 } }.tellManager 10 0
    else s)

end Sys2Proof.Machine
end

