-- ==== Sys2Proof/Machine/Clock.lean ====
section
/-! DEFINITION. The always-on clock: what one tick of 20 ns does where no command comes (R2, R58, R171, R266, R356, R436,
R447, R449, R469). -/

namespace Sys2Proof.Machine

/-- Main cycles that a quarter's clock counts in one tick: during a step, those of the lower frequency; none with its PLL
off (R449, R459). -/
def QClk.tickCycles (c : QClk) : Nat :=
  if c.plloff then 0 else opCycles (hiOf c.op (c.step.getD c.op)).toNat

/-- The performance events of n cycles at a tile: cycles, and cycles in a waiting instruction or a hold of the TMU
(R469). -/
def State.tickTile (s : State) (t n : Nat) : State :=
  let s := s.count t 1 n
  match (s.tile t).core.doing with
  | .wait opc _ => s.count t (if 0xC0 ≤ opc.toNat ∧ opc.toNat ≤ 0xCF then 14 else 4) n
  | _ => s

/-- The counters of a block whose clock runs: cycles with a stag command running, with all 128 DMA slots held, and with a
transfer ready beside (R171, R266). -/
def Block.tick (b : Block) (n : Nat) : Block :=
  let b := if b.stag.run.isSome && !b.stag.paused then
      { b with stag := { b.stag with ctrs := b.stag.ctrs.setIfInBounds 0 (satAdd (nth b.stag.ctrs 0 0) n) } }
    else b
  if 128 ≤ b.dma.inFlight.length then
    let add (v : Vector Word 8) (i : Nat) : Vector Word 8 := v.setIfInBounds i (satAdd (nth v i 0) n)
    let v := add b.dma.ctrs 4
    { b with dma := { b.dma with ctrs := if b.dma.chans.toList.any Channel.ready then add v 5 else v } }
  else b

/-- Permits whose longest hold has passed (R436). -/
def Permits.expire (x : Permits) (now : Word) : Permits :=
  let out := (x.till.filter fun e => decide (e.2 ≤ now)).map (·.1)
  { x with held := x.held.filter fun p => !out.contains p, till := x.till.filter fun e => decide (now < e.2) }

/-- One tick in a quarter: its cycles, and permits that end. -/
def Quarter.tick (x : Quarter) (now : Word) : Quarter :=
  { x with cycles := x.cycles + x.clk.tickCycles, permits := x.permits.expire now }

/-- Nanoseconds by which a tick slews device time toward the manager's: at most 1 ns in each 50,000 ticks, which are 1 ms.
The spec bounds the slew and does not give it (R356). -/
def State.slew (s : State) : Int :=
  if (s.ticks + 1) % 50000 = 0 ∧ bit (Config.free s.fresh) 0 = true then s.dist.behind.sign else 0

/-- One tick of the always-on clock; an instruction that moves lines moves those that are left (R49, R356, R447). -/
def tick (s : State) : State :=
  let old := s
  let now := s.time + BitVec.ofInt 64 (20 + old.slew)
  let runs (k : Nat) : Bool := (old.block k).gatedAt.isNone
  let cyc (k : Nat) : Nat := (old.clk (k / 64)).tickCycles
  let s := { s with
    time := now, ticks := s.ticks + 1, fresh := if (s.ticks + 1) % 50000 = 0 then s.fresh + 1 else s.fresh
    dist := { s.dist with behind := s.dist.behind - old.slew }
    quarters := (List.range 20).map fun q => (q, (old.quarter q).tick now)
    blocks := s.blocks.map fun (e : Nat × Block) => (e.1, if runs e.1 then e.2.tick (cyc e.1) else e.2)
    sq := { s.sq with permits := s.sq.permits.expire now } }
  let s := (s.tiles.filter fun e => runs (blockOf e.1)).foldl (fun (s : State) e => s.finishLines e.1) s
  (s.tiles.filter fun e => runs (blockOf e.1) && e.2.pcsel.toList.any fun v => v != 0).foldl
    (fun (s : State) e => s.tickTile e.1 (cyc (blockOf e.1))) s

end Sys2Proof.Machine
end

