-- ==== Sys2Proof/Machine/Alu.lean ====
section
/-! DEFINITION. The integer instructions (R31, R32, opcodes 0x20 to 0x4E) and the annex (R23, R24). -/

namespace Sys2Proof.Machine

/-- Issues an instruction that replaces T by a function of it, at distance 0. -/
def alu1 (t : TileNo) (opc b : Byte) (legal : Bool) (f : Word → Word) (s : State) : State :=
  s.issue t { opc, opb := b, legal, din := 1, dout := 1 } fun s => s.gives t 1 [f (s.arg t 0)] 0

/-- Issues an instruction ( x y -- z ) at a ready distance. -/
def alu2 (t : TileNo) (opc b : Byte) (d : Nat) (f : Word → Word → Word) (s : State) : State :=
  s.issue t { opc, opb := b, legal := opNone b, din := 2, dout := 1 } fun s =>
    s.gives t 2 [f (s.arg t 1) (s.arg t 0)] d

/-- Rotate left by n mod 64 (R31). -/
def rotl (x n : Word) : Word := x.rotateLeft (n.toNat % 64)

/-- Leading zeros, 64 for 0 (R31). -/
def leadingZeros (x : Word) : Word := BitVec.ofNat 64 (if x = 0 then 64 else 63 - Nat.log2 x.toNat)

/-- Trailing zeros over the low n bits. -/
def trailingZerosFrom (x : Word) : Nat → Nat → Nat
  | 0, i => i
  | n + 1, i => if bit x i then i else trailingZerosFrom x n (i + 1)

/-- Trailing zeros, 64 for 0 (R31). -/
def trailingZeros (x : Word) : Word := BitVec.ofNat 64 (trailingZerosFrom x 64 0)

/-- Bits set (R31). -/
def bitsSet (x : Word) : Word := BitVec.ofNat 64 ((List.range 64).countP fun i => bit x i)

/-- Copies bit k into the bits above it (R31). -/
def signFrom (k : Nat) (x : Word) : Word := (x <<< (63 - k)).sshiftRight (63 - k)

/-- Clears the bits above bit k (R31). -/
def zeroFrom (k : Nat) (x : Word) : Word := (x <<< (63 - k)) >>> (63 - k)

/-- Issues a division (R32): distance 18; a zero divisor gives the default result, sets IDZ and raises the
divide-by-zero exception. -/
def divOp (t : TileNo) (opc b : Byte) (f : Word → Word → Word) (dz : Word → Word) (s : State) : State :=
  s.issue t { opc, opb := b, legal := opNone b, din := 2, dout := 1 } fun s =>
    let x := s.arg t 1
    let y := s.arg t 0
    if y = 0 then s.arith t 2 [dz x] 0 [] 18 flagIDZ else s.arith t 2 [f x y] 0 [] 18 0

/-- ADD ( x y -- x+y ), modulo 2^64 (R31, R32). -/
def execAdd (t : TileNo) (b : Byte) (s : State) : Ans := .next (alu2 t 0x20 b 0 (fun x y => x + y) s)

/-- SUB ( x y -- x−y ), modulo 2^64 (R31, R32). -/
def execSub (t : TileNo) (b : Byte) (s : State) : Ans := .next (alu2 t 0x21 b 0 (fun x y => x - y) s)

/-- AND (R31). -/
def execAnd (t : TileNo) (b : Byte) (s : State) : Ans := .next (alu2 t 0x22 b 0 (fun x y => x &&& y) s)

/-- OR (R31). -/
def execOr (t : TileNo) (b : Byte) (s : State) : Ans := .next (alu2 t 0x23 b 0 (fun x y => x ||| y) s)

/-- XOR (R31). -/
def execXor (t : TileNo) (b : Byte) (s : State) : Ans := .next (alu2 t 0x24 b 0 (fun x y => x ^^^ y) s)

/-- NOT: bitwise complement (R31). -/
def execNot (t : TileNo) (b : Byte) (s : State) : Ans := .next (alu1 t 0x25 b (opNone b) (fun x => ~~~x) s)

/-- NEG: two's-complement negation (R31). -/
def execNeg (t : TileNo) (b : Byte) (s : State) : Ans := .next (alu1 t 0x26 b (opNone b) (fun x => -x) s)

/-- ADDI adds its sign-extended immediate (R31). -/
def execAddi (t : TileNo) (b : Byte) (s : State) : Ans := .next (alu1 t 0x27 b true (fun x => x + b.signExtend 64) s)

/-- SHL: shift left by n mod 64 (R31). -/
def execShl (t : TileNo) (b : Byte) (s : State) : Ans := .next (alu2 t 0x28 b 0 (fun x y => x <<< (y.toNat % 64)) s)

/-- SHR: logical right shift by n mod 64 (R31). -/
def execShr (t : TileNo) (b : Byte) (s : State) : Ans := .next (alu2 t 0x29 b 0 (fun x y => x >>> (y.toNat % 64)) s)

/-- SAR: arithmetic right shift by n mod 64 (R31). -/
def execSar (t : TileNo) (b : Byte) (s : State) : Ans := .next (alu2 t 0x2A b 0 (fun x y => x.sshiftRight (y.toNat % 64)) s)

/-- ROL: rotate left by n mod 64 (R31). -/
def execRol (t : TileNo) (b : Byte) (s : State) : Ans := .next (alu2 t 0x2B b 0 (fun x y => rotl x y) s)

/-- SHLI: shift left by n, 0 to 63 (R31). -/
def execShli (t : TileNo) (b : Byte) (s : State) : Ans := .next (alu1 t 0x2C b (opLow 6 b) (fun x => x <<< b.toNat) s)

/-- SHRI: logical right shift by n, 0 to 63 (R31). -/
def execShri (t : TileNo) (b : Byte) (s : State) : Ans := .next (alu1 t 0x2D b (opLow 6 b) (fun x => x >>> b.toNat) s)

/-- SARI: arithmetic right shift by n, 0 to 63 (R31). -/
def execSari (t : TileNo) (b : Byte) (s : State) : Ans := .next (alu1 t 0x2E b (opLow 6 b) (fun x => x.sshiftRight b.toNat) s)

/-- MIN, signed (R31). -/
def execMin (t : TileNo) (b : Byte) (s : State) : Ans := .next (alu2 t 0x2F b 0 (fun x y => if x.slt y then x else y) s)

/-- MAX, signed (R31). -/
def execMax (t : TileNo) (b : Byte) (s : State) : Ans := .next (alu2 t 0x30 b 0 (fun x y => if x.slt y then y else x) s)

/-- MINU, unsigned (R31). -/
def execMinu (t : TileNo) (b : Byte) (s : State) : Ans := .next (alu2 t 0x31 b 0 (fun x y => if x.ult y then x else y) s)

/-- MAXU, unsigned (R31). -/
def execMaxu (t : TileNo) (b : Byte) (s : State) : Ans := .next (alu2 t 0x32 b 0 (fun x y => if x.ult y then y else x) s)

/-- CLZ (R31). -/
def execClz (t : TileNo) (b : Byte) (s : State) : Ans := .next (alu1 t 0x33 b (opNone b) (fun x => leadingZeros x) s)

/-- CTZ (R31). -/
def execCtz (t : TileNo) (b : Byte) (s : State) : Ans := .next (alu1 t 0x34 b (opNone b) (fun x => trailingZeros x) s)

/-- POPC (R31). -/
def execPopc (t : TileNo) (b : Byte) (s : State) : Ans := .next (alu1 t 0x35 b (opNone b) (fun x => bitsSet x) s)

/-- SEXT copies bit k into bits [63:k+1] (R31). -/
def execSext (t : TileNo) (b : Byte) (s : State) : Ans := .next (alu1 t 0x36 b (opLow 6 b) (fun x => signFrom b.toNat x) s)

/-- ZEXT clears bits [63:k+1] (R31). -/
def execZext (t : TileNo) (b : Byte) (s : State) : Ans := .next (alu1 t 0x37 b (opLow 6 b) (fun x => zeroFrom b.toNat x) s)

/-- SEL ( a b f -- z ): a where f is not zero, else b (R31). -/
def execSel (t : TileNo) (b : Byte) (s : State) : Ans :=
  .next (s.issue t { opc := 0x38, opb := b, legal := opNone b, din := 3, dout := 1 } fun s =>
    s.gives t 3 [if s.arg t 0 ≠ 0 then s.arg t 2 else s.arg t 1] 0)

/-- EQ: 1 where x = y, else 0 (R31, R32). -/
def execEq (t : TileNo) (b : Byte) (s : State) : Ans := .next (alu2 t 0x40 b 0 (fun x y => ofBool64 (x == y)) s)

/-- NE (R31). -/
def execNe (t : TileNo) (b : Byte) (s : State) : Ans := .next (alu2 t 0x41 b 0 (fun x y => ofBool64 (x != y)) s)

/-- LT, signed (R31). -/
def execLt (t : TileNo) (b : Byte) (s : State) : Ans := .next (alu2 t 0x42 b 0 (fun x y => ofBool64 (x.slt y)) s)

/-- LTU, unsigned (R31). -/
def execLtu (t : TileNo) (b : Byte) (s : State) : Ans := .next (alu2 t 0x43 b 0 (fun x y => ofBool64 (x.ult y)) s)

/-- LE, signed (R31). -/
def execLe (t : TileNo) (b : Byte) (s : State) : Ans := .next (alu2 t 0x44 b 0 (fun x y => ofBool64 (x.sle y)) s)

/-- LEU, unsigned (R31). -/
def execLeu (t : TileNo) (b : Byte) (s : State) : Ans := .next (alu2 t 0x45 b 0 (fun x y => ofBool64 (x.ule y)) s)

/-- ZEQ: x = 0 (R31). -/
def execZeq (t : TileNo) (b : Byte) (s : State) : Ans := .next (alu1 t 0x46 b (opNone b) (fun x => ofBool64 (x == 0)) s)

/-- ZLT: x below 0, signed (R31). -/
def execZlt (t : TileNo) (b : Byte) (s : State) : Ans := .next (alu1 t 0x47 b (opNone b) (fun x => ofBool64 (x.slt 0)) s)

/-- MUL: low 64 bits of the product, distance 2 (R25, R31). -/
def execMul (t : TileNo) (b : Byte) (s : State) : Ans := .next (alu2 t 0x48 b 2 (fun x y => x * y) s)

/-- MULH: high 64 bits of the signed product, distance 2 (R25, R31). -/
def execMulh (t : TileNo) (b : Byte) (s : State) : Ans := .next (alu2 t 0x49 b 2 (fun x y => BitVec.ofInt 64 (x.toInt * y.toInt / 2 ^ 64)) s)

/-- MULHU: high 64 bits of the unsigned product, distance 2 (R25, R31). -/
def execMulhu (t : TileNo) (b : Byte) (s : State) : Ans := .next (alu2 t 0x4A b 2 (fun x y => BitVec.ofNat 64 (x.toNat * y.toNat / 2 ^ 64)) s)

/-- DIV: signed, truncating; the most negative value by −1 returns itself (R31, R32). -/
def execDiv (t : TileNo) (b : Byte) (s : State) : Ans :=
  .next (divOp t 0x4B b (fun x y => x.sdiv y) (fun _ => BitVec.allOnes 64) s)

/-- DIVU: unsigned (R31, R32). -/
def execDivu (t : TileNo) (b : Byte) (s : State) : Ans :=
  .next (divOp t 0x4C b (fun x y => x / y) (fun _ => BitVec.allOnes 64) s)

/-- REM: signed, with the sign of x (R31, R32). -/
def execRem (t : TileNo) (b : Byte) (s : State) : Ans :=
  .next (divOp t 0x4D b (fun x y => x.srem y) (fun x => x) s)

/-- REMU: unsigned (R31, R32). -/
def execRemu (t : TileNo) (b : Byte) (s : State) : Ans :=
  .next (divOp t 0x4E b (fun x y => x % y) (fun x => x) s)

/-- ANNEX_SINK, opcodes 0xF0 to 0xF3: pops its operand and changes nothing else (R23, R24). -/
def execAnnexSink (t : TileNo) (o : BitVec 2) (b : Byte) (s : State) : Ans :=
  .next (s.issue t { opc := 0xF0 + o.setWidth 8, opb := b, din := 1, dout := 0 } fun s =>
    s.gives t 1 [] 3)

/-- ANNEX_UNARY, opcodes 0xF4 to 0xF7: pops x and pushes 0 at distance 3 (R23, R24). -/
def execAnnexUnary (t : TileNo) (o : BitVec 2) (b : Byte) (s : State) : Ans :=
  .next (s.issue t { opc := 0xF4 + o.setWidth 8, opb := b, din := 1, dout := 1 } fun s =>
    s.gives t 1 [0] 3)

/-- ANNEX_BINARY, opcodes 0xF8 to 0xFB: pops two operands and pushes 0 at distance 3 (R23, R24). -/
def execAnnexBinary (t : TileNo) (o : BitVec 2) (b : Byte) (s : State) : Ans :=
  .next (s.issue t { opc := 0xF8 + o.setWidth 8, opb := b, din := 2, dout := 1 } fun s =>
    s.gives t 2 [0] 3)

/-- ANNEX_TERNARY, opcodes 0xFC to 0xFF: pops three operands and changes nothing else (R23, R24). -/
def execAnnexTernary (t : TileNo) (o : BitVec 2) (b : Byte) (s : State) : Ans :=
  .next (s.issue t { opc := 0xFC + o.setWidth 8, opb := b, din := 3, dout := 0 } fun s =>
    s.gives t 3 [] 3)

end Sys2Proof.Machine
end

