-- ==== Sys2Proof/Machine/Branch.lean ====
section
/-! DEFINITION. Branches, calls, returns and hardware loops (R35 to R41). -/

namespace Sys2Proof.Machine

/-- A branch that has resolved: taken, it ends the loop levels that it leaves (R35, R41); `leaves` says whether the
instruction is one that ends levels, which DEDUCED (log entry 130) it does as it issues. Not taken, the core goes on after the
delay slot. -/
def State.branchTo (s : State) (t : Nat) (target : Option (BitVec 56)) (leaves : Bool) : Res :=
  let x := s.tile t
  let pc := x.core.pc
  match target with
  | none => .ok s (.branch { pc, target := pc + 4, follow := true, link := none, lctl := x.ctl.lctl })
  | some a =>
    let s := if leaves then s.setTile t { x with ctl := x.ctl.leave pc.toNat a.toNat } else s
    .ok s (.branch { pc, target := a, follow := false, link := none, lctl := x.ctl.lctl })

/-- A call that has resolved: it pushes the address after its delay slot on the return stack (R35). -/
def State.callTo (s : State) (t : Nat) (a : BitVec 56) : Res :=
  let x := s.tile t
  let pc := x.core.pc
  let s := s.setTile t { x with core := { x.core with
    rs := x.core.rs.setIfInBounds x.core.rd ((pc + 4).setWidth 64), rd := x.core.rd + 1 } }
  .ok s (.branch { pc, target := a, follow := false, link := some x.core.rd, lctl := x.ctl.lctl })

/-- The form of a branch: not in a delay slot, not last in a loop body (R36, R40). -/
def branchForm (opc b : Byte) (legal : Bool) (din rin rout : Nat) : Form :=
  { opc, opb := b, legal, noSlot := true, noEnd := true, din, rin, rout }

/-- BR (R35). -/
def execBr (t : TileNo) (b : Byte) (s : State) : Ans :=
  .next (s.issue t (branchForm 0x78 b true 0 0 0) fun s =>
    s.branchTo t (some (relTarget (s.tile t).core.pc b)) true)

/-- BZ branches if x = 0 (R35). -/
def execBz (t : TileNo) (b : Byte) (s : State) : Ans :=
  .next (s.issue t (branchForm 0x79 b true 1 0 0) fun s =>
    (s.push t 1 [] 0).branchTo t (if s.arg t 0 = 0 then some (relTarget (s.tile t).core.pc b) else none) true)

/-- BNZ branches if x is not 0 (R35). -/
def execBnz (t : TileNo) (b : Byte) (s : State) : Ans :=
  .next (s.issue t (branchForm 0x7A b true 1 0 0) fun s =>
    (s.push t 1 [] 0).branchTo t (if s.arg t 0 ≠ 0 then some (relTarget (s.tile t).core.pc b) else none) true)

/-- CALL: a relative call (R35). -/
def execCall (t : TileNo) (b : Byte) (s : State) : Ans :=
  .next (s.issue t (branchForm 0x7B b true 0 0 1) fun s => s.callTo t (relTarget (s.tile t).core.pc b))

/-- The fault of an absolute target, if any: an address above 56 bits first, then an odd one (R35, R70). -/
def targetFault (va : Word) : Option Byte :=
  if fld va 56 8 ≠ 0 then some 0x12 else if bit va 0 then some 0x06 else none

/-- JMP: an absolute jump (R35). -/
def execJmp (t : TileNo) (b : Byte) (s : State) : Ans :=
  .next (s.issue t (branchForm 0x7C b (opNone b) 1 0 0) fun s =>
    let va := s.arg t 0
    match targetFault va with
    | some c => .trap s c va 0
    | none => (s.push t 1 [] 0).branchTo t (some (va.setWidth 56)) true)

/-- CALLI: an absolute call (R35). -/
def execCalli (t : TileNo) (b : Byte) (s : State) : Ans :=
  .next (s.issue t (branchForm 0x7D b (opNone b) 1 0 1) fun s =>
    let va := s.arg t 0
    match targetFault va with
    | some c => .trap s c va 0
    | none => (s.push t 1 [] 0).callTo t (va.setWidth 56))

/-- RET pops the return stack and continues there after its delay slot; only an odd address faults, and bits [63:56]
are dropped (R35). -/
def execRet (t : TileNo) (b : Byte) (s : State) : Ans :=
  .next (s.issue t (branchForm 0x7E b (opNone b) 0 1 0) fun s =>
    let va := (s.tile t).core.rtop
    if bit va 0 then .trap s 0x06 va 0
    else
      (s.modTile t fun x => { x with core := { x.core with rd := x.core.rd - 1 } }).branchTo t (some (va.setWidth 56)) false)

/-! ## LOOP -/

/-- The parcel at a virtual address, as a fetch in the tile's mode would read it, none where no fetch can; one that this
device's memory does not hold is any parcel (log entry 135). -/
def State.peekParcel (s : State) (t : Nat) (va : Nat) : Option Nat :=
  let x := s.tile t
  match (s.walk (quarterOf t) x.part (BitVec.ofNat 64 va)).leaf with
  | none => none
  | some e =>
    if (protFault e kFetch x.user).isSome then none
    else
      let city := e.addr va
      match if bit x.ctl.cachectl 1 then cacheFind x.gmem.icache (city / 64) else none with
      | some l => some (fld l.data (8 * (city % 64)) 16)
      | none =>
        if s.isLocal city && isMemory (devAddr city) then some (s.valueAt (devAddr city) 2)
        else some (Config.remoteParcel s.fresh city).toNat

/-- Parcels of the instruction that a parcel begins (R20). -/
def parcelsOf (p : Nat) : Nat := if p / 256 = 2 then 2 else if p / 256 = 3 then 5 else 1

/-- Whether an instruction's parcels cross the end of a body of `fuel` parcels from an address on (R40). -/
def State.crosses (s : State) (t : Nat) (stop : Nat) : Nat → Nat → Bool
  | 0, _ => false
  | fuel + 1, a =>
    if a ≥ stop then decide (a > stop)
    else match s.peekParcel t a with
      | none => false
      | some p => s.crosses t stop fuel (a + 2 * parcelsOf p)

/-- Whether LOOP stands where R40 refuses it: while level 1 is active, with a level-1 body that overlaps the level-0
body only in part, or with a body whose end an instruction crosses. DESIGN CHOICE (log entry 129): a level-1 body that encloses
the whole level-0 body is refused too. -/
def State.loopRefused (s : State) (t : Nat) (len : Nat) : Bool :=
  let x := s.tile t
  let start := x.core.pc.toNat + 2
  let stop := start + 2 * len
  let s0 := x.ctl.bodyStart 0
  let e0 := x.ctl.bodyEnd 0
  x.ctl.act 1
    || (x.ctl.act 0 && !(decide (s0 ≤ start) && decide (stop ≤ e0)) && !(decide (stop ≤ s0) || decide (e0 ≤ start)))
    || s.crosses t stop (len + 1) start

/-- The form of a LOOP: what R40 refuses is refused with the other placements, before the stacks are looked at (R70). -/
def State.loopForm (s : State) (t : Nat) (b : Byte) : Form :=
  { opc := 0x7F, opb := b, legal := opRange 1 255 b, noSlot := true, noEnd := true
    barred := ((s.landDue t).checkHold t).loopRefused t b.toNat, din := 1 }

/-- LOOP pops n and runs the next len parcels n times: the level's counter takes n and its start register the body's first
parcel. With n = 0 it skips the body with one freeze cycle and leaves the level inactive (R38 to R40). DEDUCED (log entry 129):
LCTL then stays, and a level-0 body that ends with the skipped one makes no decision. -/
def execLoop (t : TileNo) (b : Byte) (s : State) : Ans :=
  .next (s.issue t (s.loopForm t b) fun s =>
      let n := s.arg t 0
      let start := (s.tile t).core.pc + 2
      let inner := (s.tile t).ctl.act 0
      let s := (s.push t 1 [] 0).modTile t fun x =>
        { x with ctl := if inner then { x.ctl with lc1 := n, la1 := start } else { x.ctl with lc0 := n, la0 := start } }
      if n = 0 then .ok (s.modTile t fun x => x.idle 1) (.jump (start + BitVec.ofNat 56 (2 * b.toNat)))
      else
        let l := if inner then 1 else 0
        .ok (s.modTile t fun x =>
          { x with ctl := { x.ctl with lctl := setFld (setFld x.ctl.lctl (8 * l) 8 b.toNat) (16 + l) 1 1 } }) .seq)

end Sys2Proof.Machine
end

