-- ==== Sys2Proof/Machine/Manager.lean ====
section
/-! DEFINITION. The district: management messages, exclusion, heartbeats and takeover (R354 to R358, R418, R441). -/

namespace Sys2Proof.Machine

/-! ## Group entries as words (R358) -/

/-- Word i of a group entry. -/
def RGroup.word (g : RGroup) (i : Nat) : Word :=
  match i with
  | 0 => BitVec.ofNat 64 (g.v.toNat + 2 * g.kind.toNat + 4 * g.root.toNat + 8 * g.ret.toNat + 16 * g.part.toNat
      + 0x10000 * g.group.toNat + 2 ^ 32 * g.tag.toNat + 2 ^ 48 * g.upport.toNat + 2 ^ 56 * g.ggen.toNat)
  | 1 => g.child.setWidth 64
  | 2 => g.retaddr.setWidth 64
  | 3 => g.nelem.setWidth 64
  | 4 => g.retnote.setWidth 64
  | 5 => g.retgot.setWidth 64
  | 6 => g.drops.setWidth 64
  | _ => 0

/-- A write of word i of a group entry; RETGOT is read-only, and any write clears the saturating DROPS (R4, R358). -/
def RGroup.write (g : RGroup) (i : Nat) (v : Word) : RGroup :=
  match i with
  | 0 => { g with v := bit v 0, kind := bit v 1, root := bit v 2, ret := bit v 3, part := v.extractLsb' 4 6
                  group := v.extractLsb' 16 16, tag := v.extractLsb' 32 16, upport := v.extractLsb' 48 5
                  ggen := v.extractLsb' 56 8 }
  | 1 => { g with child := v.setWidth 18 }
  | 2 => { g with retaddr := v.setWidth 44 }
  | 3 => { g with nelem := v.setWidth 32, retgot := 0 }
  | 4 => { g with retnote := v.setWidth 44 }
  | 6 => { g with drops := 0 }
  | _ => g

/-! ## Management messages (R345, R357) -/

/-- The members of the district that are not excluded, this device apart (R354). -/
def State.members (s : State) : List DevNo :=
  (s.dist.members.filter fun e => e.2.state ≠ 3 && e.1 ≠ s.devnum.toNat).map fun e => BitVec.ofNat 12 e.1

/-- Sends a management message in a transaction of its own; its bytes are another manual's, and the packet carries none here
(R346, R357). A member that cannot be reached does not answer (R349). -/
def State.sendMgmt (s : State) (ask : MgmtAsk) (dev : DevNo) (m : MgmtBody) : State :=
  let city := dev.toNat * 0x100000000000
  let s := s.emit (.mgmt dev m)
  if s.routable city then s.ask { owner := .mgmt dev ask, op := 0x20, part := 0, epoch := 0, city, oparg := 0, data := [] }
  else if ask = .change then { s with dist := { s.dist with failed := true } }
  else s

/-- Whether a message of a kind still awaits its answer. -/
def State.owesMgmt (s : State) (ask : MgmtAsk) : Bool :=
  let mine (o : TxOwner) : Bool := match o with
    | .mgmt _ a => a == ask
    | _ => false
  (s.txs.any fun t => mine t.owner) || s.txWait.any fun w => mine w.owner

/-- Whether a device leaves a message unanswered. -/
def State.silent (s : State) (dev : DevNo) : Bool :=
  let mine (o : TxOwner) : Bool := match o with
    | .mgmt d _ => d == dev
    | _ => false
  (s.txs.any fun t => mine t.owner) || (s.txWait.any fun w => mine w.owner) || !s.routable (dev.toNat * 0x100000000000)

/-- Whether the operating-class record permits a descriptor (R385, R418). -/
def State.permits (s : State) (d : PartDesc) : Bool :=
  match s.sq.record with
  | some r => bit r.permitted d.part.toNat
  | none => false

/-- The Square writes every copy of a routing entry (R347). -/
def State.writeRoutes (s : State) (dev : Nat) (entry : Word) : State :=
  (List.range 3).foldl (fun (s : State) e => s.writeRoute e dev entry) s

/-- What a message of the current manager does here (R345, R354 to R358, R418, R425, R441); a report is for the manager. -/
def State.applyMgmt (s : State) (m : MgmtBody) : State :=
  match m with
  | .member dev role rank state mepoch =>
    { s with dist := { s.dist with members := Tab.write dev.toNat { role, rank, state } s.dist.members, mepoch } }
  | .route dev entry => s.writeRoutes dev.toNat entry
  | .group g word value => (List.range 3).foldl (fun (s : State) e => s.modRgroup e g fun x => x.write word.val value) s
  | .partition d =>
    if s.sq.ready && !s.curfew && s.permits d then { s with sq := { s.sq with descs := s.sq.descs ++ [d] } } else s
  | .partitionReset p => if s.curfew then s else s.resetPart p.toNat
  | .partitionDestroy p => if s.curfew then s else s.destroyPart p.toNat
  | .deviceReset => s.deviceReset
  | .heartbeat => { s with dist := { s.dist with missed := 0 } }
  | .takeover dev mepoch => { s with dist := { s.dist with manager := dev, mepoch, missed := 0 } }
  | .fenced _ => s
  | .curfewed => s
  | .repaired => s
  | .other => s

/-- Whether a message announces that a standby has become manager: it comes from the standby, which raises MEPOCH
(R357). -/
def State.announces (s : State) (sdev : DevNo) (m : MgmtBody) : Bool :=
  match m with
  | .takeover dev mepoch =>
    dev == sdev && decide (s.dist.mepoch < mepoch) &&
      (match s.dist.members.find? fun e => e.1 = sdev.toNat with
       | some e => e.2.role == 3
       | none => false)
  | _ => false

/-! ## Changes of membership, routes and registry (R354, R355, R357) -/

/-- Whether this device is the district's manager. -/
def State.isManager (s : State) : Bool := s.dist.role == 2 && s.dist.manager == s.devnum

/-- The registry takes a group entry that the manager gives a member (R354, R358). -/
def State.register (s : State) (dev : DevNo) (m : MgmtBody) : State :=
  match m with
  | .group g word value =>
    let l := Tab.read [] g.toNat s.dist.registry
    let x := (Tab.read .reset dev.toNat l).write word.val value
    { s with dist := { s.dist with registry := Tab.write g.toNat (Tab.write dev.toNat x l) s.dist.registry } }
  | _ => s

/-- The standby members that are not excluded, this device apart. -/
def State.standbys (s : State) (l : Tab Member) : List DevNo :=
  (l.filter fun e => e.2.role = 3 && e.2.state ≠ 3 && e.1 ≠ s.devnum.toNat).map fun e => BitVec.ofNat 12 e.1

/-- The message that gives a member's place in the table. -/
def memberMsg (mepoch : BitVec 32) (e : Nat × Member) : MgmtBody :=
  .member (BitVec.ofNat 12 e.1) e.2.role e.2.rank e.2.state mepoch

/-- A change takes effect: MEPOCH rises, and every member is sent the table and its new entries; this device takes its own
(R354, R355). -/
def State.enact (s : State) (c : Change) : State :=
  let mepoch := s.dist.mepoch + 1
  let s : State := { s with dist := { s.dist with members := c.members, mepoch, change := none, failed := false, vacant := c.vacant } }
  let s := s.members.foldl (fun (s : State) d =>
    c.members.foldl (fun (s : State) e => s.sendMgmt .entries d (memberMsg mepoch e)) s) s
  c.news.foldl (fun (s : State) e =>
    let s := s.register e.1 e.2
    if e.1 = s.devnum then s.applyMgmt e.2 else if s.members.contains e.1 then s.sendMgmt .entries e.1 e.2 else s) s

/-- A change reaches the standby, which acknowledges it before it takes effect; without a standby it takes effect at once
(R357). -/
def State.propose (s : State) (c : Change) : State :=
  match s.standbys c.members with
  | [] => s.enact c
  | l =>
    let s : State := { s with dist := { s.dist with change := some c, failed := false } }
    l.foldl (fun (s : State) d =>
      let s := c.members.foldl (fun (s : State) e => s.sendMgmt .change d (memberMsg (s.dist.mepoch + 1) e)) s
      c.news.foldl (fun (s : State) e => s.sendMgmt .change d e.2) s) s

/-- Once every member has acknowledged a change that left a rank vacant, a spare takes it and becomes ACTIVE; which spare the
spec does not give (R355). -/
def State.fillVacant (s : State) : State :=
  match s.dist.vacant with
  | none => s
  | some rank =>
    if s.owesMgmt .entries || s.dist.change.isSome then s
    else
      let spares := s.dist.members.filter fun x => x.2.state = 1
      match spares[(Config.free s.fresh).toNat % spares.length]? with
      | some x =>
        let l := Tab.write x.1 { x.2 with state := 0, rank } s.dist.members
        { s with fresh := s.fresh + 1 }.propose { members := l, news := [], vacant := none }
      | none => { s with fresh := s.fresh + 1, dist := { s.dist with vacant := none } }

/-- The manager goes on with a change whose standby has acknowledged it, and with a vacant rank whose members have; what failed
to reach the standby is sent again (R355, R357). -/
def State.manage (s : State) : State :=
  if !s.isManager then s
  else match s.dist.change with
    | some c => if s.owesMgmt .change then s else if s.dist.failed then s.propose c else (s.enact c).fillVacant
    | none => s.fillVacant

/-- An ACK reply (R346); the one that a change waited for lets the manager go on (R357). -/
def execFabricAck (n : Nat) (s : State) : Ans := .next (s.takeReply n 0x11).manage

/-- What a member reports to its manager: a link to a device fenced, curfew, or its repair, on which it is readmitted as a SPARE
(R352, R355, R440). -/
def State.takeReport (s : State) (sdev : DevNo) (m : MgmtBody) : State :=
  match m with
  | .fenced dev => s.modReport dev fun r => { r with fences := r.fences + 1 }
  | .curfewed => s.modReport sdev fun r => { r with curfew := true }
  | .repaired =>
    match s.dist.members.find? fun e => e.1 = sdev.toNat with
    | some e =>
      if e.2.state ≠ 3 ∨ s.dist.change.isSome then s
      else
        let s : State := { s with dist := { s.dist with reports := Tab.erase sdev.toNat s.dist.reports } }
        s.propose { members := Tab.write e.1 { e.2 with state := 1 } s.dist.members, news := [], vacant := s.dist.vacant }
    | none => s
  | _ => s

/-- A management message of device `sdev`, the packet at place n of the inbox: applied and acknowledged where it comes from the current manager,
or reports to this one, else discarded, counted and reported (R346, R357, R363). -/
def execMgmt (n : Nat) (sdev : DevNo) (m : MgmtBody) (s : State) : Ans :=
  .next (match (s.inboxAt n 0x20).filter fun x => x.pkt.sdev == sdev with
    | none => s
    | some x =>
      let s := s.unbox n
      let ack (s : State) : State := s.reply x.pkt 0x11 0 []
      if s.isManager ∧ s.dist.manager ≠ sdev ∧ (s.dist.members.any fun e => e.1 == sdev.toNat) ∧ m.isReport then
        ack (s.takeReport sdev m)
      else if sdev = s.dist.manager ∨ s.announces sdev m then ack (s.applyMgmt m)
      else (match x.inPort with | some p => s.portViolation p | none => s).tellManager 7 sdev.toNat)

/-! ## The manager (R355, R357) -/

/-- Whether the manager is to exclude a member: every UP link of the member has been reported fenced, 1 ms has passed since the
first such report while the member answers no MGMT, or the member's Square reports curfew (R355). -/
def State.mustExclude (s : State) (dev : DevNo) (links : Nat) : Bool :=
  match s.dist.reports.find? fun e => e.1 = dev.toNat with
  | none => false
  | some (_, r) =>
    r.curfew || (decide (0 < r.fences) && (decide (links ≤ r.fences) ||
      (decide (r.first.toNat + 1000000 ≤ s.time.toNat) && s.silent dev)))

/-- The manager excludes a member: MEPOCH rises, every member is sent new entries, which the
manager's own planning gives, and a spare takes its rank (R355). -/
def execManagerExclude (x : Exclusion) (s : State) : Ans :=
  .next (match s.dist.members.find? fun e => e.1 = x.dev.toNat with
    | none => s
    | some e =>
      if !s.isManager || e.2.state = 3 || !s.mustExclude x.dev x.links || s.dist.change.isSome then s
      else
        (s.propose { members := Tab.write x.dev.toNat { e.2 with state := 3 } s.dist.members, news := x.news, vacant := some e.2.rank }).manage)

/-- 1 ms passes: the manager sends the standby a heartbeat, and again what failed to reach it; a standby counts one that has not
come (R357). -/
def execMgmtHeartbeat (s : State) : Ans :=
  .next (if s.isManager then
      ((s.standbys s.dist.members).foldl (fun (s : State) d => s.sendMgmt .heartbeat d .heartbeat) s).manage
    else if s.dist.role = 3 then { s with dist := { s.dist with missed := s.dist.missed + 1 } }
    else s)

/-- Whether the manager is excluded. -/
def State.managerOut (s : State) : Bool :=
  match s.dist.members.find? fun e => e.1 = s.dist.manager.toNat with
  | some e => e.2.state == 3
  | none => false

/-- A standby that has missed 100 heartbeats, or finds the manager excluded, becomes manager and announces itself to every member
(R357). -/
def execManagerTakeover (s : State) : Ans :=
  .next (if s.dist.role = 3 ∧ (100 ≤ s.dist.missed ∨ s.managerOut) then
      let s : State := { s with dist := { s.dist with role := 2, manager := s.devnum, mepoch := s.dist.mepoch + 1, missed := 0 } }
      s.members.foldl (fun (s : State) d => s.sendMgmt .announce d (.takeover s.devnum s.dist.mepoch)) s
    else s)

end Sys2Proof.Machine
end

