-- ==== Sys2Proof/Machine/Module.lean ====
section
/-! DEFINITION. The module: its supply, its reset input, coolant, the cages, and what it answers on SMBus and PMBus (R473 to
R484). -/

namespace Sys2Proof.Machine

/-- Changes the module's record. -/
def State.modModule (s : State) (f : Module → Module) : State := { s with module := f s.module }

/-- HRST# of the host-die connector: low in device reset and in phases 1 to 4 (R484). -/
def State.hrstLow (s : State) : Bool := decide (s.sq.phase.toNat ≤ 4)

/-- Whether a boot flash part's write-protect pin is asserted: always but under a FLASHW permit (R485). -/
def State.writeProtected (s : State) (part : Bool) : Bool := !s.holdsPermit none (flashPermit .flashw part.toNat)

/-- PMB_ALERT#: low in curfew with cause SUPPLY (R481). -/
def State.alertLow (s : State) : Bool := s.curfew && s.sq.cause == 0x11

/-! ## Supply and reset input (R473, R474, R482) -/

/-- The input has lain in range for 100 ms and the power stages are ready: the device resets, and phase 1 starts (R474). The
voltage itself the event does not tell. -/
def execPowerGood (s : State) : Ans :=
  .next (if s.module.powerGood then s
    else
      let v := 40000 + (Config.free s.fresh).toNat % 20001
      let s := { s with fresh := s.fresh + 1 }.modModule fun m => { m with powerGood := true, millivolt := v }
      { s with sq := { s.sq with pgTime := s.time } }.deviceReset)

/-- Below 36 V or above 65 V the power stages turn off, and the device loses what it holds (R473, R474). -/
def execShutdown (millivolt : Nat) (s : State) : Ans :=
  .next (if 36000 ≤ millivolt ∧ millivolt ≤ 65000 then s
    else (s.modModule fun m => { m with powerGood := false, millivolt, resetLow := false, watt := 0 }).deviceReset)

/-- The input lies outside 40 V to 60 V for 1 ms: curfew SUPPLY (R439, R474). -/
def execSupplyExcursion (millivolt : Nat) (s : State) : Ans :=
  .next (if (40000 ≤ millivolt ∧ millivolt ≤ 60000) ∨ s.module.powerGood = false then s
    else
      let s := s.modModule fun m => { m with millivolt }
      if s.sq.phase = 0 then s else s.enterCurfew 0x11)

/-- A boot flash part that a recover transfer was writing is left invalid (R466, R482). -/
def State.tornFlash (s : State) : State :=
  match s.mon.xfer with
  | some x =>
    if x.recover then
      let f := s.sq.flash
      { s with sq := { s.sq with flash := if x.part then { f with fwB := none } else { f with fwA := none } } }
    else s
  | none => s

/-- RESET# low for 1 ms: a device reset that lasts while it is low. Without power good it has no effect (R482). -/
def execResetPin (s : State) : Ans :=
  .next (if s.module.powerGood then (s.tornFlash.modModule fun m => { m with resetLow := true }).deviceReset else s)

/-- RESET# rises: phase 1 starts (R482). -/
def execResetPinRises (s : State) : Ans :=
  .next (if s.module.resetLow ∧ s.module.powerGood then
      let s := s.modModule fun m => { m with resetLow := false }
      { s with sq := { s.sq with phase := 1 } }
    else s)

/-! ## Coolant and cages (R477, R480) -/

/-- The Square reads the coolant's sensors: a flow below 20 L/min or an inlet above 40 °C is recorded (R477). -/
def execCoolantSample (flow inlet outlet : Nat) (s : State) : Ans :=
  .next (let s := s.modModule fun m => { m with flow, inlet, outlet }
    if (flow < 20 ∨ 40 < inlet) ∧ s.sq.phase ≠ 0 then s.noteDevice else s)

/-- A module comes to a cage: the Square admits each of the cage's ports that is FENCED (R480). -/
def execModuleInsertion (cage : Fin 9) (s : State) : Ans :=
  .next (if bit s.module.cages cage.val then s
    else
      let s := s.modModule fun m => { m with cages := setBit m.cages cage.val true }
      if s.sq.running then (s.admitPort (2 * cage.val)).admitPort (2 * cage.val + 1) else s)

/-- A module leaves a cage: a port that is UP is fenced (R352, R480). -/
def execModuleRemoval (cage : Fin 9) (s : State) : Ans :=
  .next (
    let s := s.modModule fun m => { m with cages := setBit m.cages cage.val false }
    [2 * cage.val, 2 * cage.val + 1].foldl (fun (s : State) p => if (s.port p).state = 3 then s.fencePort p else s) s)

/-! ## SMBus and PMBus (R483) -/

/-- The Square's answer on a bus. -/
def State.smbus (s : State) (words : List Nat) : State :=
  if s.sq.phase = 0 then s else s.emit (.smbus (words.map (BitVec.ofNat 64)))

/-- The hottest of a sensor over the quarters. -/
def State.hottest (s : State) (f : QClk → Byte) : Nat := (List.range 20).foldl (fun m q => Nat.max m (f (s.clk q)).toNat) 0

/-- A read of the FRU EEPROM. -/
def execFruRead (a : Byte) (s : State) : Ans := .next (s.emit (.smbus [(Config.fruByte a.toNat).setWidth 64]))

/-- SMBus command 0x01: BOOTSTAT. -/
def execSmbBootstat (s : State) : Ans := .next (s.smbus [s.bootstat.toNat])

/-- SMBus command 0x02: UID. -/
def execSmbUid (s : State) : Ans := .next (s.smbus [s.sq.uid.toNat])

/-- SMBus command 0x03: the hottest TJ and THBM. -/
def execSmbTemperatures (s : State) : Ans := .next (s.smbus [s.hottest QClk.tj, s.hottest QClk.thbm])

/-- SMBus command 0x04: input power in W. -/
def execSmbInputPower (s : State) : Ans := .next (s.smbus [s.module.watt % 65536])

/-- SMBus command 0x05: coolant flow and temperatures. -/
def execSmbCoolant (s : State) : Ans := .next (s.smbus [s.module.flow, s.module.inlet, s.module.outlet])

/-- PMBus READ_VIN, in mV. -/
def execReadVin (s : State) : Ans := .next (s.smbus [s.module.millivolt])

/-- PMBus READ_IIN, in mA: the input power over the input voltage. -/
def execReadIin (s : State) : Ans := .next (s.smbus [s.module.watt * 1000000 / s.module.millivolt])

/-- PMBus READ_PIN, in W. -/
def execReadPin (s : State) : Ans := .next (s.smbus [s.module.watt])

/-- PMBus READ_TEMPERATURE_1: the hottest junction, in °C. -/
def execReadTemperature1 (s : State) : Ans := .next (s.smbus [s.hottest QClk.tj])

/-- PMBus STATUS_WORD, whose bits are PMBus's: a free value. -/
def execStatusWord (s : State) : Ans :=
  .next ({ s with fresh := s.fresh + 1 }.smbus [(Config.free s.fresh).toNat % 65536])

/-- Every PMBus write is refused with a NACK. -/
def execPmbusWrite (_cmd : Byte) (s : State) : Ans := .next (if s.sq.phase = 0 then s else s.emit .nack)

end Sys2Proof.Machine
end

