-- ==== Sys2Proof/Machine/Xlinv.lean ====
section
/-! DEFINITION. Invalidation of translations: the queue of a quarter and its completion (R212, R213, R258, R372). -/

namespace Sys2Proof.Machine

/-- Whether an invalidation covers a TLB entry. -/
def Inval.drops (v : Inval) (e : TlbEntry) : Bool :=
  (match v.part with
   | some p => p == e.part
   | none => true) &&
  match v.va with
  | some va => e.covers e.part va.toNat
  | none => true

/-- Whether an invalidation covers a walk-cache entry: one on the page's path (R213). -/
def Inval.dropsPointer (v : Inval) (e : WalkEntry) : Bool :=
  (match v.part with
   | some p => p == e.part
   | none => true) &&
  match v.va with
  | some va => e.index == levelPrefix va.toNat e.level
  | none => true

/-- Whether an invalidation covers the page of a walk in progress: the page that its leaf maps, or else its 2 MiB. -/
def State.coversWalk (s : State) (v : Inval) (w : Walk) : Bool :=
  let part := (s.tile w.tile).part
  (match v.part with
   | some p => p == part
   | none => true) &&
  match v.va with
  | some va =>
    match (s.walk (quarterOf w.tile) part w.va).leaf with
    | some e => e.covers part va.toNat
    | none => va.toNat / 0x200000 == w.va.toNat / 0x200000
  | none => true

/-- An invalidation starts: walks under way that it covers will install nothing (R213). -/
def State.startInval (s : State) (q : Nat) : State :=
  match (s.quarter q).invals.head? with
  | none => s
  | some v => s.modQuarter q fun x =>
    { x with walks := x.walks.map fun (w : Walk) => if s.coversWalk v w then { w with noInstall := true } else w }

/-- Whether the quarter's queue has a place for one more invalidation (R213). -/
def State.invalFree (s : State) (q : Nat) : Bool := decide ((s.quarter q).invals.length < 16)

/-- A write of XLINV enters the quarter's queue; one that finds 16 there is still to be performed (R213). -/
def State.writeXlinv (s : State) (q : Nat) (v : Inval) : State :=
  if !s.invalFree q then s
  else
    let first := (s.quarter q).invals.isEmpty
    let s := s.modQuarter q fun x => { x with invals := x.invals ++ [v] }
    if first then s.startInval q else s

/-- Device address of XLINV. -/
def xlinvAddr (q : Nat) : Nat := 0xF0040000200 + q * 0x100000000

/-- XLINV with ALL = 1 (R212, R213). -/
def execXlinvAll (w : Writer) (q : QuarterNo) (s : State) : Ans :=
  .next (if s.mayCtl w q.val then s.writeXlinv q.val { part := s.resetter w, va := none }
    else s.deniedCtl w (xlinvAddr q.val) true)

/-- XLINV of the page that holds a virtual address (R212, R213). -/
def execXlinvVa (w : Writer) (q : QuarterNo) (va : BitVec 56) (s : State) : Ans :=
  .next (if s.mayCtl w q.val then s.writeXlinv q.val { part := s.resetter w, va := some va }
    else s.deniedCtl w (xlinvAddr q.val) true)

/-- The oldest invalidation completes: no covered entry remains in the quarter's tiles, its DMA engines and its walk cache,
nor, in a partition's lowest-numbered quarter, in the host link's TLB (R213, R258, R372). The next one starts. -/
def execXlinvComplete (q : QuarterNo) (s : State) : Ans :=
  .next (match (s.quarter q.val).invals with
    | [] => s
    | v :: rest =>
      let keep (l : List TlbEntry) : List TlbEntry := l.filter fun e => !v.drops e
      let s := { s with
        tiles := s.tiles.map fun (e : Nat × Tile) =>
          if quarterOf e.1 = q.val then (e.1, { e.2 with gmem := { e.2.gmem with tlb := keep e.2.gmem.tlb } }) else e
        blocks := s.blocks.map fun (e : Nat × Block) =>
          if e.1 / 64 = q.val then (e.1, { e.2 with dma := { e.2.dma with tlb := keep e.2.dma.tlb } }) else e
        host := { s.host with tlb := s.host.tlb.filter fun e =>
          !(v.drops e && s.lowQuarter e.part.toNat == q.val) } }
      (s.modQuarter q.val fun x =>
        { x with invals := rest, wcache := x.wcache.filter fun e => !v.dropsPointer e }).startInval q.val)

end Sys2Proof.Machine
end

