-- ==== Sys2Proof/Machine/Regs.lean ====
section
/-! DEFINITION. The registers of the control spaces: what lies at each device address, who reaches it, and what a read and a
write of it do by the types of its fields (R4, R195, R197 and the rules of the registers). A narrow access is an access to
the bytes concerned: a write changes the RW fields in those bytes, acts on the W1C and WO fields there, and clears a SAT
counter of which it writes a byte. -/

namespace Sys2Proof.Machine

/-! ## What lies at an address -/

/-- A register of a control space: the unit and, where several words make up its block, the byte offset in the block. -/
inductive Loc where
  | queue (t k o : Nat)
  | tpark (t : Nat)
  | pcsel (t n : Nat)
  | pcnt (t n : Nat)
  | ptroot (q p : Nat)
  | xlinv (q : Nat)
  | devnum (q : Nat)
  | walks (q : Nat)
  | wcmiss (q : Nat)
  | tally (k i o : Nat)
  | gridctl (q : Nat)
  | gridlist (q n : Nat)
  | mcgrp (q g : Nat) (hi : Bool)
  | pepoch (q p : Nat)
  | rtag (q i o : Nat)
  | inject (q i o : Nat)
  | hive (q p o : Nat)
  | record (q i o : Nat)
  | host (q p o : Nat)
  | vlog (q p o : Nat)
  | reset (q o : Nat)
  | grant (q p o : Nat)
  | elog (q o : Nat)
  | permits (q o : Nat)
  | qclk (q o : Nat)
  | trace (k o : Nat)
  | mcast (q g o : Nat)
  | port (p o : Nat)
  | route (e d : Nat)
  | group (e g o : Nat)
  | edgeLog (e o : Nat)
  | edgeEpoch (e p : Nat)
  | bootstat
  | squarePermits (o : Nat)
  | tileCtl (t x : Nat)
  | nothing
  deriving DecidableEq, Repr

/-- What lies at an offset of a tile's window: beside the registers that the spec places there, whatever the Square stops, starts
and reads the tile by (R62, R281, R457, R469). -/
def windowLoc (t x : Nat) : Loc :=
  if 0x80000 ≤ x ∧ x < 0x80800 then .queue t ((x - 0x80000) / 0x100) (x % 0x100)
  else if x / 8 * 8 = 0x90000 then .tpark t
  else if 0xA0000 ≤ x ∧ x < 0xA0040 then .pcsel t ((x - 0xA0000) / 8)
  else if 0xA0040 ≤ x ∧ x < 0xA0080 then .pcnt t ((x - 0xA0040) / 8)
  else .tileCtl t (x / 8 * 8)

/-- What lies at an offset of the translation registers (R212). -/
def transLoc (q x : Nat) : Loc :=
  if x < 0x200 then .ptroot q (x / 8)
  else match x / 8 * 8 with
    | 0x200 => .xlinv q
    | 0x208 => .devnum q
    | 0x210 => .walks q
    | 0x218 => .wcmiss q
    | _ => .nothing

/-- What lies at an offset of a quarter's control space. -/
def quarterLoc (q o : Nat) : Loc :=
  if o < 0x40000000 then windowLoc (q * 1024 + o / 0x100000) (o % 0x100000)
  else if o < 0x41000000 then transLoc q (o - 0x40000000)
  else if o < 0x42000000 then
    let x := o - 0x41000000
    if x < 0x40000 then .tally (q * 64 + x / 0x1000) (x % 0x1000 / 0x40) (x % 0x40) else .nothing
  else if o < 0x43000000 then
    let x := o - 0x42000000
    if x < 8 then .gridctl q else if 0x40 ≤ x ∧ x < 0xC0 then .gridlist q ((x - 0x40) / 8) else .nothing
  else if o < 0x44000000 then
    let x := o - 0x43000000
    if x < 0x400 then .mcgrp q (x / 16) (decide (8 ≤ x % 16))
    else if 0x1000 ≤ x ∧ x < 0x1200 then .pepoch q ((x - 0x1000) / 8)
    else .nothing
  else if o < 0x48000000 then
    let x := o - 0x44000000
    if x < 0x40000 then .rtag q (x / 64) (x % 64) else .nothing
  else if o < 0x50000000 then .inject q ((o - 0x48000000) / 0x8000) (o % 0x8000)
  else if o < 0x51000000 then
    let x := o - 0x50000000
    if x < 0x4000 then .hive q (x / 0x100) (x % 0x100) else .nothing
  else if o < 0x52000000 then
    let i := (o - 0x51000000) / 0x80
    if i < 0x4000 then .record q i (o % 0x80) else .nothing
  else if o < 0x53000000 then
    let x := o - 0x52000000
    if x < 0x4000 then .host q (x / 0x100) (x % 0x100) else .nothing
  else if o < 0x54000000 then
    let x := o - 0x53000000
    if x < 0x40000 then .vlog q (x / 0x1000) (x % 0x1000) else .nothing
  else if o < 0x56000000 then
    let x := o - 0x54000000
    if x < 0x20 then .reset q x
    else if 0x1000 ≤ x ∧ x < 0x1800 then .grant q ((x - 0x1000) / 0x20) (x % 0x20)
    else .nothing
  else if o < 0x57000000 then
    let x := o - 0x56000000
    if x < 0x8000 then .elog q x else if x < 0x8018 then .permits q (x - 0x8000) else .nothing
  else if o < 0x58000000 then
    let x := o - 0x57000000
    if x < 0x18 then .qclk q x else .nothing
  else if o < 0x58800000 then .trace (q * 64 + (o - 0x58000000) / 0x20000) (o % 0x20000)
  else if o < 0x80000000 then .nothing
  else .mcast q ((o - 0x80000000) / 0x2000000) (o % 0x2000000)

/-- What lies at an offset of an edge die's control space. -/
def edgeLoc (e o : Nat) : Loc :=
  if o < 0x01000000 then .nothing
  else if o < 0x02000000 then
    let x := o - 0x01000000
    if x < 0x6000 then .port (6 * e + x / 0x1000) (x % 0x1000) else .nothing
  else if o < 0x03000000 then
    let x := o - 0x02000000
    if x < 0x8000 then .route e (x / 8) else .nothing
  else if o < 0x04000000 then
    let x := o - 0x03000000
    if x < 0x10000 then .group e (x / 0x40) (x % 0x40) else .nothing
  else if o < 0x05000000 then .edgeLog e (o - 0x04000000)
  else if o < 0x05000200 then .edgeEpoch e ((o - 0x05000000) / 8)
  else .nothing

/-- What lies at a device address of the control spaces (R194). -/
def locOf (a : Nat) : Loc :=
  match regionOf a with
  | .qctl q => quarterLoc q (a % 0x100000000)
  | .edge e => edgeLoc e (a % 0x100000000)
  | .square =>
    if a / 8 * 8 = 0xFF800000100 then .bootstat
    else if 0xFF800000200 ≤ a ∧ a < 0xFF800000218 then .squarePermits (a - 0xFF800000200)
    else .nothing
  | _ => .nothing

/-! ## Who reaches a register (R197) -/

/-- Whether an agent is the Square in machine mode, or the monitor acting for it. -/
def Who.machine (w : Who) : Bool := w.src == 0 && w.part.isNone

/-- Whether supervisor code of partition p, in a quarter that it owns, reads a register. -/
def locReads (p : Nat) : Loc → Bool
  | .ptroot _ x => x == p
  | .hive _ x _ => x == p
  | .host _ x _ => x == p
  | .vlog _ x _ => x == p
  | .grant _ x _ => x == p
  | .gridlist _ _ => false
  | .pepoch _ _ => false
  | .port _ _ => false
  | .route _ _ => false
  | .group _ _ _ => false
  | .edgeLog _ _ => false
  | .edgeEpoch _ _ => false
  | .bootstat => false
  | .squarePermits _ => false
  | .tileCtl _ _ => false
  | .nothing => false
  | _ => true

/-- Whether supervisor code of partition p, in a quarter that it owns, writes a register. -/
def locWrites (p : Nat) : Loc → Bool
  | .queue _ _ o => o / 8 == 1
  | .record _ _ _ => false
  | .devnum _ => false
  | .vlog _ _ _ => false
  | .grant _ _ _ => false
  | .elog _ _ => false
  | .permits _ _ => false
  | .qclk _ o => o / 8 == 0
  | l => locReads p l

/-- Whether an agent reaches a register: the Square everywhere, and supervisor code, or a DMA chain that it started, in the
quarters of its partition (R197, R258, R301). -/
def State.reaches (s : State) (w : Who) (a : Nat) (write : Bool) : Bool :=
  w.machine ||
  match w.part, regionOf a with
  | some p, .qctl q =>
    (w.src == 0 || w.src == 2) && !w.user && s.holds p q && (if write then locWrites p.toNat (locOf a) else locReads p.toNat (locOf a))
  | _, _ => false

/-- The REASON under which an access outside memory that R197 denies is recorded: a reserved range, or a control space (R406). -/
def ctlReason (a : Nat) : Byte := if regionOf a = .reserved then 2 else 4

/-! ## Words of registers -/

/-- Word n of an error log (R431); an ADDR in memory that the reader's partition does not own reads as 0. -/
def State.logWord (s : State) (l : ErrLog) (part : Option PartNo) (o : Nat) : Word :=
  if o < 0x1000 then
    match o / 8 with
    | 0 => l.head
    | 1 => l.lost
    | 2 => l.corr
    | 3 => l.unc
    | _ => 0
  else
    match l.entries.find? fun e => e.1 = (o - 0x1000) / 32 with
    | none => 0
    | some (_, e) =>
      let own := match part with
        | none => true
        | some p =>
          match s.ownerOf (devAddr e.addr.toNat) with
          | some x => x == p
          | none => true
      match o % 32 / 8 with
      | 0 => e.time
      | 1 => if own then e.addr.setWidth 64 else 0
      | 2 => BitVec.ofNat 64 (e.kind.toNat + 0x100 * e.sev.toNat + 0x10000 * e.unit.toNat + 2 ^ 48 * e.spot.toNat)
      | _ => BitVec.ofNat 64 (e.agent.toNat + 0x10000 * e.src.toNat)

/-- A word of a violation log (R406). -/
def VioLog.word (l : VioLog) (o : Nat) : Word :=
  if o < 0x800 then
    match o / 8 with
    | 0 => l.head
    | 1 => l.lost
    | _ => 0
  else
    match l.entries.find? fun e => e.1 = (o - 0x800) / 32 with
    | none => 0
    | some (_, e) =>
      match o % 32 / 8 with
      | 0 => e.time
      | 1 => e.addr.setWidth 64
      | 2 => BitVec.ofNat 64 (e.src.toNat + 0x10 * e.write.toNat + 0x10000 * e.srcid.toNat + 2 ^ 32 * e.reason.toNat)
      | _ => 0

/-- A word of a tally's registers (R282). -/
def Tally.word (x : Tally) (o : Nat) : Word :=
  match o / 8 with
  | 0 => x.value.setWidth 64
  | 1 => x.limit.setWidth 64
  | 2 => x.thresh.setWidth 64
  | 3 => BitVec.ofNat 64 (x.note.toNat + 0x10 * x.even.toNat + 0x20 * x.ovf.toNat + 0x40 * x.unf.toNat)
  | 4 => x.ign.setWidth 64
  | _ => 0

/-- A word of a reduction tag entry (R303). -/
def RTag.word (e : RTag) (o : Nat) : Word :=
  match o / 8 with
  | 0 => BitVec.ofNat 64 (e.v.toNat + 2 * e.kind.toNat + 4 * e.part.toNat + 0x10000 * e.tag.toNat + 2 ^ 32 * e.group.toNat)
  | 1 => e.dest.setWidth 64
  | 2 => e.expect.setWidth 64
  | 3 => BitVec.ofNat 64 (e.landed.toNat + 2 ^ 63 * e.done.toNat)
  | 4 => e.note.setWidth 64
  | 5 => BitVec.ofNat 64 (e.nv.toNat + 2 * e.of.toNat + 4 * e.nx.toNat + 8 * e.sat.toNat)
  | 6 => e.drop.setWidth 64
  | _ => 0

/-- A word of a Hive register block (R317). -/
def HiveRegs.word (h : HiveRegs) (o : Nat) : Word :=
  let pair (a b : Nat) : Word := BitVec.ofNat 64 (a + 2 ^ 32 * b)
  match o / 8 with
  | 0 => BitVec.ofNat 64 (h.en.toNat + 2 * h.miren.toNat + 4 * h.jrnen.toNat + 8 * h.bsfirst.toNat + 0x100 * h.rdy.toNat)
  | 1 => h.hbmBase
  | 2 => pair h.hbmCells.toNat h.hbmFree.toNat
  | 3 => pair h.low.toNat h.high.toNat
  | 4 => h.bsBase
  | 5 => pair h.bsCells.toNat h.bsFree.toNat
  | 6 => h.ddrBase
  | 7 => pair h.ddrCells.toNat h.ddrFree.toNat
  | 8 => h.listBase
  | 9 => pair h.listPages.toNat h.listFree.toNat
  | 10 => h.freeBase
  | 11 => h.intakeBase ||| BitVec.ofNat 64 h.intakeEn.toNat
  | 12 => h.miraddr.setWidth 64
  | 13 => h.journal.setWidth 64
  | 14 => pair h.beatno.toNat h.mseq.toNat
  | 15 => pair h.resv.toNat h.promq.length
  | 16 => h.defers
  | 17 => h.promoted
  | 18 => h.demoted
  | 19 => h.moveerr
  | 20 => h.mirlost
  | _ => 0

/-- A word of a host register block (R371). -/
def HostRegs.word (h : HostRegs) (o : Nat) : Word :=
  if o < 0x40 then
    let w := nth h.hwin (o / 16) (0, 0)
    if o % 16 < 8 then w.1 else w.2
  else match o / 8 with
    | 8 => BitVec.ofNat 64 (h.vfen.toNat + 2 * h.msixen.toNat)
    | 10 => h.hviol
    | 11 => h.hvaddr
    | 12 => h.hmsidrop
    | _ => 0

/-- A word of a grant block (R419). -/
def Grant.word (g : Grant) (o : Nat) : Word :=
  match o / 8 with
  | 0 => BitVec.ofNat 64 (g.bsBase.toNat + 0x100 * g.bsSize.toNat)
  | 1 => BitVec.ofNat 64 (g.hbBase.toNat + 0x100 * g.hbSize.toNat)
  | 2 => BitVec.ofNat 64 (g.ddBase.toNat + 0x10000 * g.ddSize.toNat)
  | _ => BitVec.ofNat 64 g.sliced.toNat

/-- A word of permit registers (R438). -/
def Permits.word (x : Permits) (o : Nat) : Word :=
  match o / 8 with
  | 0 => x.stat
  | 1 => x.waits
  | _ => x.skips

/-- A word of a quarter's clock registers (R452). -/
def State.qclkWord (s : State) (q o : Nat) : Word :=
  let c := s.clk q
  match o / 8 with
  | 0 => BitVec.ofNat 64 (c.op.toNat + 8 * c.step.isSome.toNat + 0x10 * c.ceil.toNat + 0x100 * c.req.toNat
      + 0x1000 * c.cause + 0x8000 * c.plloff.toNat)
  | 1 => BitVec.ofNat 64 (c.tj.toNat + 0x100 * c.thbm.toNat + 0x10000 * c.tpeak.toNat + 2 ^ 32 * c.vq.toNat)
  | _ => (List.range 64).foldl (fun (w : Word) b => setBit w b (s.block (q * 64 + b)).gatedAt.isSome) 0

/-- A word of a trace buffer (R470). -/
def Trace.word (r : Trace) (o : Nat) : Word :=
  if 0x10000 ≤ o then
    let e := Tab.read (0, 0) ((o - 0x10000) / 16) r.entries
    if o % 16 < 8 then e.1 else e.2
  else match o / 8 with
    | 0 => r.ctl
    | 1 => BitVec.ofNat 64 (r.next.toNat + 0x1000 * r.full.toNat)
    | 2 => r.lost
    | _ => 0

/-- A word of a port's registers (R353). -/
def Port.word (x : Port) (o : Nat) : Word :=
  match o / 8 with
  | 0 => BitVec.ofNat 64 (x.state.toNat + 8 * x.lanes.toNat + 0x100 * x.peer.toNat)
  | 1 => x.cwcorr
  | 2 => x.cwunc
  | 3 => x.symerr
  | 4 => x.authfail
  | 5 => x.naks
  | 6 => x.replays
  | 7 => x.viol
  | 8 => x.beatmiss
  | _ => 0

/-- A word of a queue's registers (R281). -/
def Tile.queueWord (x : Tile) (k o : Nat) : Word :=
  if 0x40 ≤ o ∧ o < 0x80 then
    match (x.queue k).msgs with
    | m :: _ => BitVec.ofNat 64 (fld m.data (8 * (o - 0x40) / 64 * 64) 64)
    | [] => 0
  else match o / 8 with
    | 0 => x.qstate k
    | 1 => BitVec.ofNat 64 ((x.queue k).drops.toNat + 2 ^ 32 * (x.queue k).stale.toNat)
    | 2 => x.qhead k
    | _ => 0

/-- A word of a tile's architectural state, as the Square reads it (R17, R62). -/
def State.archWord (s : State) (t n : Nat) : Word :=
  let x := s.tile t
  if n < 32 then nth x.core.ds n 0
  else if n < 48 then nth x.core.rs (n - 32) 0
  else match n with
    | 48 => BitVec.ofNat 64 x.core.d
    | 49 => BitVec.ofNat 64 x.core.rd
    | 50 => x.core.pc.setWidth 64
    | _ =>
      if n < 64 then ((x.gmem.slots[n - 56]?).bind Slot.val).getD 0
      else s.ctlRead t (BitVec.ofNat 8 (n - 64))

/-- The Square stops a tile's issue, or starts it where it is stopped and not retired, whatever its STATUS and its HOLD window say
(R62, R74). -/
def State.runTile (s : State) (t : Nat) (start : Bool) : State :=
  s.modTile t fun x =>
    { x with core := { x.core with run :=
      if start then
        if (x.core.run == .stopped || x.core.run == .halted) && !s.sq.fp.tiles.contains t && !s.curfew then .running else x.core.run
      else if x.core.run == .running then .stopped else x.core.run } }

/-! ## Reads -/

/-- The value that a register holds, as an agent's partition sees it. -/
def State.regValue (s : State) (part : Option PartNo) (l : Loc) : Word :=
  match l with
  | .queue t k o => (s.tile t).queueWord k o
  | .tpark t =>
    let x := s.tile t
    BitVec.ofNat 64 (x.park.toNat + 2 * x.parked.toNat + 0x100 * x.wake.toNat + 0x4000 * x.lslot.toNat)
  | .pcsel t n => (nth (s.tile t).pcsel n 0).setWidth 64
  | .pcnt t n => nth (s.tile t).pcnt n 0
  | .ptroot q p => Tab.read 0 p (s.quarter q).ptroot
  | .xlinv q => if (s.quarter q).invals.isEmpty then 0 else setBit 0 63 true
  | .devnum q => (s.quarter q).devnum.setWidth 64
  | .walks q => (s.quarter q).nwalks
  | .wcmiss q => (s.quarter q).wcmiss
  | .tally k i o => (s.tally k i).word o
  | .gridctl q => BitVec.ofNat 64 ((s.quarter q).gridEn.toNat + 2 * (s.quarter q).gridFired.toNat)
  | .gridlist q n => BitVec.ofNat 64 (fld (s.quarter q).gridList (64 * n) 64)
  | .mcgrp q g hi =>
    let w := Tab.read (0, 0) g (s.quarter q).mcgrp
    if hi then w.2 else setFld w.1 8 6 (Tab.read 0 g (s.quarter q).mcpart).toNat
  | .pepoch q p => (Tab.read 0 p (s.quarter q).pepoch).setWidth 64
  | .rtag q i o => (s.rtag q i).word o
  | .hive q p o => (s.hive q (BitVec.ofNat 6 p)).word o
  | .record q i o =>
    let x := s.stream q i
    match part with
    | some p => if x.part = p then x.word (o / 8) else 0
    | none => 0
  | .host _ p o => (s.hreg p).word o
  | .vlog _ p o => (s.hreg p).vlog.word o
  | .reset q o =>
    match o / 8 with
    | 0 => setBit 0 63 (s.tresetBusy q)
    | 1 => setBit 0 63 (s.bresetBusy q)
    | 2 => (s.quarter q).relpc.setWidth 64
    | _ => setBit 0 63 (s.presetBusy q)
  | .grant q p o => (Tab.read .reset p (s.quarter q).grants).word o
  | .elog q o => s.logWord (s.quarter q).elog part o
  | .permits q o => (s.quarter q).permits.word o
  | .qclk q o => s.qclkWord q o
  | .trace k o => (s.block k).trace.word o
  | .port p o => (s.port p).word o
  | .route e d => Tab.read 0 d (s.edge e).routes
  | .group e g o => (s.rgroup e (BitVec.ofNat 16 g)).word (o / 8)
  | .edgeLog e o => s.logWord (s.edge e).elog none o
  | .edgeEpoch e p => (Tab.read 0 p (s.edge e).pepoch).setWidth 64
  | .bootstat => s.bootstat
  | .squarePermits o => s.sq.permits.word o
  | .inject _ _ _ => 0
  | .mcast _ _ _ => 0
  | .tileCtl t x =>
    match Config.tileView x with
    | some n => s.archWord t n
    | none => 0
  | .nothing => 0

/-- What a read of a register does beside answering: TPEAK clears (R4, R452), and a tally or a queue's head meets the error
that it holds (R429). -/
def State.regTouch (s : State) (l : Loc) : State :=
  match l with
  | .qclk q o => if o / 8 = 1 then s.modClk q fun c => { c with tpeak := 0 } else s
  | .tally k i _ => s.tallyError k i
  | .queue t k _ => s.purgeHead t k
  | _ => s

/-- A read of n bytes inside one 64-bit register, by its address (R4, R195, R197). -/
def State.readReg (s : State) (w : Who) (a n : Nat) : State × Word :=
  let part := if w.machine then none else w.part
  if s.reaches w a false then
    let l := locOf a
    let s := match l with
      | .qclk _ _ => s
      | _ => s.regTouch l
    let v := s.regValue part l
    let s := match l with
      | .qclk _ _ => if a % 8 ≤ 2 ∧ 2 < a % 8 + n then s.regTouch l else s
      | _ => s
    (s, BitVec.ofNat 64 (fld v (8 * (a % 8)) (8 * n)))
  else (s.violation w (s.ownerOf a) (s.cityOf a) false (ctlReason a), 0)

/-! ## Writes -/

/-- A register with the masked bits replaced. -/
def keep (old mask v : Word) : Word := (old &&& ~~~mask) ||| (v &&& mask)

/-- Whether a write touches the bits lo to lo + len − 1. -/
def touches (mask : Word) (lo len : Nat) : Bool := fld mask lo len != 0

/-- A write of a queue's QCNT clears the counters that it touches (R4, R281). -/
def State.writeQcnt (s : State) (t k : Nat) (mask : Word) : State :=
  s.modQueue t k fun q =>
    { q with drops := if touches mask 0 32 then 0 else q.drops, stale := if touches mask 32 32 then 0 else q.stale }

/-- A write of a tally's registers (R282): VALUE never exceeds LIMIT by an addition, but a write sets what it says. -/
def Tally.write (x : Tally) (o : Nat) (mask v : Word) : Tally :=
  let w := keep (x.word o) mask v
  match o / 8 with
  | 0 => { x with value := w.setWidth 32 }
  | 1 => { x with limit := w.setWidth 32 }
  | 2 => { x with thresh := w.setWidth 32 }
  | 3 => { x with note := w.setWidth 4, even := bit w 4
                  ovf := x.ovf && !bit (v &&& mask) 5, unf := x.unf && !bit (v &&& mask) 6 }
  | 4 => if touches mask 0 32 then { x with ign := 0 } else x
  | _ => x

/-- The bits of word 1 of a multicast group that its FORM uses (R300). -/
def groupUsed (w0 : Word) : Word :=
  match fld w0 1 2 with
  | 0 => 0x1F1F1F1F
  | 3 => 0
  | _ => BitVec.allOnes 64

/-- A write of a multicast group (R300): the writer's partition comes into PART when V is set, and the bits of word 1 that a new
FORM does not use become reserved and read as zero (R5). -/
def State.writeMcgrp (s : State) (part : PartNo) (q g : Nat) (hi : Bool) (mask v : Word) : State :=
  s.modQuarter q fun x =>
    let w := Tab.read (0, 0) g x.mcgrp
    if hi then { x with mcgrp := Tab.write g (w.1, keep w.2 mask v &&& groupUsed w.1) x.mcgrp }
    else
      let n := keep w.1 mask v &&& 0xFFFFF007F
      { x with mcgrp := Tab.write g (n, w.2 &&& groupUsed n) x.mcgrp
               mcpart := if bit n 0 && touches mask 0 1 then Tab.write g part x.mcpart else x.mcpart }

/-- A write of a reduction tag entry (R303). -/
def State.writeRtag (s : State) (part : PartNo) (q i o : Nat) (mask v : Word) : State :=
  let w := keep ((s.rtag q i).word o) mask v
  let c := v &&& mask
  match o / 8 with
  | 0 => s.modRtag q i fun e =>
    { e with v := bit w 0, kind := bit w 1, tag := w.extractLsb' 16 16, group := w.extractLsb' 32 16
             part := if bit w 0 && touches mask 0 1 then part else e.part }
  | 1 => s.modRtag q i fun e => { e with dest := w.setWidth 56 }
  | 2 => if touches mask 0 40 then s.writeExpect q i w else s
  | 4 => s.modRtag q i fun e => { e with note := w.setWidth 56 }
  | 5 => s.modRtag q i fun e =>
    { e with nv := e.nv && !bit c 0, of := e.of && !bit c 1, nx := e.nx && !bit c 2, sat := e.sat && !bit c 3 }
  | 6 => if touches mask 0 32 then s.modRtag q i fun e => { e with drop := 0 } else s
  | _ => s

/-- A write of a Hive register block (R317): pool fields stand while EN = 1. -/
def State.writeHive (s : State) (q p o : Nat) (mask v : Word) : State :=
  let part : PartNo := BitVec.ofNat 6 p
  let h := s.hive q part
  let w := keep (h.word o) mask v
  let pool (f : HiveRegs → HiveRegs) : State := if h.en then s else s.modHive q part f
  match o / 8 with
  | 0 => s.writeHctl q part w
  | 1 => pool fun h => { h with hbmBase := w &&& 0xFFFFFFFFFF0000 }
  | 2 => pool fun h => { h with hbmCells := w.setWidth 21 }
  | 3 => (s.modHive q part fun h => { h with low := w.setWidth 21, high := w.extractLsb' 32 21 }).runMover q
  | 4 => pool fun h => { h with bsBase := w &&& 0xFFFFFFFFFF0000 }
  | 5 => pool fun h => { h with bsCells := w.setWidth 15 }
  | 6 => pool fun h => { h with ddrBase := w &&& 0xFFFFFFFFFF0000 }
  | 7 => pool fun h => { h with ddrCells := w.setWidth 27 }
  | 8 => pool fun h => { h with listBase := w &&& 0xFFFFFFFFFFF800 }
  | 9 => pool fun h => { h with listPages := w.setWidth 21 }
  | 10 => pool fun h => { h with freeBase := w &&& 0xFFFFFFFFFFFFC0 }
  | 11 => s.writeIntake q part w
  | 12 => s.modHive q part fun h => { h with miraddr := w.setWidth 56 }
  | 13 => s.modHive q part fun h => { h with journal := w.setWidth 56 }
  | 16 => s.modHive q part fun h => { h with defers := 0 }
  | 17 => s.modHive q part fun h => { h with promoted := 0 }
  | 18 => s.modHive q part fun h => { h with demoted := 0 }
  | 19 => s.modHive q part fun h => { h with moveerr := 0 }
  | 20 => s.modHive q part fun h => { h with mirlost := 0 }
  | _ => s

/-- A write of a host register block (R371). -/
def State.writeHost (s : State) (p o : Nat) (mask v : Word) : State :=
  let w := keep ((s.hreg p).word o) mask v
  if o < 0x40 then
    s.modHreg p fun h =>
      let x := nth h.hwin (o / 16) (0, 0)
      let y := if o % 16 < 8 then (w &&& 0x1FFF07, x.2) else (x.1, w &&& 0xFFFFFFFFE00000)
      { h with hwin := h.hwin.setIfInBounds (o / 16) y }
  else match o / 8 with
    | 9 => if touches mask 0 6 then s.sendVector p (fld (v &&& mask) 0 6) else s
    | 10 => s.modHreg p fun h => { h with hviol := 0 }
    | 12 => s.modHreg p fun h => { h with hmsidrop := 0 }
    | _ => s

/-- A write of a quarter's reset registers (R425). -/
def State.writeResets (s : State) (q o : Nat) (mask v : Word) (p : Option PartNo) : State :=
  match o / 8 with
  | 0 => if touches mask 0 11 then s.writeReset q 0x00 (v &&& mask) p else s
  | 1 => if touches mask 0 7 then s.writeReset q 0x08 (v &&& mask) p else s
  | 2 => s.modQuarter q fun x => { x with relpc := (keep (x.relpc.setWidth 64) mask v).setWidth 56 &&& ~~~1#56 }
  | _ => if touches mask 0 1 then s.writeReset q 0x18 (v &&& mask) p else s

/-- A write of TRCTL: EN rising clears NEXT and FULL (R471). -/
def Trace.setCtl (r : Trace) (v : Word) : Trace :=
  let v := v &&& 0xFF3F03
  let up := bit v 0 && !bit r.ctl 0
  { r with ctl := v, next := if up then 0 else r.next, full := r.full && !up }

/-- A write of a port's registers (R353). -/
def State.writePort (s : State) (p o : Nat) (mask v : Word) : State :=
  match o / 8 with
  | 0 => if bit (v &&& mask) 20 then s.admitPort p else s
  | 1 => s.modPort p fun x => { x with cwcorr := 0 }
  | 2 => s.modPort p fun x => { x with cwunc := 0 }
  | 3 => s.modPort p fun x => { x with symerr := 0 }
  | 4 => s.modPort p fun x => { x with authfail := 0 }
  | 5 => s.modPort p fun x => { x with naks := 0 }
  | 6 => s.modPort p fun x => { x with replays := 0 }
  | 7 => s.modPort p fun x => { x with viol := 0 }
  | 8 => s.modPort p fun x => { x with beatmiss := 0 }
  | _ => s

/-- A write of PMWAITS or PMSKIPS clears the count (R4, R438). -/
def Permits.clear (x : Permits) (n : Nat) : Permits :=
  match n with
  | 1 => { x with waits := 0 }
  | 2 => { x with skips := 0 }
  | _ => x

/-- What a write that reaches a register does, by its bytes' mask; `part` is the writer's partition, none for the Square,
which alone sets DEVNUM and the epochs and clears the logs' counters. -/
def State.regWrite (s : State) (part : Option PartNo) (l : Loc) (mask v : Word) : State :=
  let square := part.isNone
  let owner (q : Nat) : PartNo := part.getD ((s.quarter q).running.getD 0)
  match l with
  | .queue t k o => if o / 8 = 1 then s.writeQcnt t k mask else s
  | .tpark t => s.writePark t (keep (s.regValue none l) mask v)
  | .pcsel t n => s.modTile t fun x => { x with pcsel := x.pcsel.setIfInBounds n ((keep ((nth x.pcsel n 0).setWidth 64) mask v).setWidth 6) }
  | .pcnt t n => s.modTile t fun x => { x with pcnt := x.pcnt.setIfInBounds n 0 }
  | .ptroot q p => s.modQuarter q fun x =>
    { x with ptroot := Tab.write p (keep (Tab.read 0 p x.ptroot) mask v &&& 0xFFFFFFFF001) x.ptroot }
  | .xlinv q =>
    if bit (v &&& mask) 0 then s.writeXlinv q { part, va := none }
    else if touches mask 21 35 then s.writeXlinv q { part, va := some ((v &&& mask).setWidth 56 &&& 0xFFFFFFFFE00000) }
    else s
  | .devnum q => if square then s.modQuarter q fun x => { x with devnum := (keep (x.devnum.setWidth 64) mask v).setWidth 12 } else s
  | .walks q => s.modQuarter q fun x => { x with nwalks := 0 }
  | .wcmiss q => s.modQuarter q fun x => { x with wcmiss := 0 }
  | .tally k i o => (s.tallyError k i).modTally k i fun x => x.write o mask v
  | .gridctl q => s.modQuarter q fun x =>
    { x with gridEn := if touches mask 0 1 then bit v 0 else x.gridEn, gridFired := x.gridFired && !bit (v &&& mask) 1 }
  | .mcgrp q g hi => s.writeMcgrp (owner q) q g hi mask v
  | .pepoch q p => if square then s.modQuarter q fun x =>
      { x with pepoch := Tab.write p ((keep ((Tab.read 0 p x.pepoch).setWidth 64) mask v).setWidth 32) x.pepoch } else s
  | .rtag q i o => s.writeRtag (owner q) q i o mask v
  | .hive q p o => s.writeHive q p o mask v
  | .host _ p o => s.writeHost p o mask v
  | .vlog _ p o => if square && o / 8 == 1 then s.modHreg p fun h => { h with vlog := { h.vlog with lost := 0 } } else s
  | .reset q o => s.writeResets q o mask v part
  | .permits q o => if square && o / 8 != 0 then s.modPermits (some q) fun x => x.clear (o / 8) else s
  | .squarePermits o => s.modPermits none fun x => x.clear (o / 8)
  | .tileCtl t x =>
    match Config.tileRun x (v &&& mask).toNat with
    | some b => s.runTile t b
    | none => s
  | .qclk q o => if o / 8 = 0 ∧ touches mask 8 3 then
      s.writeQclk q part (keep (s.qclkWord q 0) mask v) else s
  | .trace k o => s.modBlock k fun b =>
    match o / 8 with
    | 0 => { b with trace := b.trace.setCtl (keep b.trace.ctl mask v) }
    | 2 => { b with trace := { b.trace with lost := 0 } }
    | _ => b
  | .port p o => s.writePort p o mask v
  | .route e d => s.writeRoute e d (keep (Tab.read 0 d (s.edge e).routes) mask v)
  | .group e g o =>
    let r := s.rgroup e (BitVec.ofNat 16 g)
    if (o / 8 = 3 ∨ o / 8 = 6) ∧ !touches mask 0 32 then s
    else s.modRgroup e (BitVec.ofNat 16 g) fun x => x.write (o / 8) (keep (r.word (o / 8)) mask v)
  | .edgeEpoch e p => s.modEdge e fun x =>
    { x with pepoch := Tab.write p ((keep ((Tab.read 0 p x.pepoch).setWidth 64) mask v).setWidth 32) x.pepoch }
  | _ => s

/-- The bits of a register that n bytes at an address cover. -/
def byteMask (a n : Nat) : Word := (BitVec.ofNat 64 (2 ^ (8 * n) - 1)) <<< (8 * (a % 8))

/-- A write of at most 8 bytes inside one 64-bit register, by its address; the multicast and injection windows take the bytes
themselves (R4, R195, R197, R301, R304). -/
def State.writeReg (s : State) (w : Who) (a : Nat) (bs : List Byte) : State :=
  if !s.reaches w a true then s.violation w (s.ownerOf a) (s.cityOf a) true (ctlReason a)
  else
    let part := if w.machine then none else w.part
    let owner (q : Nat) : PartNo := part.getD ((s.quarter q).running.getD 0)
    match locOf a with
    | .mcast q g o => s.multicast w q g o bs
    | .inject q i o => s.injectWrite w (owner q) q i o bs
    | l => s.regWrite part l (byteMask a bs.length) (BitVec.ofNat 64 (leNat bs) <<< (8 * (a % 8)))

/-- Whether a write of n bytes can be performed now: one to XLINV waits while its quarter's queue is full (R213), and one to a
multicast window while the streets of a quarter that it goes to stand (R309, R459). -/
def State.ctlReady (s : State) (a n : Nat) : Bool :=
  isMemory a || (unitsOf 8 a n).all fun w =>
    match locOf w with
    | .xlinv q => s.invalFree q
    | .mcast q g _ => s.multicastOpen q g
    | _ => true

/-- Whether an address lies in a multicast or injection window, which takes a write whole, whatever its size (R301, R304). -/
def wideWindow (a : Nat) : Bool :=
  match locOf a with
  | .mcast _ _ _ => true
  | .inject _ _ _ => true
  | _ => false

/-- A write of bytes to a control space, cut at the aligned 8-byte words, but for a multicast or injection window. -/
def State.writeCtl (s : State) (w : Who) (a : Nat) (bs : List Byte) : State :=
  if wideWindow a then s.writeReg w a bs
  else (rangePieces 8 (bs.length / 8 + 2) a bs.length).foldl
    (fun (s : State) p => s.writeReg w p.1 ((bs.drop (p.1 - a)).take p.2)) s

/-- A read of n bytes of a control space, word by word. -/
def State.readCtl (s : State) (w : Who) (a n : Nat) : State × List Byte :=
  (rangePieces 8 (n / 8 + 2) a n).foldl (fun (x : State × List Byte) p =>
    let (s1, v) := x.1.readReg w p.1 p.2
    (s1, x.2 ++ natBytes p.2 v.toNat)) (s, [])

/-! ## Commands -/

/-- A write to a register without a row of its own (R4). An XLINV that finds no place in the queue is held (R213). -/
def execRegisterWrite (w : Writer) (a : BitVec 44) (size : Nat) (v : Word) (s : State) : Ans :=
  .next (if isMemory a.toNat || size = 0 || decide (8 < size) || a.toNat % size ≠ 0 then s
    else
      let who := s.writerWho w
      s.writeReg who a.toNat (natBytes size v.toNat))

/-- Device address of a block's TRCTL (R470). -/
def trctlAddr (k : Nat) : Nat := 0xF0058000000 + k / 64 * 0x100000000 + k % 64 * 0x20000

/-- A write of TRCTL (R470, R471). -/
def execTrctlWrite (w : Writer) (k : BlockNo) (v : Word) (s : State) : Ans :=
  .next (if s.mayCtl w (k.val / 64) then s.modBlock k.val fun b => { b with trace := b.trace.setCtl v }
    else s.deniedCtl w (trctlAddr k.val) true)

/-- The trace buffer samples the PC of the tile that TRCTL names (R470). -/
def execTraceIssueSample (k : BlockNo) (s : State) : Ans :=
  .next (let b := s.block k.val
    if b.gatedAt.isSome then s
    else
      let i := fld b.trace.ctl 16 4
      s.trace k.val 1 i (s.tile (k.val * 16 + i)).core.pc.toNat)

end Sys2Proof.Machine
end

