-- ==== Sys2Proof/Machine/Dma.lean ====
section
/-! DEFINITION. What the DMA engine of a block does: descriptors, transfers and completions (R246, R247, R255 to R266). -/

namespace Sys2Proof.Machine

/-! ## Accesses of a chain (R258) -/

/-- A chain's accesses: the engine acts for the channel's tile, with the mode that DMAGO recorded (R249, R258, R406). -/
def Chain.who (h : Chain) : Who := { src := 2, num := BitVec.ofNat 16 h.tile, part := some h.part, user := h.user }

/-- Translates an address through the engine's TLB of 64 entries and the quarter's walker: the city address, or the cause
under R209 (R258). -/
def State.dmaLook (s : State) (k : Nat) (h : Chain) (va : Word) (kind : Kind) : State × (Byte ⊕ Nat) :=
  let use (s : State) (e : TlbEntry) : State × (Byte ⊕ Nat) :=
    match protFault e kind h.user with
    | some c => (s, .inl c)
    | none => (s, .inr (e.addr va.toNat))
  let install (s : State) (e : TlbEntry) : State :=
    s.modBlock k fun b => { b with dma := { b.dma with tlb := tlbInstall b.dma.tlb e } }
  if fld va 56 8 ≠ 0 then (s, .inl (xlateCode kind))
  else match (s.block k).dma.tlb.find? fun e => e.covers h.part va.toNat with
    | some e => use (install s e) e
    | none =>
      let s := s.dmaCount k 6 1
      let r := s.walk (k / 64) h.part va
      let s := s.walked (k / 64) r h.who.agent
      match r.leaf with
      | some e => use (install s e) e
      | none => (s, .inl (xlateCode kind))

/-- The city address that a field names: the address itself with PHYS, else its translation. -/
def State.dmaAddr (s : State) (k : Nat) (h : Chain) (phys : Bool) (va : Word) (kind : Kind) : State × (Byte ⊕ Nat) :=
  if phys then (s, .inr (va.toNat % 2 ^ 56)) else s.dmaLook k h va kind

/-- Reads n bytes at a local city address, in memory or a control space. -/
def State.readLocal (s : State) (w : Who) (city n : Nat) : State × List Byte × Bool :=
  let a := devAddr city
  if isMemory a then s.readSpan w a n
  else
    let (s, bs) := s.readCtl w a n
    (s, bs, false)

/-- Writes bytes at a local city address, in memory or a control space. -/
def State.writeLocal (s : State) (w : Who) (city : Nat) (bs : List Byte) : State :=
  let a := devAddr city
  if isMemory a then s.writeSpan w a bs else s.writeCtl w a bs

/-- Whether a home on this device absorbs a chain's access for its epoch (R311). -/
def State.staleAt (s : State) (k : Nat) (part : PartNo) (city : Nat) : Bool :=
  epochOld (s.epochOf (k / 64) part) (s.homeEpoch part (devAddr city))

/-- A channel's read of n bytes at a city address: at once on this device, by a READ of another, which it awaits; a read that
fails is answered bad (R195, R196, R256, R262, R311). -/
def State.chanRead (s : State) (k : Nat) (h : Chain) (rd : Reader) (city n : Nat) : State × Option (List Byte × Bool) :=
  if !s.reachable h.tile city then (s, none)
  else if s.isLocal city then
    if s.staleAt k h.part city then (s, some (List.replicate n 0, false))
    else
      let (s, bs, bad) := s.readLocal h.who city n
      (s, some (bs, bad))
  else s.farRead rd h.part (s.epochOf (k / 64) h.part) city n

/-- A channel's write at a city address: at once on this device, by a WRITE to another, which it awaits; whether it was lost
(R242, R262, R349). -/
def State.chanWrite (s : State) (k : Nat) (h : Chain) (rd : Reader) (op : Byte) (city : Nat) (bs : List Byte) :
    State × Option Bool :=
  if !s.routable city then (s.recordLost (k / 64) city h.who.agent, some true)
  else
    let (s, r) := s.farAccess rd op h.part (s.epochOf (k / 64) h.part) city 0 0 bs
    (s, r.map (·.2))

/-- Whether the engine of a block works now: not gated, not under reset, not in curfew (R427, R440, R456). -/
def State.dmaRuns (s : State) (k : Nat) : Bool :=
  (s.block k).gatedAt.isNone && (s.block k).resetting.isNone && !s.curfew

/-! ## Starting a descriptor (R256, R257, R259) -/

/-- Whether a descriptor breaks a condition of R257. -/
def descBad (w : Vector Word 8) (user : Bool) : Bool :=
  let x (i : Nat) : Word := nth w i 0
  fld (x 0) 56 8 != 0 || fld (x 1) 56 8 != 0 || fld (x 2) 56 8 != 0 || fld (x 4) 56 8 != 0 || fld (x 5) 20 44 != 0
    || fld (x 6) 56 8 != 0 || fld (x 5) 0 2 == 3
    || fld (x 2) 0 32 % 8 != 0 || fld (x 2) 0 32 == 0 || fld (x 2) 32 24 == 0
    || fld (x 0) 0 3 != 0 || fld (x 1) 0 3 != 0 || fld (x 3) 0 3 != 0 || fld (x 3) 32 3 != 0
    || fld (x 4) 0 6 != 0 || fld (x 6) 0 6 != 0 || (bit (x 5) 5 && user)

/-- The address of the descriptor that a channel reads next, and whether it is the head of its chain: the chain's head once
the ordering before its DMAGO holds, or the next one, after the last transfer of the one before has issued or, with SERIAL,
after it has completed (R231, R249, R259). -/
def State.nextDesc (s : State) (k ch : Nat) : Option (Chain × Word × Bool) :=
  let c := s.chan k ch
  match c.chains with
  | [] => none
  | h :: _ =>
    if !c.live then
      if s.relMet h.tile h.relE && s.fenMet h.tile h.fenE then some (h, h.head, true) else none
    else match c.next with
      | none => none
      | some d =>
        match c.runs.getLast? with
        | none => some (h, d, false)
        | some r =>
          if !c.cqwait && r.fail.isNone && !r.stopped && decide (r.total ≤ r.issued) && !bit (r.word 5) 2 then
            some (h, d, false)
          else none

/-- The descriptor's words, which end before SOFT: none yet where another device has still to answer, and no words where its
read fails (R255, R256). -/
def State.readDesc (s : State) (k ch : Nat) (h : Chain) (d : Word) : State × Option (Option (Vector Word 8)) :=
  match s.dmaLook k h d kLoad with
  | (s, .inl _) => (s, some none)
  | (s, .inr city) =>
    match s.chanRead k h (.desc k ch) city 56 with
    | (s, none) => (s, none)
    | (s, some (_, true)) => (s, some none)
    | (s, some (bs, false)) =>
      (s, some (some (Vector.ofFn fun (i : Fin 8) => BitVec.ofNat 64 (leNat ((bs.drop (8 * i.val)).take 8)))))

/-- A descriptor that could not be read: its record goes to the ring of the one before it (R263). -/
def Channel.nextFailed (c : Channel) (id : Nat) (d : Word) : Channel :=
  let (w5, w6) : Word × Word := match c.lastCq with
    | some (phys, cq) => (setBit (setBit 0 3 true) 5 phys, cq)
    | none => (0, 0)
  let words : Vector Word 8 := ((Vector.replicate 8 0).set 5 w5).set 6 w6
  let run : DmaRun := { id, desc := d, words, issued := 0, fail := some (0x09, 0), stopped := false, met := false, lastDst := 0, back := false }
  { c with next := none, runs := c.runs ++ [run] }

/-- A descriptor that has been read starts, or fails under R257. -/
def Channel.begin (c : Channel) (id : Nat) (d : Word) (w : Vector Word 8) (user : Bool) : Channel :=
  let bad := descBad w user
  let w5 := nth w 5 0
  let run : DmaRun := { id, desc := d, words := w, issued := 0, fail := if bad then some (0x02, 0) else none, stopped := false, met := false
                        lastDst := 0, back := false }
  { c with
    live := true
    runs := c.runs ++ [run]
    next := if bad || nth w 4 0 = 0 then none else some (nth w 4 0)
    lastCq := if bit w5 3 then some (bit w5 5, nth w 6 0) else none }

/-- A channel reads its next descriptor and, once it is there, starts it (R256, R257, R259). -/
def State.startDesc (s : State) (k ch : Nat) : State :=
  if !s.dmaRuns k then s
  else match s.nextDesc k ch with
    | none => s
    | some (h, d, head) =>
      match s.readDesc k ch h d with
      | (s, none) => s
      | (s, some w) =>
        let s := s.dropFar (.desc k ch)
        let id := (s.block k).dma.nextId
        let s := s.modBlock k fun b => { b with dma := { b.dma with nextId := id + 1 } }
        match w, head with
        | some w, _ => s.modChan k ch fun c => c.begin id d w h.user
        | none, true =>
          ((((s.dmaCount k 7 1).dmaCount k 2 1).dmaCount k 3 1).dmaEvent k ch).endChain k ch
        | none, false => s.modChan k ch fun c => c.nextFailed id d

/-- A channel starts a descriptor (R256). -/
def execDescriptorStart (k : BlockNo) (ch : Fin 16) (s : State) : Ans := .next (s.startDesc k.val ch.val)

/-! ## Transfers (R246, R247, R258, R264) -/

/-- Records the failure of a transfer at a position: the earliest one counts (R264). -/
def DmaRun.failAt (r : DmaRun) (code : Byte) (pos : Nat) : DmaRun :=
  { r with fail := match r.fail with
    | some (c, p) => if pos < p then some (code, pos) else some (c, p)
    | none => some (code, pos) }

/-- Changes the run of a number in a channel. -/
def Channel.modRun (c : Channel) (id : Nat) (f : DmaRun → DmaRun) : Channel :=
  { c with runs := c.runs.map fun (r : DmaRun) => if r.id = id then f r else r }

/-- A slot's transfer, changed by its number. -/
def Dma.modSlot (d : Dma) (id : Nat) (f : Transfer → Transfer) : Dma :=
  { d with slots := d.slots.map fun (x : Transfer) => if x.id = id then f x else x }

/-- An address of a row: base + row × stride + o (R255). -/
def rowAddr (base : Word) (stride : BitVec 32) (row o : Nat) : Word :=
  base + BitVec.ofInt 64 (stride.toInt * row + o)

/-- The source bytes of a transfer: at once from this device, by a READ from another (R246, R263, R349). -/
def State.dmaSource (s : State) (k : Nat) (h : Chain) (id city n : Nat) : State × List Byte × Option Byte × XferState :=
  if s.isLocal city then
    if s.staleAt k h.part city then (s, List.replicate n 0, none, .ready)
    else
      let (s, bs, bad) := s.readLocal h.who city n
      (s, bs, if bad then some 0x07 else none, .ready)
  else if !s.routable city then (s, List.replicate n 0, some 0x07, .ready)
  else
    (s.ask { owner := .dma k id, op := 0x01, part := h.part, epoch := s.epochOf (k / 64) h.part, city, oparg := BitVec.ofNat 64 n
             data := [] }, [], none, .reading)

/-- A channel issues its next transfer into a free slot (R246, R247). It ends at a 256-byte boundary of the source, at the
end of the row and at a page boundary of the destination. -/
def State.issueXfer (s : State) (k ch : Nat) : State :=
  let c := s.chan k ch
  if !s.dmaRuns k || !c.ready || decide (128 ≤ (s.block k).dma.inFlight.length) then s
  else match c.chains.head?, c.runs.getLast? with
    | some h, some r =>
      let row := r.issued / r.rowLen
      let o := r.issued % r.rowLen
      let src := rowAddr (r.word 0) ((r.word 3).setWidth 32) row o
      let dst := rowAddr (r.word 1) ((r.word 3).extractLsb' 32 32) row o
      let n := min (min (256 - src.toNat % 256) (r.rowLen - o)) (0x200000 - dst.toNat % 0x200000)
      let phys := bit (r.word 5) 5
      let failed (s : State) (code : Byte) : State :=
        s.modChan k ch fun c => c.modRun r.id fun x => x.failAt code r.issued
      match s.dmaAddr k h phys src kLoad with
      | (s, .inl e) => failed s (if e = 0x13 then 0x05 else 0x03)
      | (s1, .inr from_) =>
        match s1.dmaAddr k h phys dst kStore with
        | (s2, .inl e) => failed s2 (if e = 0x14 then 0x06 else 0x04)
        | (s2, .inr to_) =>
          let id := (s2.block k).dma.nextId
          if !s2.reachable (k * 16 + ch) from_ then s
          else match s2.dmaSource k h id from_ n with
          | (s3, bs, err, st) =>
            let x : Transfer := 
              { id, ch, run := r.id, part := h.part, user := h.user, epoch := s.epochOf (k / 64) h.part, pos := r.issued, len := n
                dst := to_, data := bs, err, st }
            let s3 := s3.modBlock k fun b =>
              { b with dma := { b.dma with nextId := id + 1, slots := b.dma.slots ++ [x], rot := (ch + 1) % 16 } }
            s3.modChan k ch fun c => c.modRun r.id fun (y : DmaRun) =>
              { y with issued := r.issued + n, lastDst := to_ + n - 8 }
    | _, _ => s

/-- The ready channel that the rotation serves next (R247, R489). -/
def Dma.turn (d : Dma) : Option Nat :=
  ((List.range 16).map fun i => (d.rot + i) % 16).find? fun ch => (nth d.chans ch .reset).ready

/-- A channel issues a transfer: a free slot goes to the ready channel next in rotation, so that none waits longer than 16 of
them (R247). -/
def execTransferIssue (k : BlockNo) (ch : Fin 16) (s : State) : Ans :=
  .next (if (s.block k).dma.turn = some ch.val then s.issueXfer k.val ch.val else s)

/-- A transfer's slot frees: the counters advance, or its failure is recorded in its descriptor (R264, R266). -/
def State.freeSlot (s : State) (k : Nat) (x : Transfer) : State :=
  let s := s.modBlock k fun b => { b with dma := { b.dma with slots := b.dma.slots.filter fun y => y.id ≠ x.id } }
  if x.len = 0 then s
  else match x.err with
    | some code => s.modChan k x.ch fun c => c.modRun x.run fun r => r.failAt code x.pos
    | none => (s.dmaCount k 0 ((x.dst % 64 + x.len + 63) / 64)).dmaCount k 1 1

/-- A transfer's accesses: those of its chain. -/
def Transfer.who (x : Transfer) (k : Nat) : Who :=
  { src := 2, num := BitVec.ofNat 16 (k * 16 + x.ch), part := some x.part, user := x.user }

/-- A transfer goes on: its bytes are written, here at once, on another device by a WRITE that its reply completes; a
transfer whose source was uncorrectable writes nothing, and one whose write was acknowledged frees its slot (R246, R263,
R264). -/
def State.moveXfer (s : State) (k : Nat) (x : Transfer) : State :=
  match x.st with
  | .done => s.freeSlot k x
  | .ready =>
    if x.err.isSome || x.len = 0 then s.freeSlot k x
    else
      let w := x.who k
      if !s.reachable (k * 16 + x.ch) x.dst then s
      else if s.isLocal x.dst then
        if epochOld x.epoch (s.homeEpoch x.part (devAddr x.dst)) then s.freeSlot k x
        else if s.ctlReady (devAddr x.dst) x.len then (s.writeLocal w x.dst x.data).freeSlot k x else s
      else if !s.routable x.dst then
        (s.recordLost (k / 64) x.dst w.agent).freeSlot k { x with err := some 0x08 }
      else
        let s := s.ask { owner := .dma k x.id, op := 0x02, part := x.part, epoch := x.epoch, city := x.dst, oparg := 0, data := x.data }
        s.modBlock k fun b => { b with dma := b.dma.modSlot x.id fun y => { y with st := .writing } }
  | _ => s

/-- The transfer at place n of the slots goes on (R246). -/
def execTransferComplete (k : BlockNo) (n : Nat) (s : State) : Ans :=
  .next (match (s.block k.val).dma.slots[n]? with
    | some x => s.moveXfer k.val x
    | none => s)

/-! ## Completion (R238, R252, R259 to R264) -/

/-- CODE and RESIDUE of a descriptor whose transfers are over; the residue of one that could not be read is open (R263). -/
def DmaRun.outcome (r : DmaRun) (openRes : Word) : Byte × Word :=
  match r.fail with
  | some (c, p) => (c, if c = 0x09 then openRes else BitVec.ofNat 64 (r.total - p))
  | none => if r.stopped then (0x01, BitVec.ofNat 64 (r.total - r.issued)) else (0x00, 0)

/-- Whether a descriptor's transfers let it complete, as far as its barrier mode's condition on them goes (R238, R252,
R264). -/
def State.runOver (s : State) (k : Nat) (r : DmaRun) : Bool :=
  let mine := (s.block k).dma.slots.filter fun x => x.run = r.id
  r.spent &&
  (if r.fail.isSome || r.stopped || r.bar ≠ 0 then mine.isEmpty else mine.all fun x => x.st = XferState.writing)

/-- What reading a completion ring gives: nothing yet, where another device has still to answer, no ring that takes records, or
its city address, PROD, CONS and SIZE (R260, R262). -/
inductive RingRead where
  | wait
  | unfit
  | ring (city : Nat) (prod cons : Word) (size : Nat)

/-- The ring control block of a descriptor (R260, R262). -/
def State.readRing (s : State) (k ch : Nat) (h : Chain) (r : DmaRun) : State × RingRead :=
  let cq := r.word 6
  if cq.toNat % 64 ≠ 0 then (s, .unfit)
  else
    let phys := bit (r.word 5) 5 && !h.user
    match s.dmaAddr k h phys cq kBoth with
    | (s, .inl _) => (s, .unfit)
    | (s, .inr city) =>
      match s.chanRead k h (.ring k ch) city 24 with
      | (s, none) => (s, .wait)
      | (s, some (bs, bad)) =>
        let w (i : Nat) : Word := BitVec.ofNat 64 (leNat ((bs.drop (8 * i)).take 8))
        let size := fld (w 2) 0 5
        (s, if bad || size < 4 || 20 < size then .unfit else .ring city (w 0) (w 1) size)

/-- A completion record (R261). -/
def recordBytes (code : Byte) (bar ch : Nat) (last : Bool) (part : PartNo) (res desc time : Word) : List Byte :=
  natBytes 8 (code.toNat + 0x100 * bar + 0x400 * ch + 0x4000 * last.toNat + 0x10000 * part.toNat)
    ++ natBytes 8 (fld res 0 56) ++ natBytes 8 (fld desc 0 56) ++ natBytes 8 time.toNat

/-- Adds 1 to a ring's PROD at its home, as one indivisible add (R262); none yet where another device has still to answer. -/
def State.addProd (s : State) (k ch : Nat) (h : Chain) (city : Nat) (prod : Word) : State × Option Bool :=
  if !s.reachable h.tile city then (s, none)
  else if s.isLocal city then
    (if s.staleAt k h.part city then s
      else if isMemory (devAddr city) then (s.operate h.who (devAddr city) (.aadd 1)).1
      else s.writeLocal h.who city (natBytes 8 (prod + 1).toNat), some true)
  else
    let (s, r) := s.chanWrite k h (.prod k ch) 0x03 city (natBytes 8 1)
    (s, r.map (!·))

/-- Writes a record into its slot of a ring and, once the record is acknowledged, adds 1 to PROD (R260, R262): whether the
record was appended, or none where another device has still to answer. A record whose page does not translate, or that is lost
on its way, is dropped. -/
def State.appendRecord (s : State) (k ch : Nat) (h : Chain) (r : DmaRun) (city : Nat) (prod : Word) (size : Nat)
    (rec : List Byte) : State × Option Bool :=
  let o := 64 + prod.toNat % 2 ^ size * 32
  let phys := bit (r.word 5) 5 && !h.user
  match s.dmaAddr k h phys (r.word 6 + BitVec.ofNat 64 o) kStore with
  | (s, .inl _) => (s, some false)
  | (s, .inr a) =>
    if !s.reachable h.tile a then (s, none)
    else if s.isLocal a then
      (if s.staleAt k h.part a then s else s.writeLocal h.who a rec).addProd k ch h city prod
    else match s.chanWrite k h (.record k ch) 0x02 a rec with
      | (s, none) => (s, none)
      | (s, some true) => (s, some false)
      | (s, some false) => s.addProd k ch h city prod

/-- Steps 3 to 5 of R262, with step 2's outcome: whether the record was dropped. -/
def State.endRun (s : State) (k ch : Nat) (h : Chain) (r : DmaRun) (code : Byte) (last dropped : Bool) : State :=
  let amt := fld (r.word 5) 12 8
  let s := ((s.dropFarChan k ch).dmaCount k 2 1).dmaCount k 3 (if code = 0 then 0 else 1)
  let s := if dropped then s.dmaCount k 7 1 else s
  let s := if amt ≠ 0 ∧ code ≠ 0x01 ∧ code ≠ 0x09 then
      s.sendTally k (fld (r.word 5) 6 6) none h.part (s.epochOf (k / 64) h.part) (.add (BitVec.ofNat 32 amt) .dma)
    else s
  let irq := bit (r.word 5) 4 || code != 0 || dropped || r.met
  let s := if irq then s.dmaEvent k ch else s
  let s := s.trace k 3 (tileIn h.tile) (fld r.desc 0 56)
  if last then s.endChain k ch
  else s.modChan k ch fun c => { c with runs := c.runs.tail, lastIrq := irq, cqwait := false }

/-- Step 2 of R262 and what follows: a full ring makes the channel wait, and so does an answer from another device (R262). -/
def State.completeRun (s : State) (k ch : Nat) (h : Chain) (r : DmaRun) : State :=
  let c := s.chan k ch
  let v := Config.free s.fresh
  let out := r.outcome v
  let code := out.1
  let last := code != 0 || (c.runs.length == 1 && c.next.isNone)
  let bar := if code = 0x09 then fld v 56 2 else r.bar
  let s := if code = 0x09 then { s with fresh := s.fresh + 1 } else s
  if !bit (r.word 5) 3 then s.endRun k ch h r code last (code == 0x09)
  else match s.readRing k ch h r with
    | (s, .wait) => s
    | (s, .unfit) => s.endRun k ch h r code last true
    | (s, .ring city prod cons size) =>
      if 2 ^ size ≤ (prod - cons).toNat then (s.dropFar (.ring k ch)).modChan k ch fun c => { c with cqwait := true }
      else match s.appendRecord k ch h r city prod size (recordBytes code bar ch last h.part out.2 r.desc s.time) with
        | (s, none) => s
        | (s, some ok) => s.endRun k ch h r code last !ok

/-- The read-back of the last destination word: of this device at once, of another by a READ, whose reply the descriptor
awaits (R238). None while it is still to be asked for or answered. -/
def State.readBack (s : State) (k ch : Nat) (h : Chain) (r : DmaRun) : State × Bool :=
  if r.bar ≠ 2 || r.fail.isSome || r.stopped || r.back then (s, true)
  else if s.isLocal r.lastDst then
    let (s, _, _) := s.readLocal h.who r.lastDst 8
    (s.modChan k ch fun c => c.modRun r.id fun (x : DmaRun) => { x with back := true }, true)
  else if !s.routable r.lastDst then (s.modChan k ch fun c => c.modRun r.id fun (x : DmaRun) => { x with back := true }, true)
  else if (s.block k).dma.inFlight.length < 128 then
    let id := (s.block k).dma.nextId
    let s := s.ask { owner := .dma k id, op := 0x01, part := h.part, epoch := s.epochOf (k / 64) h.part, city := r.lastDst, oparg := 8
                     data := [] }
    let x : Transfer :=
      { id, ch, run := r.id, part := h.part, user := h.user, epoch := s.epochOf (k / 64) h.part, pos := r.total, len := 0
        dst := r.lastDst, data := [], err := none, st := .reading }
    let s := s.modBlock k fun b => { b with dma := { b.dma with nextId := id + 1, slots := b.dma.slots ++ [x] } }
    (s.modChan k ch fun c => c.modRun r.id fun (y : DmaRun) => { y with back := true }, false)
  else (s, false)

/-- The oldest descriptor of a channel completes, where its transfers and its barrier mode let it (R262). -/
def State.finishDesc (s : State) (k ch : Nat) : State :=
  let c := s.chan k ch
  match c.chains.head?, c.runs.head? with
  | some h, some r =>
    if !s.dmaRuns k || !s.runOver k r then s
    else match s.readBack k ch h r with
      | (s, false) => s
      | (s, true) => s.completeRun k ch h r
  | _, _ => s

/-- A descriptor completes (R262). -/
def execDescriptorComplete (k : BlockNo) (ch : Fin 16) (s : State) : Ans :=
  .next (if (s.chan k.val ch.val).cqwait then s else s.finishDesc k.val ch.val)

/-- A channel whose completion waits for room in its ring rereads CONS (R262). -/
def execRingConsReread (k : BlockNo) (ch : Fin 16) (s : State) : Ans :=
  .next (if (s.chan k.val ch.val).cqwait then s.finishDesc k.val ch.val else s)

end Sys2Proof.Machine
end

