-- ==== Sys2Proof/Machine/GlobalEvents.lean ====
section
/-! DEFINITION. What happens to a tile's global accesses after their issue: at the merging buffer, at their homes, on their
return, and in the walker (R183, R185 to R188, R205, R209 to R213, R216, R217, R224 to R236, R311, R490). -/

namespace Sys2Proof.Machine

/-! ## Requests by number -/

/-- The request of a number. -/
def State.req? (s : State) (id : Nat) : Option Req := s.reqs.find? fun r => r.id = id

/-- Changes a request. -/
def State.modReq (s : State) (id : Nat) (f : Req → Req) : State :=
  { s with reqs := s.reqs.map fun (r : Req) => if r.id = id then f r else r }

/-- A request is over. -/
def State.dropReq (s : State) (id : Nat) : State := { s with reqs := s.reqs.filter fun r => r.id ≠ id }

/-- A request is answered. -/
def State.answerReq (s : State) (id : Nat) (data : Line) (poison : Bool) : State :=
  s.modReq id fun r => { r with st := .done data poison }

/-- A request's accesses. -/
def Req.who (r : Req) : Who := { src := 0, num := BitVec.ofNat 16 r.tile, part := some r.part, user := r.user }

/-- Whether a request's home absorbs it for its epoch (R311). -/
def State.staleReq (s : State) (r : Req) : Bool :=
  s.isLocal r.addr && epochOld r.epoch (s.homeEpoch r.part (devAddr r.addr))

/-- Whether a request has left its tile and not been performed. -/
def Req.sent (r : Req) : Bool := r.st == ReqState.sent

/-- Sends a request to another device: it waits where no transaction is free, and is answered poisoned where no route is
usable (R346, R349). -/
def State.sendReq (s : State) (r : Req) (op : Byte) (oparg : Word) (data : List Byte) : State :=
  if !s.routable r.addr then s.answerReq r.id 0 true
  else if s.txFree then
    let (s, txid) := s.request (.req r.id) op r.part r.epoch r.addr oparg data
    s.modReq r.id fun x => { x with st := .remote txid }
  else s

/-! ## Reads at the home (R224, R225) -/

/-- Bytes that a read asks for, from its address on; none for a request that is no read of bytes. -/
def ReqKind.span (k : ReqKind) : Option Nat :=
  match k with
  | .load size => some (2 ^ size)
  | .fill _ _ _ => some 64
  | .row _ => some 64
  | .gldb _ => some 64
  | _ => none

/-- First address that a read asks for: a line's, or the load's own. -/
def Req.first (r : Req) : Nat :=
  match r.kind with
  | .load _ => r.addr
  | _ => r.addr / 64 * 64

/-- A read is performed at its home, here or on another device. -/
def State.readAtHome (s : State) (r : Req) (n : Nat) : State :=
  if s.staleReq r then s.answerReq r.id 0 false
  else if s.isLocal r.addr then
    let a := devAddr r.first
    if isMemory a then
      let (s, bs, bad) := s.readSpan r.who a n
      s.answerReq r.id (lineOf bs) bad
    else
      let (s, bs) := s.readCtl r.who a n
      s.answerReq r.id (lineOf bs) false
  else s.sendReq { r with addr := r.first } 0x01 (BitVec.ofNat 64 n) []

/-- Whether a later store of the tile to a request's line stands in its cache or on its way. -/
def State.storedLater (s : State) (r : Req) : Bool :=
  ((s.tile r.tile).gmem.mb.any fun e => e.line = r.addr / 64 && decide (r.seq ≤ e.seq)) ||
  s.reqs.any fun x => x.tile = r.tile && x.addr / 64 = r.addr / 64 && decide (r.seq < x.seq) && match x.kind with
    | .write _ _ => true
    | _ => false

/-- A load's value comes from the home while the cache holds its line, or a fill of it has been read: they are older, and no
later load may see them (R226, R230). -/
def State.dropOlder (s : State) (t line : Nat) : State :=
  let old (r : Req) : Bool := r.tile = t && r.addr / 64 = line && r.performed && match r.kind with
    | .fill _ _ _ => true
    | _ => false
  { s.modTile t fun y => { y with gmem := y.gmem.dropLines (· == line) } with
    reqs := s.reqs.map fun (r : Req) => if old r then { r with noInstall := true } else r }

/-- The load slot of a request joins a fill (R216). -/
def State.joinSlot (s : State) (r : Req) (f : Slot → Slot) : State :=
  let mine (sl : Slot) : Slot := if r.slot == some sl.id then f sl else sl
  s.modTile r.tile fun y => { y with gmem := { y.gmem with slots := y.gmem.slots.map mine } }

/-- A load that the tile held goes to the cache, which it hits, whose fill of its line it joins, or of which it takes a miss
register; one of the tile's own memory, and one that meets a later store of its own tile, is read at the home (R216, R220, R226,
R227, R233). -/
def State.heldLoad (s : State) (r : Req) (size : Nat) : State :=
  let line := r.addr / 64
  let x := s.tile r.tile
  if !x.den || s.ownMem r.tile r.addr then s.readAtHome r (2 ^ size)
  else if s.storedLater r then (s.dropOlder r.tile line).readAtHome r (2 ^ size)
  else match if r.glda then none else cacheFind x.gmem.dcache line with
    | some l =>
      let s := s.modTile r.tile fun y => { y with gmem := { y.gmem with dcache := cacheInstall y.gmem.dcache l } }
      s.answerReq r.id (BitVec.ofNat 512 (fld l.data (8 * (r.addr % 64)) (8 * 2 ^ size))) false
    | none =>
      match if r.glda then none else (s.joinable r.tile line).filter (fun f => !f.performed) with
      | some f =>
        ((((s.dropReq r.id).demand f.id).count r.tile 5 1).joinSlot r fun sl => sl.join f r.addr).prefetch r.tile r.addr r.big
      | none =>
        match s.takeReg r.tile with
        | none => s
        | some s =>
          let (m, d) := mbLine x.gmem.mb line
          let s := (s.noInstall r.tile (· == line)).count r.tile 5 1
          let s := (s.joinSlot r fun (sl : Slot) => { sl with fill := some r.id }).modReq r.id fun y =>
            { y with kind := .fill false m d, slot := none, noInstall := false, st := .sent }
          s.prefetch r.tile r.addr r.big

/-- A read request is performed at its home (R224). -/
def execGlobalReadAtHome (id : Nat) (s : State) : Ans :=
  .next (match s.req? id with
    | none => s
    | some r =>
      match r.kind.span with
      | none => s
      | some n =>
        if !s.mayPerform r then s
        else match r.st, r.kind with
          | .held, .load size => s.heldLoad r size
          | .sent, _ => s.readAtHome r n
          | _, _ => s)

/-! ## Values that arrive (R42, R183, R216, R226, R326) -/

/-- The tile's requests whose value is for a load slot and has been read, in program order. -/
def State.values (s : State) (t : Nat) : List Req := s.reqs.filter fun r => r.tile = t && r.slot.isSome && r.performed

/-- A value reaches its load slot; a Hive operation's exception follows (R42, R183, R326). -/
def State.valueArrives (s : State) (r : Req) : State :=
  match r.st, r.slot with
  | .done data poison, some id =>
    let raw := lineWord data 0
    let f (sl : Slot) : Slot :=
      { sl with poison := sl.poison || poison, val := some (match r.kind with
        | .load _ => sl.value raw
        | _ => raw) }
    let s := (s.dropReq r.id).fillSlot r.tile id f
    match r.kind with
    | .hive _ _ _ ord pc (some c) =>
      s.land r.tile { ord, rem := 0, dest := .flagsOnly, flags := 0, exc := some c, pc }
    | _ => s
  | _, _ => s

/-- The n-th value that a tile awaits and that has been read reaches its load slot (R42). -/
def execLoadValueArrives (t : TileNo) (n : Nat) (s : State) : Ans :=
  .next (match (s.values t.val)[n]? with
    | some r => s.valueArrives r
    | none => s)

/-- A TLOAD that waits for a miss register goes on. -/
def State.retryRows (s : State) (t : Nat) : State :=
  match (s.tile t).longIn with
  | some (opc, opb) => if opc = 0xC2 then s.rerun t opc opb none else s
  | none => s

/-- A line fill arrives: it fills the cache with the tile's later stores merged in, unless it may install nothing, and serves
the loads and rows that joined it (R183, R216, R219, R226). -/
def State.fillArrives (s : State) (r : Req) : State :=
  match r.st, r.kind with
  | .done data poison, .fill _ m d =>
    let s := s.dropReq r.id
    let s := if !r.noInstall && (s.tile r.tile).den && !poison then
        let l : CacheLine := { line := r.addr / 64, data := overlay m d data }
        s.modTile r.tile fun x => { x with gmem := { x.gmem with dcache := cacheInstall x.gmem.dcache l } }
      else s
    let s := { s with reqs := s.reqs.map fun (q : Req) =>
      if q.st == ReqState.joined r.id then { q with st := .done (overlay m d data) poison } else q }
    let ids := ((s.tile r.tile).gmem.slots.filter fun sl => sl.fill == some r.id).map (·.id)
    let s := ids.foldl (fun (s : State) id => s.fillSlot r.tile id fun sl =>
      { sl with fill := none, poison := sl.poison || poison, val := some (sl.value (BitVec.ofNat 64 (fld data (8 * (sl.va.toNat % 64)) 64))) }) s
    s.retryRows r.tile
  | _, _ => s

/-- The n-th of a tile's fills whose line has been read arrives (R216). -/
def execLineFillArrives (t : TileNo) (n : Nat) (s : State) : Ans :=
  .next (match (s.reqs.filter fun r => r.tile = t.val && r.performed && match r.kind with
      | .fill _ _ _ => true
      | _ => false)[n]? with
    | some r => s.fillArrives r
    | none => s)

/-! ## The merging buffer (R217, R226, R231, R232) -/

/-- The entry at place n starts to drain, 32 cycles after its first store (R217). -/
def execMbDrainTimer (t : TileNo) (n : Nat) (s : State) : Ans :=
  .next (s.modTile t fun x => { x with gmem := { x.gmem with mb := x.gmem.mb.mapIdx fun i e =>
    if i = n then { e with drain := true } else e } })

/-- A GST or TSTORE that waits for an entry goes on (R44, R137). -/
def State.retryStore (s : State) (t : Nat) : State :=
  match (s.tile t).waitsIn with
  | some (opc, opb) => if opc = 0x63 ∨ opc = 0xC3 then s.rerun t opc opb none else s
  | none => s

/-- The oldest draining entry, or one with an uncorrectable error, leaves the tile, where fewer than 64 writes are unacknowledged and the ordering before its
stores holds (R226, R231, R232, R235, R429). -/
def State.sendEntry (s : State) (t : Nat) : State :=
  let x := s.tile t
  match x.gmem.mb.find? fun e => e.drain || e.bad ≠ 0 with
  | none => s
  | some e =>
    if 64 ≤ s.unacked t || !s.relMet t e.relE || !s.fenMet t e.fenE || x.resetting.isSome then s
    else
      let r : Req :=
        { id := s.nextId, tile := t, kind := .write e.mask e.data, addr := e.line * 64, slot := none, seq := e.seq
          relE := e.relE, acqE := 0, fenE := e.fenE, glda := false, noInstall := false, big := false, user := e.user, part := x.part
          epoch := s.epochOf (quarterOf t) x.part, st := .sent, bad := e.bad }
      let s := s.modTile t fun y => { y with gmem := { y.gmem with mb := y.gmem.mb.erase e } }
      ({ s with reqs := s.reqs ++ [r], nextId := s.nextId + 1 }.count t 9 1).retryStore t

/-- A draining entry leaves the tile (R226). -/
def execMbEntrySent (t : TileNo) (s : State) : Ans := .next (s.sendEntry t.val)

/-- An acknowledgement returns, by the number of its write (R224, R232). -/
def execWriteAckArrives (t : TileNo) (id : Nat) (s : State) : Ans :=
  .next (match s.req? id with
    | some r =>
      match r.kind with
      | .write _ _ => if r.tile = t.val ∧ r.performed then s.dropReq id else s
      | _ => s
    | none => s)

/-! ## Writes and operations at the home (R183, R185, R205, R224) -/

/-- Writes the masked bytes of a line of a control space, word by word. -/
def State.writeCtlMasked (s : State) (w : Who) (line : Nat) (mask : BitVec 64) (data : Line) : State :=
  (maskRuns mask data).foldl (fun (s : State) r => s.writeCtl w (line + r.1) r.2) s

/-- Sends the masked bytes of a line to another device, a WRITE for each run of bytes; a run without a route is lost and
recorded (R242, R345, R349). -/
def State.writeRemote (s : State) (r : Req) (mask : BitVec 64) (data : Line) : State :=
  let runs := maskRuns mask data
  if txLimit < s.txs.length + runs.length then s
  else if !s.routable r.addr then (s.recordLost (quarterOf r.tile) r.addr r.who.agent).answerReq r.id 0 false
  else runs.foldl (fun (s : State) x =>
    let (s, txid) := s.request (.req r.id) 0x02 r.part r.epoch (r.addr + x.1) 0 x.2
    s.modReq r.id fun y => { y with st := .remote txid }) s

/-- The words of a write that came with an uncorrectable error are marked where they were written: bad check bits in a store,
poison of the line in DRAM (R429). -/
def State.markWords (s : State) (r : Req) (a : Nat) : State :=
  if r.bad = 0 ∨ s.access r.who a ≠ .serve then s
  else if a < 0x80000000000 then { s with marks := Tab.write (a / 64 * 64) true s.marks }
  else (List.range 8).foldl (fun (s : State) i =>
    if bit r.bad i then { s with marks := Tab.write (a + 8 * i) true s.marks } else s) s

/-- A write is applied at its home and acknowledged; one to XLINV waits while its queue is full (R213, R224). -/
def execGlobalWriteAtHome (id : Nat) (s : State) : Ans :=
  .next (match s.req? id with
    | none => s
    | some r =>
      match r.kind with
      | .write mask data =>
        let a := devAddr r.addr
        if !r.sent || !s.mayPerform r then s
        else if s.staleReq r then s.answerReq id 0 false
        else if !s.isLocal r.addr then s.writeRemote r mask data
        else if isMemory a then ((s.writeMasked r.who a mask data).markWords r a).answerReq id 0 false
        else if (maskRuns mask data).all fun x => s.ctlReady (a + x.1) x.2.length then
          (s.writeCtlMasked r.who a mask data).answerReq id 0 false
        else s
      | _ => s)

/-- The OP and data of an operation's request (R345). -/
def ReqKind.packet (k : ReqKind) : Option (Byte × List Byte) :=
  match k with
  | .aadd x => some (0x03, natBytes 8 x.toNat)
  | .acas new cmp => some (0x04, natBytes 8 new.toNat ++ natBytes 8 cmp.toNat)
  | .mcmp new cmp => some (0x05, natBytes 8 new.toNat ++ natBytes 8 cmp.toNat)
  | .mcnt x => some (0x06, natBytes 8 x.toNat)
  | _ => none

/-- An operation on a register of a control space: one indivisible read and write. -/
def State.operateCtl (s : State) (w : Who) (a : Nat) (k : ReqKind) : State × Word :=
  let (s, old) := s.readReg w a 8
  (s.writeReg w a (natBytes 8 (opResult k old).toNat), old)

/-- An operation is applied at its word's home, or a Hive operation that an ordering instruction held at its slice (R185,
R186, R231, R325). -/
def execOperationAtHome (id : Nat) (s : State) : Ans :=
  .next (match s.req? id with
    | none => s
    | some r =>
      match r.kind, r.kind.packet with
      | .hive _ _ _ _ _ _, _ => if r.st == .held && s.mayHiveOp r && s.lineMet r.tile (r.addr / 64) r.seq false then s.applyHive r else s
      | k, some (op, data) =>
        let a := devAddr r.addr
        if !(r.sent || r.st == ReqState.held && decide (s.unacked r.tile < 64)) || !s.mayPerform r then s
        else if s.staleReq r then s.answerReq id 0 false
        else if !s.isLocal r.addr then s.sendReq r op 0 data
        else if isMemory a then
          let (s, old, bad) := s.operate r.who a k
          s.answerReq id (old.setWidth 512) bad
        else if s.ctlReady a 8 then
          let (s, old) := s.operateCtl r.who a k
          s.answerReq id (old.setWidth 512) false
        else s
      | _, none => s)

/-! ## WAITM (R187, R205) -/

/-- The WAITM request of a tile. -/
def State.watchReq (s : State) (t : Nat) : Option Req := s.reqs.find? fun r => r.tile = t && r.isWatch

/-- The word that a WAITM watches, as its home reads it: an uncorrectable one compares as any value. -/
def State.watchWord (s : State) (r : Req) : State × Word :=
  let a := devAddr r.addr
  if isMemory a then
    let (s, bs, bad) := s.readHome r.who a 8
    if bad then ({ s with fresh := s.fresh + 1 }, Config.free s.fresh) else (s, BitVec.ofNat 64 (leNat bs))
  else s.readReg r.who a 8

/-- Whether the home places a watch for the request: it serves the word and has a watch free (R187, R205). -/
def State.mayWatch (s : State) (r : Req) : Bool :=
  let a := devAddr r.addr
  isMemory a && s.access r.who a == .serve && s.watchFree a

/-- A WAITM reaches its home: the word is compared, and a watch is placed, or the word will be read again (R187). -/
def execWatchPlaced (t : TileNo) (s : State) : Ans :=
  .next (match s.watchReq t.val with
    | none => s
    | some r =>
      match r.kind with
      | .watch x =>
        if !r.sent || !s.mayPerform r then s
        else if !s.isLocal r.addr then s.sendReq r 0x07 0 (natBytes 8 x.toNat)
        else
          let (s, w) := if s.staleReq r then (s, 0) else s.watchWord r
          if x.toNat ≤ w.toNat then s.answerReq r.id 0 false
          else
            let s1 := s.modReq r.id fun y => { y with st := .watching }
            if s.mayWatch r then
              { s1 with watches := s1.watches ++ [{ addr := devAddr r.addr, x, who := .tile r.id, part := r.part, epoch := r.epoch }] }
            else s1
      | _ => s)

/-- A WAITM without a watch reads its word again (R187). -/
def execWatchReread (t : TileNo) (s : State) : Ans :=
  .next (match s.watchReq t.val with
    | none => s
    | some r =>
      match r.kind with
      | .watch x =>
        if r.st ≠ .watching || (s.watches.any fun w => w.who == .tile r.id) || s.staleReq r then s
        else
          let (s, w) := s.watchWord r
          if x.toNat ≤ w.toNat then s.answerReq r.id 0 false else s
      | _ => s)

/-- The reply reaches the tile, and WAITM completes (R187). -/
def execWatchReplyArrives (t : TileNo) (s : State) : Ans :=
  .next (match s.watchReq t.val, (s.tile t).waitsIn with
    | some r, some (opc, opb) =>
      if opc = 0x6E ∧ r.performed then
        (Res.ok ((s.dropReq r.id).push t 2 [] 0) .seq).conclude t (heldForm opc opb)
      else s
    | _, _ => s)

/-! ## MRCNT and MRCNTM (R188) -/

/-- The tile's range counts that have been requested, in order. -/
def State.rangeReqs (s : State) (t : Nat) : List Req :=
  s.reqs.filter fun r => r.tile = t && match r.kind with
    | .count _ _ _ => true
    | _ => false

/-- Whether earlier accesses of the tile to the 16 lines of a range have been performed (R226). -/
def State.rangeMet (s : State) (r : Req) : Bool :=
  s.mayPerform r && (List.range 16).all fun i => s.lineMet r.tile (r.addr / 64 + i) r.seq true

/-- A range count goes on, and is answered once every word has been read (R188). -/
def State.countOn (s : State) (id : Nat) (r : CountRun) : State :=
  if r.got < 128 then s.modReq id fun x => { x with run := r } else s.answerReq id (r.sum.setWidth 512) r.bad

/-- The home of a range of a tile reads up to `words` further words of it, each on its own (R188). -/
def execRangeCountAtHome (t : TileNo) (c : CountTurn) (s : State) : Ans :=
  .next (match (s.rangeReqs t.val)[c.place]? with
    | none => s
    | some r =>
      match r.kind with
      | .count _ val mask =>
        let a := devAddr r.addr
        if !r.sent || !s.rangeMet r then s
        else if s.staleReq r then s.countOn r.id (r.run.zeros val mask)
        else if !s.isLocal r.addr then s.sendReq r 0x08 0 (natBytes 8 val.toNat ++ natBytes 8 mask.toNat)
        else if isMemory a then
          let (s, run) := s.countRange r.who a val mask c.words r.run
          s.countOn r.id run
        else
          let (s, run) := countWords (fun s b => let (s, v) := s.readReg r.who b 8; (s, v, false)) a val mask c.words s r.run
          s.countOn r.id run
      | _ => s)

/-- Place of acc among the operands of MRCNT or MRCNTM. -/
def accPlace (opc : Byte) : Nat := if opc = 0x6D then 4 else 3

/-- A long instruction meets poison: it stops before the line or range, precisely (R183, R188, R490). -/
def State.stopPoisoned (s : State) (t : Nat) (opc opb : Byte) (va : Word) : State :=
  (Res.trap ((s.dropLong t).logConsumed t va) 0x1D va 0).conclude t (heldForm opc opb)

/-- The count of the next range reaches the tile and is added to acc (R188). -/
def execRangeCountArrives (t : TileNo) (s : State) : Ans :=
  .next (match (s.tile t).longIn with
    | none => s
    | some (opc, opb) =>
      if opc ≠ 0x6C ∧ opc ≠ 0x6D then s
      else
        let a := s.rangeArgs t opc
        match (s.rangeReqs t.val).find? fun r => r.performed && match r.kind with
            | .count va _ _ => va == a.va
            | _ => false with
        | none => s
        | some r =>
          match r.st with
          | .done data poison =>
            if poison then s.stopPoisoned t opc opb a.va
            else
              let s := s.dropReq r.id
              let s := ((s.setArg t (accPlace opc) (a.acc + lineWord data 0)).setArg t 1 (a.va + 1024)).setArg t 0 (a.n - 1)
              s.rerun t opc opb none
          | _ => s)

/-! ## GLDB (R490) -/

/-- The next line of a GLDB arrives and is written to tile memory (R490). -/
def execGldbLineArrives (t : TileNo) (s : State) : Ans :=
  .next (match (s.tile t).longIn with
    | none => s
    | some (opc, opb) =>
      if opc ≠ 0x64 then s
      else
        let la := s.arg t 2
        let va := s.arg t 1
        match s.reqs.find? fun r => r.tile = t.val && r.kind == .gldb la.toNat && r.performed with
        | none => s
        | some r =>
          match r.st with
          | .done data poison =>
            if poison then s.stopPoisoned t opc opb va
            else
              let s := (s.dropReq r.id).storeBytes (s.tileAgent t) (tileMemBase t + la.toNat) (lineBytes data)
              let s := ((s.setArg t 2 (la + 64)).setArg t 1 (va + 64)).setArg t 0 (s.arg t 0 - 1)
              s.rerun t opc opb none
          | _ => s)

/-! ## Operation units (R205) -/

/-- The number of an operation unit. -/
def opUnitNo (u : OpUnit) : Nat :=
  match u with
  | .hbm q pc => q.val * 64 + pc.val
  | .ddr c => 1280 + c.val

/-- A unit writes a changed line back (R205). -/
def execOpBufferWriteback (u : OpUnit) (line : BitVec 38) (s : State) : Ans :=
  .next { s with oplines := s.oplines.map fun (o : OpLine) =>
    if o.unit = opUnitNo u ∧ o.line = line.toNat * 64 then { o with dirty := false } else o }

/-! ## Walks (R209 to R213) -/

/-- Whether two walks are for one page of one partition, and so are one walk (R211). -/
def State.sameWalk (s : State) (a b : Walk) : Bool :=
  (s.tile a.tile).part == (s.tile b.tile).part && a.va.toNat / 0x200000 == b.va.toNat / 0x200000

/-- Walks under way in a quarter, one for each page. -/
def State.walkCount (s : State) (q : Nat) : Nat :=
  ((s.quarter q).walks.foldl (fun (l : List Walk) w => if l.any (s.sameWalk w) then l else w :: l) []).length

/-- Whether a tile's writes have all left and been acknowledged (R211). -/
def State.storesDone (s : State) (t : Nat) : Bool :=
  (s.tile t).gmem.mb.isEmpty && s.reqs.all fun r => r.tile ≠ t || !r.kind.writes || r.kind.isOp && r.performed

/-- A tile that holds a missed access sends its walk request, where its stores are done and the walker has a place (R211). -/
def execTlbMissWalk (t : TileNo) (s : State) : Ans :=
  let x := s.tile t
  .next (match x.core.doing with
    | .walk opc opb va kind false =>
      let q := quarterOf t
      let w : Walk := { tile := t, va, kind, noInstall := false }
      if x.alive && s.storesDone t && (decide (s.walkCount q < 32) || (s.quarter q).walks.any (s.sameWalk w)) then
        (s.modQuarter q fun y => { y with walks := y.walks ++ [w] }).setDoing t (.walk opc opb va kind true)
      else s
    | _ => s)

/-- A walk's result reaches one tile: it installs the leaf, and the held access runs again or faults (R209, R210, R213). -/
def State.deliverWalk (s : State) (r : WalkResult) (noInstall : Bool) (w : Walk) : State :=
  let t := w.tile
  let s := match r.leaf, noInstall with
    | some e, false => s.modTile t fun x => { x with gmem := { x.gmem with tlb := tlbInstall x.gmem.tlb e } }
    | _, _ => s
  match (s.tile t).core.doing with
  | .walk opc opb va kind true =>
    if va ≠ w.va ∨ !(s.tile t).alive then s
    else match r.leaf with
      | some e => s.rerun t opc opb (some e)
      | none => (Res.trap (s.stopRows t opc) (xlateCode kind) va 0).conclude t (heldForm opc opb)
  | _ => s

/-- The walk at place n of a quarter's walker ends, with the others of its page (R211). -/
def execWalkComplete (q : QuarterNo) (n : Nat) (s : State) : Ans :=
  .next (match (s.quarter q.val).walks[n]? with
    | none => s
    | some w =>
      let same := (s.quarter q.val).walks.filter (s.sameWalk w)
      let r := s.walk q.val (s.tile w.tile).part w.va
      let s := (s.modQuarter q.val fun x => { x with walks := x.walks.filter fun v => !same.contains v }).walked q.val r
        (s.whoTile w.tile).agent
      same.foldl (fun (s : State) v => s.deliverWalk r (same.any (·.noInstall)) v) s)

end Sys2Proof.Machine
end

