-- ==== Sys2Proof/Machine/Monitor.lean ====
section
/-! DEFINITION. The serial monitor: its commands, their scopes and answers, transfers, the debug unlock and recovery (R384,
R386, R408, R409, R461 to R468). -/

namespace Sys2Proof.Machine

/-! ## Answers -/

/-- `OK` with a code and its data. -/
def State.monOk (s : State) (code : Nat) (words : List Word) : State := s.emit (.mon true code words)

/-- `ER` with a code. -/
def State.monErr (s : State) (code : Nat) : State := s.emit (.mon false code [])

/-- Whether the boot ROM's monitor runs: in curfew with cause 0x01 to 0x03 (R461, R467). -/
def State.romMonitor (s : State) : Bool := s.curfew && decide (1 ≤ s.sq.cause.toNat) && decide (s.sq.cause.toNat ≤ 3)

/-- The monitor's rate: the ROM's is fixed (R461). -/
def State.baud (s : State) : Nat :=
  if s.romMonitor then 115200 else (s.sq.record.map fun r => r.baud).getD 115200

/-- One command line: the monitor runs where the Square runs; in a transfer a line that is no data line is refused, and the
ROM's monitor has only some commands (R462, R466, R467). -/
def State.command (s : State) (rom : Bool) (f : State → State) : State :=
  if s.sq.phase = 0 then s
  else if s.mon.xfer.isSome then s.monErr 10
  else if s.romMonitor && !rom then s.monErr 1
  else f { s with mon := { s.mon with output := false } }

/-- The answer to a command that needs a scope of the token in force: ER 03 while locked, ER 04 outside the scope (R464). -/
def State.scoped (s : State) (scope : Security → Bool) (f : State → State) : State :=
  if !s.sec.unlocked then s.monErr 3 else if !scope s.sec then s.monErr 4 else f s

/-- Data lines that 0x03 may still end (R462). -/
def State.monLines (s : State) (words : List Word) : State :=
  { s.monOk 1 words with mon := { s.mon with output := true } }

/-! ## Reports (R464) -/

/-- `info`. Part, stepping and the records' versions are opaque. -/
def execInfo (s : State) : Ans :=
  .next (s.command true fun s =>
    let n (x : Nat) : Word := BitVec.ofNat 64 x
    s.monOk 1 [crypto 12 0 0, s.sq.uid, s.devnum.setWidth 64, s.dist.role.setWidth 64, s.bootstat, n s.sq.which,
               (s.sq.flash.fwA.getD 0), (s.sq.flash.fwB.getD 0), crypto 12 1 0, n s.dbgstat])

/-- Good tiles, stags and banks of a quarter. -/
def State.goodUnits (s : State) (q : Nat) : List Word :=
  let f := s.sq.fp
  [BitVec.ofNat 64 (1024 - f.tiles.countP fun t => t / 1024 == q), BitVec.ofNat 64 (64 - f.stags.countP fun k => k / 64 == q),
   BitVec.ofNat 64 (5120 - f.banks.countP fun b => b / 5120 == q)]

/-- Retired tiles, stags and banks of a quarter, each list after its length. -/
def State.retiredUnits (s : State) (q : Nat) : List Word :=
  let f := s.sq.fp
  let list (l : List Nat) : List Word := BitVec.ofNat 64 l.length :: l.map (BitVec.ofNat 64)
  list (f.tiles.filter fun t => t / 1024 == q) ++ list (f.stags.filter fun k => k / 64 == q)
    ++ list (f.banks.filter fun b => b / 5120 == q)

/-- `floor`. -/
def execFloor (q : Option QuarterNo) (s : State) : Ans :=
  .next (s.command false fun s =>
    match q with
    | none => s.monOk 1 ((List.range 20).flatMap s.goodUnits)
    | some q => s.monOk 1 (s.retiredUnits q.val))

/-- The newest entries of a ring, newest first, by their places. -/
def newest (head size count : Nat) : List Nat :=
  (List.range (Nat.min count (Nat.min head size))).map fun i => (head - 1 - i) % size

/-- `log`. -/
def execLog (l : LogName) (count : Nat) (s : State) : Ans :=
  .next (s.command true fun s =>
    let errs (x : ErrLog) : List Word := (newest x.head.toNat 512 count).flatMap fun i =>
      (List.range 4).map fun k => s.logWord x none (0x1000 + 32 * i + 8 * k)
    match l with
    | .square =>
      let x := s.sq.dlog
      let e (i : Nat) : VioEntry := Tab.read { time := 0, addr := 0, src := 0, write := false, srcid := 0, reason := 0 } i x.entries
      s.monLines ((newest x.head.toNat 4096 count).flatMap fun i =>
        [(e i).time, (e i).addr.setWidth 64,
         BitVec.ofNat 64 ((e i).src.toNat + 0x10 * (e i).write.toNat + 0x10000 * (e i).srcid.toNat + 2 ^ 32 * (e i).reason.toNat)])
    | .quarter q => s.monLines (errs (s.quarter q.val).elog)
    | .edge e => s.monLines (errs (s.edge e.val).elog))

/-- `links`. -/
def execLinks (s : State) : Ans :=
  .next (s.command false fun s =>
    s.monOk 1 (((List.range 18).flatMap fun p => (List.range 9).map fun k => (s.port p).word (8 * k)) ++ [s.sq.ucie.setWidth 64]))

/-- `temps`. -/
def execTemps (s : State) : Ans :=
  .next (s.command false fun s =>
    s.monOk 1 (((List.range 20).flatMap fun q => [s.qclkWord q 0, s.qclkWord q 8])
      ++ [BitVec.ofNat 64 s.module.millivolt, BitVec.ofNat 64 s.module.watt]))

/-- `permits`. -/
def execPermits (q : Option QuarterNo) (s : State) : Ans :=
  .next (s.command false fun s =>
    let x := s.permitsOf (q.map (·.val))
    s.monOk 1 [x.stat, x.waits, x.skips])

/-- `queue`: unlocked with CTL it shows the payload too. -/
def execQueue (t : TileNo) (k : Fin 8) (s : State) : Ans :=
  .next (s.command false fun s =>
    if s.sq.fp.tiles.contains t.val then s.monErr 5
    else
      let s := s.purgeHead t.val k.val
      let w (o : Nat) : Word := (s.tile t.val).queueWord k.val o
      let data := if s.sec.unlocked && s.sec.ctl then (List.range 8).map fun i => w (0x40 + 8 * i) else []
      s.monOk 1 ([w 0, w 8, w 16] ++ data))

/-- `tally`. -/
def execTally (k : BlockNo) (i : Fin 64) (s : State) : Ans :=
  .next (s.command false fun s =>
    let s := s.tallyError k.val i.val
    s.monOk 1 ((List.range 5).map fun o => (s.tally k.val i.val).word (8 * o)))

/-- `tally clr` writes 1 to OVF and UNF. -/
def execTallyClr (k : BlockNo) (i : Fin 64) (s : State) : Ans :=
  .next (s.command false fun s => s.scoped Security.ctl fun s =>
    ((s.tallyError k.val i.val).modTally k.val i.val fun x => { x with ovf := false, unf := false }).monOk 0 [])

/-! ## Memory (R463, R464, R468) -/

/-- Whether an address lies in a retired unit. -/
def State.retiredAt (s : State) (a : Nat) : Bool :=
  match regionOf a with
  | .hbm q => bit s.sq.fp.hbm q
  | .store _ => s.sq.fp.banks.contains (sramUnit a).unit
  | .tmem t => s.sq.fp.tiles.contains t
  | _ => false

/-- The scope that an address needs: TRACE for the trace buffers, MEM elsewhere (R464, R470). -/
def monScope (a : Nat) (x : Security) : Bool :=
  match locOf a with
  | .trace _ _ => x.trace
  | _ => x.mem

/-- Whether `peek` and `poke` cannot reach an access: its size, its alignment, or a retired unit (R463). -/
def State.unreachable (s : State) (a size : Nat) : Bool :=
  !([1, 2, 4, 8].contains size) || a % size != 0 || s.retiredAt a

/-- `peek`: one access at the home. -/
def execPeek (a : BitVec 44) (size : Nat) (s : State) : Ans :=
  .next (s.command false fun s => s.scoped (monScope a.toNat) fun s =>
    if s.unreachable a.toNat size then s.monErr 5
    else if isMemory a.toNat then
      let (s, bs, bad) := s.readHome whoSquare a.toNat size
      if bad then s.monErr 6 else s.monOk 1 [BitVec.ofNat 64 (leNat bs)]
    else
      let (s, v) := s.readReg whoSquare a.toNat size
      s.monOk 1 [v])

/-- `poke`: one access at the home. -/
def execPoke (a : BitVec 44) (size : Nat) (v : Word) (s : State) : Ans :=
  .next (s.command false fun s => s.scoped (monScope a.toNat) fun s =>
    if s.unreachable a.toNat size then s.monErr 5
    else if isMemory a.toNat then (s.writeHome whoSquare a.toNat (natBytes size v.toNat)).monOk 0 []
    else (s.writeReg whoSquare a.toNat (natBytes size v.toNat)).monOk 0 [])

/-- Bytes as 64-bit words. -/
def wordsOf (bs : List Byte) : List Word :=
  (List.range ((bs.length + 7) / 8)).map fun i => BitVec.ofNat 64 (leNat ((bs.drop (8 * i)).take 8))

/-- `dump`. -/
def execDump (a : BitVec 44) (len : Nat) (s : State) : Ans :=
  .next (s.command false fun s => s.scoped (monScope a.toNat) fun s =>
    if 0x1000000 < len then s.monErr 2
    else if a.toNat % 16 ≠ 0 ∨ s.retiredAt a.toNat then s.monErr 5
    else if isMemory a.toNat then
      let (s, bs, bad) := s.readSpan whoSquare a.toNat len
      if bad then s.monErr 6 else s.monLines (wordsOf bs)
    else
      let (s, bs) := s.readCtl whoSquare a.toNat len
      s.monLines (wordsOf bs))

/-! ## Spot tests (R464, R468) -/

/-- How many units a kind has that a spot test can name; HBM4 and DDR5 rows go by their channels (R432). -/
def spotCount (kind : Nat) : Nat := [0, 327680, 102400, 20480, 1280, 81920, 80, 18, 4, 1280, 24, 20].getD kind 0

/-- Whether a spot test can name a unit: its number is one of its kind's, and a link's leads somewhere (R432). -/
def spotExists (kind unit : Nat) : Bool :=
  match kind with
  | 5 => streetLink unit
  | 6 => avenueLink unit
  | _ => decide (unit < spotCount kind)

/-- Whether a unit has retired. -/
def State.retiredUnit (s : State) (u : SpotUnit) : Bool :=
  let f := s.sq.fp
  match u.kind.toNat with
  | 1 => f.tiles.contains (u.unit / 16)
  | 2 => f.banks.contains u.unit
  | 3 => f.tiles.contains u.unit
  | 4 => f.stags.contains u.unit
  | 7 => bit f.port u.unit
  | 8 => bit f.ucie u.unit
  | 9 => bit f.hbm (u.unit / 64)
  | 10 => bit f.ddr u.unit
  | _ => false

/-- `spot`: schedules a test unless one is scheduled or runs, and reports its result when it ends. -/
def execSpot (u : SpotUnit) (s : State) : Ans :=
  .next (s.command false fun s => s.scoped Security.ctl fun s =>
    if !spotExists u.kind.toNat u.unit then s.monErr 2
    else if s.retiredUnit u then s.monErr 5
    else (s.scheduleSpot u none false).modSpot u fun x => { x with asked := true })

/-! ## The debug unlock (R408, R409, R465) -/

/-- Whether no Square holds device keys: `unlock` and `recover` then answer ER 03 (R467). -/
def State.pufCurfew (s : State) : Bool := s.curfew && s.sq.cause == 1

/-- `unlock`: a new challenge, which the DRBG draws. -/
def execUnlock (s : State) : Ans :=
  .next (s.command true fun s =>
    if s.pufCurfew then s.monErr 3
    else
      let c := Config.free s.fresh
      { s with fresh := s.fresh + 1, sec := { s.sec with challenge := some c } }.monOk 1 [c])

/-- `unlock n`: the transfer of a token of n bytes starts. -/
def execUnlockToken (n : Nat) (tok : Token) (s : State) : Ans :=
  .next (s.command true fun s =>
    if s.pufCurfew then s.monErr 3
    else if n = 0 then s.monErr 2
    else { s with mon := { s.mon with xfer := some { recover := false, part := false, total := n, got := 0, tok := some tok } } }.monOk 2 [])

/-- Whether a token is one that the device takes: the product key signs it, or the owner key where owner debug is permitted, and
its body names the device and sets no reserved field (R384, R385, R408). -/
def State.tokenOk (s : State) (tok : Token) : Bool :=
  let owner := (s.sq.record.map fun r => r.ownerDebug).getD false
  objAccepted s.sq.uid 4 (if owner then [0, 1] else [0]) tok.hdr && !tok.reserved && tok.uid == tok.hdr.uid

/-- A token has come whole: it is refused, or the keys go, every partition is destroyed and its scope opens (R408, R409). -/
def State.takeToken (s : State) (tok : Token) : State :=
  let c := s.sec.challenge
  let s := { s with sec := { s.sec with challenge := none } }
  if !s.tokenOk tok then s.monErr 8
  else if c ≠ some tok.nonce then s.monErr 9
  else
    let s := s.zeroiseKeys
    let s := (s.parts.map (·.1)).foldl State.destroyPart s
    { s with sec := { s.sec with unlocked := true, mem := tok.mem, ctl := tok.ctl, trace := tok.trace, fw := tok.fw } }.monOk 0 []

/-! ## Transfers and recovery (R386, R466) -/

/-- The part that an update writes: the one with the lower version, an invalid one first; of two equal ones, the part that
the ROM does not boot (R386). -/
def Flash.target (f : Flash) : Bool :=
  match f.fwA, f.fwB with
  | none, _ => false
  | some _, none => true
  | some a, some b => decide (b ≤ a)

/-- `recover n`: the transfer of an image starts. -/
def execRecover (part : Option Bool) (n : Nat) (s : State) : Ans :=
  .next (s.command true fun s =>
    if s.pufCurfew then s.monErr 3
    else s.scoped Security.fw fun s =>
      if n = 0 ∨ 0x3DF0000 < n then s.monErr 2
      else
        let x : Xfer := { recover := true, part := part.getD s.sq.flash.target, total := n, got := 0, tok := none }
        { s with mon := { s.mon with xfer := some x } }.monOk 2 [])

/-- `recover reset` resets the device (R441). -/
def execRecoverReset (s : State) : Ans :=
  .next (s.command true fun s =>
    if s.pufCurfew then s.monErr 3 else s.scoped Security.fw fun s => (s.monOk 0 []).deviceReset)

/-- Sets what a flash part holds as firmware. -/
def State.setFw (s : State) (part : Bool) (v : Option Word) : State :=
  let f := s.sq.flash
  { s with sq := { s.sq with flash := if part then { f with fwB := v } else { f with fwA := v } } }

/-- A transfer is complete: the command's own answer (R465, R466). A verified image's version is in the image. -/
def State.endXfer (s : State) (x : Xfer) (imageOk : Bool) : State :=
  let s := { s with mon := { s.mon with xfer := none } }
  match x.tok with
  | some tok => s.takeToken tok
  | none =>
    if imageOk then ({ s with fresh := s.fresh + 1 }.setFw x.part (some (Config.free s.fresh))).monOk 0 []
    else (s.setFw x.part none).monErr 11

/-- The FLASHW permit of a `recover` is given back (R466). -/
def State.dropWrite (s : State) (x : Xfer) : State :=
  if x.recover then s.dropPermit none (flashPermit .flashw x.part.toNat) else s

/-- The byte sum of a data line. -/
def lineSum (bs : List Byte) : Byte := bs.foldl (fun a b => a + b) 0

/-- A line of a transfer; an empty one stands for `.`, which ends the transfer. A line with a bad sum or length is asked for
again. A part is invalid from its first line until its image has verified, and each 64 KiB of it is written under a FLASHW
permit, for which a line waits (R436, R466). -/
def execDataLine (bytes : List Byte) (sum : Byte) (imageOk : Bool) (s : State) : Ans :=
  .next (if s.sq.phase = 0 then s
    else match s.mon.xfer with
      | none => s.monErr 1
      | some x =>
        let want := Nat.min 32 (x.total - x.got)
        let p := flashPermit .flashw x.part.toNat
        if bytes.isEmpty then { (s.dropWrite x).tornFlash with mon := { s.mon with xfer := none } }.monErr 10
        else if bytes.length ≠ want ∨ lineSum bytes ≠ sum then s.monErr 10
        else match if x.recover then s.needPermit none p else (s, true) with
        | (s, false) => s
        | (s, true) =>
          let s := if x.recover then s.setFw x.part none else s
          let s := if (x.got + want) % 0x10000 = 0 ∨ x.got + want = x.total then s.dropWrite x else s
          let s := { s with mon := { s.mon with xfer := some { x with got := x.got + want } } }.monOk 0 []
          if x.got + want = x.total then s.endXfer x imageOk else s)

/-! ## Lines that are no command (R462, R463) -/

/-- An unknown command: ER 01. -/
def execUnknownCommand (s : State) : Ans := .next (s.command true fun s => s.monErr 1)

/-- A line longer than 256 characters: ER 07. -/
def execOverlongLine (s : State) : Ans := .next (if s.sq.phase = 0 then s else s.monErr 7)

/-- 0x03 ends a running `dump` or `log`: ER 12. -/
def execAbortCharacter (s : State) : Ans :=
  .next (if s.sq.phase ≠ 0 ∧ s.mon.output then { s with mon := { s.mon with output := false } }.monErr 12 else s)

end Sys2Proof.Machine
end

