-- ==== Sys2Proof/Machine/Stack.lean ====
section
/-! DEFINITION. NOP, the literals and the stack instructions (R31, opcodes 0x00 to 0x10). -/

namespace Sys2Proof.Machine

/-- NOP does nothing (R31). -/
def execNop (t : TileNo) (b : Byte) (s : State) : Ans :=
  .next (s.issue t { opc := 0x00, opb := b, legal := opNone b } fun s => .ok s .seq)

/-- LIT8 pushes its sign-extended immediate (R31). -/
def execLit8 (t : TileNo) (b : Byte) (s : State) : Ans :=
  .next (s.issue t { opc := 0x01, opb := b, dout := 1 } fun s => s.gives t 0 [b.signExtend 64] 0)

/-- LIT16 pushes its sign-extended data parcel times 2^(16k) (R31). -/
def execLit16 (t : TileNo) (b : Byte) (data : Parcel) (s : State) : Ans :=
  .next (s.issue t { opc := 0x02, opb := b, parcels := 2, legal := opLow 2 b, dout := 1 } fun s =>
    s.gives t 0 [data.signExtend 64 <<< (16 * b.toNat)] 0)

/-- LIT64 pushes its four data parcels, least significant first (R31). -/
def execLit64 (t : TileNo) (b : Byte) (data : Word) (s : State) : Ans :=
  .next (s.issue t { opc := 0x03, opb := b, parcels := 5, legal := opNone b, dout := 1 } fun s => s.gives t 0 [data] 0)

/-- DUP ( x -- x x ): pushes T and leaves its slot as it is (R31). -/
def execDup (t : TileNo) (b : Byte) (s : State) : Ans :=
  .next (s.issue t { opc := 0x04, opb := b, legal := opNone b, din := 1, dout := 2 } fun s => s.gives t 0 [s.arg t 0] 0)

/-- DROP ( x -- ) (R31). -/
def execDrop (t : TileNo) (b : Byte) (s : State) : Ans :=
  .next (s.issue t { opc := 0x05, opb := b, legal := opNone b, din := 1 } fun s => s.gives t 1 [] 0)

/-- SWAP ( x y -- y x ) (R31). -/
def execSwap (t : TileNo) (b : Byte) (s : State) : Ans :=
  .next (s.issue t { opc := 0x06, opb := b, legal := opNone b, din := 2, dout := 2 } fun s =>
    s.gives t 2 [s.arg t 0, s.arg t 1] 0)

/-- OVER ( x y -- x y x ): pushes N and leaves the slots below as they are (R31). -/
def execOver (t : TileNo) (b : Byte) (s : State) : Ans :=
  .next (s.issue t { opc := 0x07, opb := b, legal := opNone b, din := 2, dout := 3 } fun s => s.gives t 0 [s.arg t 1] 0)

/-- ROT ( x y z -- y z x ) (R31). -/
def execRot (t : TileNo) (b : Byte) (s : State) : Ans :=
  .next (s.issue t { opc := 0x08, opb := b, legal := opNone b, din := 3, dout := 3 } fun s =>
    s.gives t 3 [s.arg t 1, s.arg t 0, s.arg t 2] 0)

/-- NIP ( x y -- y ) (R31). -/
def execNip (t : TileNo) (b : Byte) (s : State) : Ans :=
  .next (s.issue t { opc := 0x09, opb := b, legal := opNone b, din := 2, dout := 1 } fun s => s.gives t 2 [s.arg t 0] 0)

/-- TUCK ( x y -- y x y ) (R31). -/
def execTuck (t : TileNo) (b : Byte) (s : State) : Ans :=
  .next (s.issue t { opc := 0x0A, opb := b, legal := opNone b, din := 2, dout := 3 } fun s =>
    s.gives t 2 [s.arg t 0, s.arg t 1, s.arg t 0] 0)

/-- PICK n pushes entry n below T; it reaches n + 1 entries (R19, R31). -/
def execPick (t : TileNo) (b : Byte) (s : State) : Ans :=
  .next (s.issue t { opc := 0x0B, opb := b, legal := opRange 0 30 b, need := b.toNat + 1, dout := 1 } fun s =>
    s.gives t 0 [s.arg t b.toNat] 0)

/-- PUT n pops x and writes it to entry n below the new T; it reaches n + 2 entries (R19, R31). The write lands as a
result of distance 0 does. -/
def execPut (t : TileNo) (b : Byte) (s : State) : Ans :=
  .next (s.issue t { opc := 0x0C, opb := b, legal := opRange 0 30 b, need := b.toNat + 2, din := 1 } fun s =>
    let v := s.arg t 0
    let s := s.push t 1 [] 0
    .ok (s.modTile t fun x => { x with core := { x.core with flight := x.core.flight ++
      [{ ord := x.core.issued, rem := 1, dest := .data (x.core.d - 1 - b.toNat) v, flags := 0, exc := none
         pc := x.core.pc }] } }) .seq)

/-- DROPN n pops n entries (R31). -/
def execDropn (t : TileNo) (b : Byte) (s : State) : Ans :=
  .next (s.issue t { opc := 0x0D, opb := b, legal := opRange 1 32 b, din := b.toNat } fun s => s.gives t b.toNat [] 0)

/-- TOR pops x and pushes it on the return stack (R31). -/
def execTor (t : TileNo) (b : Byte) (s : State) : Ans :=
  .next (s.issue t { opc := 0x0E, opb := b, legal := opNone b, din := 1, rout := 1 } fun s =>
    let v := s.arg t 0
    let s := s.modTile t fun x =>
      { x with core := { x.core with rs := x.core.rs.setIfInBounds x.core.rd v, rd := x.core.rd + 1 } }
    .ok (s.push t 1 [] 0) .seq)

/-- FROMR pops x from the return stack and pushes it (R31). -/
def execFromr (t : TileNo) (b : Byte) (s : State) : Ans :=
  .next (s.issue t { opc := 0x0F, opb := b, legal := opNone b, dout := 1, rin := 1 } fun s =>
    let v := (s.tile t).core.rtop
    .ok ((s.modTile t fun x => { x with core := { x.core with rd := x.core.rd - 1 } }).push t 0 [v] 0) .seq)

/-- RCOPY pushes a copy of the return stack's top, which the return stack must hold (R19, R31). -/
def execRcopy (t : TileNo) (b : Byte) (s : State) : Ans :=
  .next (s.issue t { opc := 0x10, opb := b, legal := opNone b, dout := 1, rin := 1, rout := 1 } fun s =>
    s.gives t 0 [(s.tile t).core.rtop] 0)

end Sys2Proof.Machine
end

