-- ==== Sys2Proof/Machine/System.lean ====
section
/-! DEFINITION. Traps, mode changes, HOLD and the control-register instructions (R50 to R60, R71 to R82), and opcodes
that no chapter assigns (R22). -/

namespace Sys2Proof.Machine

/-- SYS takes the system call exception (R31, R67). -/
def execSys (t : TileNo) (b : Byte) (s : State) : Ans :=
  .next (s.issue t { opc := 0x80, opb := b, noSlot := true, noEnd := true, noShadow := true } fun s =>
    .trap s 0x19 (b.setWidth 64) 0)

/-- BRK takes the breakpoint exception (R31, R67). -/
def execBrk (t : TileNo) (b : Byte) (s : State) : Ans :=
  .next (s.issue t { opc := 0x81, opb := b } fun s => .trap s 0x18 (b.setWidth 64) 0)

/-- ERET returns from an exception; the next instruction issues 3 cycles later (R73). -/
def execEret (t : TileNo) (b : Byte) (s : State) : Ans :=
  .next (s.issue t { opc := 0x82, opb := b, legal := opNone b, sup := true, noSlot := true, noShadow := true } fun s =>
    let s := s.modTile t fun x => x.returned.idle 2
    .ok s (.jump (s.tile t).core.pc))

/-- SETM commits a mode; the two instructions after it still run in the old one (R32, R51). DEDUCED (log entry 131): a mode above
1 raises ILLEGAL_OPCODE as a check of the operand, after privilege, placement and the stacks. -/
def execSetm (t : TileNo) (b : Byte) (s : State) : Ans :=
  .next (s.issue t { opc := 0x83, opb := b, legal := opNone b, sup := true, noSlot := true, noShadow := true, din := 1 }
    fun s =>
      let m := s.arg t 0
      let f : Form := { opc := 0x83, opb := b }
      if m.toNat > 1 then .trap s 0x01 f.parcel 0
      else
        let s := s.modTile t fun x =>
          { x with
            ctl := { x.ctl with status := setFld x.ctl.status 0 2 m.toNat }
            core := { x.core with shLeft := 2, shOld := x.ctl.status.extractLsb' 0 2, shNew := m.setWidth 2 } }
        .ok (s.push t 1 [] 0) .seq)

/-- HOLD opens a window of min(n, HOLDLIM.LIM) cycles in which no interrupt is taken; a window that is open can only
become shorter, and n = 0 closes it (R82). DEDUCED (log entry 132): where HOLDLIM.LIM is 0, an n other than 0 opens a window of
no cycles, which expires at the next boundary as any window does. -/
def execHold (t : TileNo) (b : Byte) (s : State) : Ans :=
  .next (s.issue t { opc := 0x84, opb := b, legal := opNone b, sup := true, din := 1 } fun s =>
    let n := s.arg t 0
    let stop := s.cycle t + 1 + BitVec.ofNat 64 (Nat.min n.toNat (fld (s.tile t).ctl.holdlim 0 10))
    let s := s.modTile t fun x =>
      { x with core := { x.core with hold :=
        if n = 0 then none
        else match x.core.hold with
          | some e => some (if e.ult stop then e else stop)
          | none => some stop } }
    .ok (s.push t 1 [] 0) .seq)

/-- Whether the index of a CRD or CWR is a control register (R53). -/
def isCtl (i : Byte) : Bool :=
  let n := i.toNat
  n ≤ 0x06 || (0x08 ≤ n && n ≤ 0x0E) || (0x10 ≤ n && n ≤ 0x1A) || n = 0x1C || n = 0x1D

/-- Whether only supervisor mode reads a control register (R53). -/
def crdSup (i : Byte) : Bool :=
  let n := i.toNat
  n ≤ 0x06 || (0x12 ≤ n && n ≤ 0x14) || (0x16 ≤ n && n ≤ 0x18)

/-- Whether user mode is denied the write of a control register (R53): the ones that only supervisor mode writes. A
register whose Write column shows a dash ignores the write in either mode. -/
def cwrSup (i : Byte) : Bool :=
  let n := i.toNat
  n ≤ 0x06 || n = 0x09 || (0x0C ≤ n && n ≤ 0x0E) || (0x11 ≤ n && n ≤ 0x13) || (0x16 ≤ n && n ≤ 0x18)

/-- CRD reads a control register, at ready distance 1 (R52, R53). -/
def execCrd (t : TileNo) (b : Byte) (s : State) : Ans :=
  .next (s.issue t { opc := 0x88, opb := b, legal := isCtl b, sup := crdSup b, dout := 1 } fun s =>
    s.gives t 0 [s.ctlRead t b] 1)

/-- CWR writes a control register, from the second instruction after it on (R52, R53). -/
def execCwr (t : TileNo) (b : Byte) (s : State) : Ans :=
  .next (s.issue t { opc := 0x89, opb := b, legal := isCtl b, sup := cwrSup b, din := 1 } fun s =>
    let v := s.arg t 0
    let s := s.modTile t fun x =>
      { x with core := { x.core with cwrs := x.core.cwrs ++ [{ index := b, value := v, rem := 2 }] } }
    .ok (s.push t 1 [] 0) .seq)

/-- The function codes of VSTK, QCTL and HCELL that no instruction has, and the opcodes that no chapter assigns (R22, R118,
R273, R324). -/
def unassigned (opc opb : Byte) : Bool :=
  let n := opc.toNat
  (0x11 ≤ n && n ≤ 0x1F) || (0x39 ≤ n && n ≤ 0x3F) || n = 0x4F || n = 0x57 || (0x5C ≤ n && n ≤ 0x5F)
    || n = 0x66 || n = 0x67 || n = 0x6F || (0x75 ≤ n && n ≤ 0x77) || (0x85 ≤ n && n ≤ 0x87) || (0x8A ≤ n && n ≤ 0x9F)
    || (0xBB ≤ n && n ≤ 0xBF) || (0xCA ≤ n && n ≤ 0xCF) || (0xD5 ≤ n && n ≤ 0xD7) || n = 0xDF
    || (n = 0xA4 && fld opb 5 3 ≥ 6) || (n = 0xE5 && fld opb 5 3 ≥ 4) || (n = 0xEB && fld opb 0 2 = 3)

/-- An opcode or function code that nothing assigns raises ILLEGAL_OPCODE (R20, R22). A parcel of an assigned
instruction is that instruction's own command, and does nothing here. -/
def execUnassignedOpcode (t : TileNo) (p : Parcel) (s : State) : Ans :=
  let opc := p.extractLsb' 8 8
  let opb := p.extractLsb' 0 8
  .next (if unassigned opc opb then s.issue t { opc, opb, legal := false } fun s => .ok s .seq else s)

end Sys2Proof.Machine
end

