-- ==== Sys2Proof/Machine/TileEvents.lean ====
section
/-! DEFINITION. Events of a tile's core: results that land, fetches, asynchronous entries, the timer, HOLD windows and wait
timeouts (R21, R26, R29, R46 to R49, R58, R65, R66, R76, R82, R83, R221). -/

namespace Sys2Proof.Machine

/-- Whether the tile stands at an instruction boundary with its block's clock running. -/
def State.atBoundary (s : State) (t : Nat) : Bool := (s.tile t).canIssue && s.unfrozen t

/-- The results that are due land (R26). -/
def execResultLands (t : TileNo) (s : State) : Ans :=
  .next (if s.atBoundary t then s.landDue t else s)

/-! ## Fetch (R21, R70, R206, R221) -/

/-- CACHECTL.ICEN. -/
def Tile.icen (x : Tile) : Bool := bit x.ctl.cachectl 1

/-- What comes of a read of code: its bytes, an error, or nothing yet, where it waits for another device (R196, R221). -/
inductive Fetched where
  | got (s : State) (bs : List Byte)
  | bad (s : State)
  | wait (s : State)

/-- Reads bytes of an instruction line or group at their home, here or on another device. -/
def State.fetchBytes (s : State) (t : Nat) (rd : Reader) (city n : Nat) : Fetched :=
  let w : Who := s.whoTile t
  if !s.reachable t city then .wait s
  else if s.isLocal city then
    if isMemory (devAddr city) then
      match s.readSpan w (devAddr city) n with
      | (s, _, true) => .bad s
      | (s, bs, false) => .got s bs
    else
      let (s, bs) := s.readCtl w (devAddr city) n
      .got s bs
  else
    let part := (s.tile t).part
    match s.farRead rd part (s.epochOf (quarterOf t) part) city n with
    | (s, none) => .wait s
    | (s, some (_, true)) => .bad s
    | (s, some (bs, false)) => .got s bs

/-- Installs an instruction line (R221). -/
def State.installFetch (s : State) (t line : Nat) (bs : List Byte) : State :=
  s.modTile t fun x => { x with gmem := { x.gmem with icache := cacheInstall x.gmem.icache { line, data := lineOf bs } } }

/-- A prefetched line that another device has answered is installed, unless an invalidation has overtaken it or its read
failed (R216, R219, R221). -/
def State.takeAhead (s : State) (t : Nat) : State :=
  (s.far.filter fun x => x.who == .ahead t && x.ans.isSome).foldl (fun (s : State) x =>
    match x.ans with
    | some (bs, false) => if x.stale then s else s.installFetch t (x.city / 64) bs
    | _ => s) { s with far := s.far.filter fun x => x.who != .ahead t || x.ans.isNone }

/-- The prefetch of the line after a fetched one, under the conditions of R216: prefetching is on, a miss register is free, and
the line lies in the same page and is neither present nor requested; it never faults (R221). -/
def State.prefetchFetch (s : State) (t line : Nat) (big : Bool) : State :=
  let page := if big then 0x1000000 else 0x8000
  if bit (s.tile t).ctl.cachectl 2 || s.missRegs t ≥ 8 || (line + 1) / page ≠ line / page
      || (cacheFind (s.tile t).gmem.icache (line + 1)).isSome || (s.farAt (.ahead t) ((line + 1) * 64)).isSome then s
  else match s.fetchBytes t (.ahead t) ((line + 1) * 64) 64 with
    | .bad s => s
    | .wait s => s
    | .got s bs => s.installFetch t (line + 1) bs

/-- What comes of a group's fetch: its four parcels, a fault, or nothing yet. -/
inductive Group where
  | got (s : State) (parcels : Word)
  | fault (s : State) (code : Byte)
  | wait (s : State)

/-- A translated group arrives from the instruction cache or its home; a line that misses is filled, with the next one, unless
an invalidation has overtaken it (R219, R221). -/
def State.fetchAt (s : State) (t : Nat) (va : Nat) (e : TlbEntry) : Group :=
  let x := s.tile t
  let city := e.addr va
  let line := city / 64
  if x.icen then
    match cacheFind x.gmem.icache line with
    | some l =>
      .got (s.modTile t fun y => { y with gmem := { y.gmem with icache := cacheInstall y.gmem.icache l } })
        (lineWord l.data (city % 64 / 8))
    | none =>
      let old := s.farAt (.fetch t) (line * 64)
      let s := if old.isSome then s else s.count t 6 1
      match s.fetchBytes t (.fetch t) (line * 64) 64 with
      | .bad s => .fault s 0x1E
      | .wait s => .wait s
      | .got s bs =>
        let w := lineWord (lineOf bs) (city % 64 / 8)
        if old.any (·.stale) then .got s w else .got ((s.installFetch t line bs).prefetchFetch t line e.big) w
  else
    let a := city / 8 * 8
    match s.fetchBytes t (.fetch t) a 8 with
    | .bad s => .fault s 0x1E
    | .wait s => .wait s
    | .got s bs => .got s (BitVec.ofNat 64 (leNat bs))

/-- The fetch of one group: through the TLB, or a walk once the tile's stores are done; it needs X, and U in user mode (R206,
R209 to R211, R221). -/
def State.fetchGroup (s : State) (t : Nat) (va : Nat) : Group :=
  let x := s.tile t
  let use (s : State) (e : TlbEntry) : Group :=
    match protFault e kFetch (s.tile t).user with
    | some c => .fault s c
    | none => s.fetchAt t va e
  match x.tlbFind va with
  | some e => use (s.modTile t fun y => y.tlbTouch e) e
  | none =>
    if !s.storesDone t then .wait (s.modTile t fun y => { y with gmem := y.gmem.drainAll })
    else
      let q := quarterOf t
      let r := s.walk q x.part (BitVec.ofNat 64 va)
      let s := (s.walked q r (s.whoTile t).agent).count t 7 1
      match r.leaf with
      | none => .fault s 0x12
      | some e => use (s.modTile t fun y => { y with gmem := { y.gmem with tlb := tlbInstall y.gmem.tlb e } }) e

/-- The fetch of the instruction at PC: the group of its first parcel, and the next one where the instruction reaches into it.
A fault names the parcel that it met (R21, R67, R70). DEDUCED (log entry 125): where the first group faults at a delay slot,
the slot's length is unknown and counts as one parcel. -/
def State.fetch (s : State) (t : Nat) : State :=
  let pc := (s.tile t).core.pc.toNat
  match (s.takeAhead t).fetchGroup t pc with
  | .fault s c => (s.dropFar (.fetch t)).fault t c (BitVec.ofNat 64 pc)
  | .wait s => s
  | .got s w =>
    let n := parcelsOf (fld w (16 * (pc / 2 % 4)) 16)
    let next := (pc / 8 + 1) * 8
    if pc + 2 * n ≤ next then s.dropFar (.fetch t)
    else match s.fetchGroup t next with
      | .fault s c => ((s.dropFar (.fetch t)).modTile t fun x => x.resolveSlot n).fault t c (BitVec.ofNat 64 next)
      | .wait s => s
      | .got s _ => s.dropFar (.fetch t)

/-- The groups of the next instruction arrive (R21, R221); a pending imprecise exception or an interrupt is taken first (R70). -/
def execFetchGroupArrives (t : TileNo) (s : State) : Ans :=
  .next (if !s.atBoundary t then s
    else
      let s1 := (s.landDue t).checkHold t
      if s1.entersFirst t then s else s1.fetch t)

/-! ## Asynchronous entries (R29, R48, R49, R65, R66, R76) -/

/-- A pending imprecise exception is taken at a boundary that R65 allows. -/
def execImpreciseExceptionEntry (t : TileNo) (s : State) : Ans :=
  .next (if !s.atBoundary t then s
    else
      let s1 := (s.landDue t).checkHold t
      let x := s1.tile t
      match x.core.impr with
      | some (code, pc, _) =>
        if x.imprReady then
          (s1.modTile t fun y => { y with core := { y.core with impr := none } }).enter t code false true 0 (pc.setWidth 64)
        else s
      | none => s)

/-- An interrupt is taken at a boundary, not before a delay-slot instruction, or inside a waiting or long instruction, which
is left unexecuted (R48, R49, R66). -/
def execInterruptEntry (t : TileNo) (s : State) : Ans :=
  .next (if !(s.tile t).alive || (s.tile t).parked || !s.unfrozen t then s
    else
      let s1 := (s.landDue t).checkHold t
      let x := s1.tile t
      match s1.interrupt? t with
      | none => s
      | some i =>
        if x.core.doing = .issue ∧ (x.core.branch.isSome ∨ x.imprReady) then s
        else match s1.abandon t with
          | (s2, true) => s2.enter t (BitVec.ofNat 8 i) true false 0 0
          | (s2, false) => s2)

/-! ## Time at a tile (R47, R58, R82, R83) -/

/-- Freezes and waits bring CYCLE to a value, where it has not reached it. -/
def State.reachCycle (s : State) (t : Nat) (c : Word) : State :=
  if s.cycle t < c then s.modTile t fun x => { x with core := { x.core with cycle := x.core.cycle + (c - s.cycle t) } } else s

/-- CYCLE reaches TCMP, and the TIMER source is pending (R58). -/
def execTimerMatch (t : TileNo) (s : State) : Ans :=
  .next (if (s.block (blockOf t)).gatedAt.isSome then s else s.reachCycle t (s.tile t).ctl.tcmp)

/-- An open HOLD window runs out (R83). -/
def execHoldExpiry (t : TileNo) (s : State) : Ans :=
  .next (match (s.tile t).core.hold with
    | none => s
    | some e => if (s.block (blockOf t)).gatedAt.isSome then s else (s.reachCycle t e).expireHold t)

/-- What a waiting instruction waits for: ECAUSE.OBJ and EVAL (R46); the waits of the TMU for its array have no limit. -/
def State.waitsFor (s : State) (t : Nat) (opc opb : Byte) : Option (Nat × Word) :=
  match opc.toNat with
  | 0x62 => (s.tile t).gmem.slots.head?.map fun sl => (1, sl.va)
  | 0x6E => some (2, s.arg t 0)
  | 0xE7 => some (3, BitVec.ofNat 64 (tallyAddr (s.waittAt t).1 (s.waittAt t).2))
  | 0xE3 => some (4, BitVec.ofNat 64 (2 ^ fld (s.arg t 0) 0 3))
  | 0xE4 => some (4, s.arg t 0 &&& 0xFF)
  | 0xE0 => some (5, s.arg t 0)
  | 0xD9 => some (6, s.arg t 0)
  | 0x63 => some (7, s.arg t 0)
  | 0xC3 => if bit opb 3 then some (7, (s.tile t).rowAddr (s.arg t 0) (s.tile t).firstRow) else none
  | _ => none

/-- WAITLIM in cycles: values below 64 act as 64 (R57). -/
def Ctl.waitCycles (c : Ctl) : Word := if c.waitlim < 64 then 64 else c.waitlim

/-- A waiting instruction has waited WAITLIM cycles: it is left unexecuted and WAIT_TIMEOUT is raised, once an answer that
decides has come (R46, R47, R286, R346). -/
def execWaitTimeout (t : TileNo) (s : State) : Ans :=
  .next (if (s.block (blockOf t)).gatedAt.isSome then s
    else match (s.tile t).waitsIn with
      | none => s
      | some (opc, opb) =>
        match s.waitsFor t opc opb with
        | none => s
        | some (obj, v) =>
          match s.abandon t with
          | (s1, false) => s1
          | (s1, true) =>
            let lim := (s1.tile t).ctl.waitCycles
            (s1.modTile t fun x => { x with core := { x.core with cycle := x.core.cycle + lim } }).enter t 0x1A false false obj v)

end Sys2Proof.Machine
end

