-- ==== Sys2Proof/Machine/TimeSlice.lean ====
section
/-! DEFINITION. Time slices: a partition leaves its quarters, and another comes in (R167, R403, R422 to R424). -/

namespace Sys2Proof.Machine

/-- The quarters in which a partition runs. -/
def State.runsIn (s : State) (p : PartNo) : List Nat := (List.range 20).filter fun q => (s.quarter q).running == some p

/-- The tiles of quarters that are not at their reset values. -/
def State.tilesIn (s : State) (qs : List Nat) : List Nat := (s.tiles.map (·.1)).filter fun t => qs.contains (quarterOf t)

/-- Stops a partition's tiles as an interrupt would: a waiting or long instruction is left unexecuted, and every
merging-buffer entry drains (R48, R49, R137, R423). -/
def State.stopTiles (s : State) (ts : List Nat) : State :=
  ts.foldl (fun (s : State) t =>
    let s := (s.landDue t).modTile t fun x => { x with gmem := x.gmem.drainAll }
    if (s.tile t).core.doing = .issue then s else (s.abandon t).1) s

/-- Whether a tile has stopped and every access of it has its reply (R423). -/
def State.sliceQuiet (s : State) (t : Nat) : Bool :=
  let x := s.tile t
  x.core.doing == .issue && x.core.flight.isEmpty && x.gmem.mb.isEmpty && x.resetting.isNone
    && (s.reqs.all fun r => r.tile ≠ t) && (s.attempts.all fun a => a.tile ≠ t)
    && (s.blocks.all fun e => e.2.tops.all fun o => o.tile ≠ some t)

/-- Whether a block's engines have stopped: the DMA engine at a transfer boundary with its replies, the stag at a K-row
boundary, where it always stands between events (R167, R423). -/
def Block.sliceQuiet (b : Block) : Bool := b.dma.slots.isEmpty && b.tops.isEmpty && b.resetting.isNone

/-- What is saved of a tile: all but its caches, its TLB and its performance counters, with CYCLE as it stands (R423). -/
def State.savedTile (s : State) (t : Nat) : Tile :=
  let x := s.tile t
  { x with
    core := { x.core with cycle := s.cycle t }
    gmem := { x.gmem with tlb := [], dcache := [], icache := [] }
    pcsel := Vector.replicate 8 0, pcnt := Vector.replicate 8 0 }

/-- A stag as a time slice stops it: a running command that is not held already is preempted (R167, R171). -/
def Stag.preempted (g : Stag) : Stag :=
  if g.run.isSome && !g.paused then { g with ctrs := g.ctrs.setIfInBounds 15 (satAdd (nth g.ctrs 15 0) 1) } else g

/-- What is saved of a block: its stag's context, its DMA channels and its tallies (R423). -/
def Block.saved (b : Block) : Block :=
  { Block.reset with
    stag := b.stag.preempted, dma := { b.dma with tlb := [] }, tallies := b.tallies, watches := b.watches, trot := b.trot }

/-- Saves a partition's state in the quarters where it runs, and clears them (R403, R423). The save area at the top of its
HBM4 grant holds what the Square wrote there, which the model keeps apart: its lines read as any bytes. -/
def State.switchOut (s : State) (p : PartNo) (qs : List Nat) : State :=
  let inQ (a : Nat) : Bool := qs.any fun q => decide (tileMemBase (q * 1024) ≤ a) && decide (a < tileMemBase (q * 1024) + 0x10000000)
  let saved := (s.tilesIn qs).map fun t => (t, s.savedTile t)
  let savedBlocks := (s.blocks.filter fun e => qs.contains (e.1 / 64)).map fun (e : Nat × Block) => (e.1, e.2.saved)
  let savedMem := s.mem.filter fun c => inQ c.1
  let s := { s with parts := s.parts.map fun (e : Nat × Partition) =>
    if e.1 = p.toNat then (e.1, { e.2 with saved, savedBlocks, savedMem }) else e }
  qs.foldl (fun (s : State) q =>
    let g := Tab.read .reset p.toNat (s.quarter q).grants
    let top := q * 0x1000000000 + (g.hbBase.toNat + g.hbSize.toNat) * gib
    let s := (s.rekey (top - 0x14000000) top).clearTiles q
    s.modQuarter q fun x => { x with running := none }) s

/-- Restores a partition's state in its quarters and resumes it: caches and TLBs come back invalid, and CYCLE goes on from
where it stood; at a first switch-in there is only the application key to place (R423). -/
def State.switchIn (s : State) (r : PartNo) (x : Partition) (qs : List Nat) : State :=
  let s := qs.foldl (fun (s : State) q => (s.modQuarter q fun y => { y with running := some r }).setTilePart q r) s
  let s := x.savedBlocks.foldl (fun (s : State) e => s.setBlock e.1 e.2) s
  let s := x.saved.foldl (fun (s : State) (e : Nat × Tile) =>
    s.setTile e.1 { e.2 with core := { e.2.core with cycle := e.2.core.cycle - s.clockPart e.1 } }) s
  { s with
    mem := x.savedMem.foldl (fun m c => Memory.write c.1 c.2 m) s.mem
    parts := s.parts.map fun (e : Nat × Partition) =>
      if e.1 = r.toNat then (e.1, { e.2 with saved := [], savedBlocks := [], savedMem := [] }) else e }

/-- Whether partition r waits for a slice that the quarters given would let it run: it is whole and out, it has one of them, and
its other quarters are free (R422). -/
def State.sliceReady (s : State) (out : List Nat) (r : PartNo) : Bool :=
  let into := s.quartersOf r.toNat
  (match s.part? r.toNat with
   | some x => x.ending.isNone
   | none => false) && (s.runsIn r).isEmpty && into.any (out.contains ·)
    && into.all fun q => (s.quarter q).running.isNone || out.contains q

/-- The partition that the rotation gives p's quarters to: the next by number that waits for them. DESIGN CHOICE (log entry
156): the spec does not say by what the rotation goes (R422). -/
def State.nextSlice (s : State) (p : PartNo) : Option PartNo :=
  ((List.range 63).map fun i => p + BitVec.ofNat 6 (i + 1)).find? (s.sliceReady (s.runsIn p))

/-- The Square switches from partition p to partition r, the next in rotation, once p's tiles and engines have stopped; until
then it stops them. Where p runs nowhere, r comes into free quarters (R422, R423). -/
def execTimeSliceSwitch (p r : PartNo) (s : State) : Ans :=
  .next (match s.part? r.toNat with
    | none => s
    | some x =>
      let out := s.runsIn p
      let into := s.quartersOf r.toNat
      let ok := s.sq.running && !s.curfew && p != r && x.ending.isNone
        && (match s.part? p.toNat with
          | some y => y.ending.isNone
          | none => true)
        && (into.all fun q => (s.quarter q).running.isNone || out.contains q)
        && (out.isEmpty || s.nextSlice p == some r)
      if !ok then s
      else
        let s := s.stopTiles (s.tilesIn out)
        if (s.tilesIn out).all s.sliceQuiet && (s.blocks.all fun e => !out.contains (e.1 / 64) || e.2.sliceQuiet) then
          (s.switchOut p out).switchIn r x into
        else s)

end Sys2Proof.Machine
end

