-- ==== Sys2Proof/Machine/Dispatch.lean ====
section
/-! DEFINITION. One arm per command: the command's effect on everything but the queue. -/

namespace Sys2Proof.Machine

/-- The effect of a command. -/
def exec (i : Instr) (s : State) : Host.Outcome State Fault Refusal :=
  match i with
  | .nop t b => Sys2Proof.Machine.execNop t b s
  | .lit8 t b => Sys2Proof.Machine.execLit8 t b s
  | .lit16 t b data => Sys2Proof.Machine.execLit16 t b data s
  | .lit64 t b data => Sys2Proof.Machine.execLit64 t b data s
  | .dup t b => Sys2Proof.Machine.execDup t b s
  | .drop t b => Sys2Proof.Machine.execDrop t b s
  | .swap t b => Sys2Proof.Machine.execSwap t b s
  | .over t b => Sys2Proof.Machine.execOver t b s
  | .rot t b => Sys2Proof.Machine.execRot t b s
  | .nip t b => Sys2Proof.Machine.execNip t b s
  | .tuck t b => Sys2Proof.Machine.execTuck t b s
  | .pick t b => Sys2Proof.Machine.execPick t b s
  | .put t b => Sys2Proof.Machine.execPut t b s
  | .dropn t b => Sys2Proof.Machine.execDropn t b s
  | .tor t b => Sys2Proof.Machine.execTor t b s
  | .fromr t b => Sys2Proof.Machine.execFromr t b s
  | .rcopy t b => Sys2Proof.Machine.execRcopy t b s
  | .add t b => Sys2Proof.Machine.execAdd t b s
  | .sub t b => Sys2Proof.Machine.execSub t b s
  | .and t b => Sys2Proof.Machine.execAnd t b s
  | .or t b => Sys2Proof.Machine.execOr t b s
  | .xor t b => Sys2Proof.Machine.execXor t b s
  | .not t b => Sys2Proof.Machine.execNot t b s
  | .neg t b => Sys2Proof.Machine.execNeg t b s
  | .addi t b => Sys2Proof.Machine.execAddi t b s
  | .shl t b => Sys2Proof.Machine.execShl t b s
  | .shr t b => Sys2Proof.Machine.execShr t b s
  | .sar t b => Sys2Proof.Machine.execSar t b s
  | .rol t b => Sys2Proof.Machine.execRol t b s
  | .shli t b => Sys2Proof.Machine.execShli t b s
  | .shri t b => Sys2Proof.Machine.execShri t b s
  | .sari t b => Sys2Proof.Machine.execSari t b s
  | .min t b => Sys2Proof.Machine.execMin t b s
  | .max t b => Sys2Proof.Machine.execMax t b s
  | .minu t b => Sys2Proof.Machine.execMinu t b s
  | .maxu t b => Sys2Proof.Machine.execMaxu t b s
  | .clz t b => Sys2Proof.Machine.execClz t b s
  | .ctz t b => Sys2Proof.Machine.execCtz t b s
  | .popc t b => Sys2Proof.Machine.execPopc t b s
  | .sext t b => Sys2Proof.Machine.execSext t b s
  | .zext t b => Sys2Proof.Machine.execZext t b s
  | .sel t b => Sys2Proof.Machine.execSel t b s
  | .eq t b => Sys2Proof.Machine.execEq t b s
  | .ne t b => Sys2Proof.Machine.execNe t b s
  | .lt t b => Sys2Proof.Machine.execLt t b s
  | .ltu t b => Sys2Proof.Machine.execLtu t b s
  | .le t b => Sys2Proof.Machine.execLe t b s
  | .leu t b => Sys2Proof.Machine.execLeu t b s
  | .zeq t b => Sys2Proof.Machine.execZeq t b s
  | .zlt t b => Sys2Proof.Machine.execZlt t b s
  | .mul t b => Sys2Proof.Machine.execMul t b s
  | .mulh t b => Sys2Proof.Machine.execMulh t b s
  | .mulhu t b => Sys2Proof.Machine.execMulhu t b s
  | .div t b => Sys2Proof.Machine.execDiv t b s
  | .divu t b => Sys2Proof.Machine.execDivu t b s
  | .rem t b => Sys2Proof.Machine.execRem t b s
  | .remu t b => Sys2Proof.Machine.execRemu t b s
  | .ldb t b => Sys2Proof.Machine.execLdb t b s
  | .ldbu t b => Sys2Proof.Machine.execLdbu t b s
  | .ldh t b => Sys2Proof.Machine.execLdh t b s
  | .ldhu t b => Sys2Proof.Machine.execLdhu t b s
  | .ldw t b => Sys2Proof.Machine.execLdw t b s
  | .ldwu t b => Sys2Proof.Machine.execLdwu t b s
  | .ldd t b => Sys2Proof.Machine.execLdd t b s
  | .stb t b => Sys2Proof.Machine.execStb t b s
  | .sth t b => Sys2Proof.Machine.execSth t b s
  | .stw t b => Sys2Proof.Machine.execStw t b s
  | .std t b => Sys2Proof.Machine.execStd t b s
  | .gld t b => Sys2Proof.Machine.execGld t b s
  | .glda t b => Sys2Proof.Machine.execGlda t b s
  | .gtake t b => Sys2Proof.Machine.execGtake t b s
  | .gst t b => Sys2Proof.Machine.execGst t b s
  | .gldb t b => Sys2Proof.Machine.execGldb t b s
  | .gfill t b => Sys2Proof.Machine.execGfill t b s
  | .aadd t b => Sys2Proof.Machine.execAadd t b s
  | .acas t b => Sys2Proof.Machine.execAcas t b s
  | .mcmp t b => Sys2Proof.Machine.execMcmp t b s
  | .mcnt t b => Sys2Proof.Machine.execMcnt t b s
  | .mrcnt t b => Sys2Proof.Machine.execMrcnt t b s
  | .mrcntm t b => Sys2Proof.Machine.execMrcntm t b s
  | .waitm t b => Sys2Proof.Machine.execWaitm t b s
  | .rel t b => Sys2Proof.Machine.execRel t b s
  | .acq t b => Sys2Proof.Machine.execAcq t b s
  | .fenceg t b => Sys2Proof.Machine.execFenceg t b s
  | .cinv t b => Sys2Proof.Machine.execCinv t b s
  | .icinv t b => Sys2Proof.Machine.execIcinv t b s
  | .br t b => Sys2Proof.Machine.execBr t b s
  | .bz t b => Sys2Proof.Machine.execBz t b s
  | .bnz t b => Sys2Proof.Machine.execBnz t b s
  | .call t b => Sys2Proof.Machine.execCall t b s
  | .jmp t b => Sys2Proof.Machine.execJmp t b s
  | .calli t b => Sys2Proof.Machine.execCalli t b s
  | .ret t b => Sys2Proof.Machine.execRet t b s
  | .loop t b => Sys2Proof.Machine.execLoop t b s
  | .sys t b => Sys2Proof.Machine.execSys t b s
  | .brk t b => Sys2Proof.Machine.execBrk t b s
  | .eret t b => Sys2Proof.Machine.execEret t b s
  | .setm t b => Sys2Proof.Machine.execSetm t b s
  | .hold t b => Sys2Proof.Machine.execHold t b s
  | .crd t b => Sys2Proof.Machine.execCrd t b s
  | .cwr t b => Sys2Proof.Machine.execCwr t b s
  | .annexSink t o b => Sys2Proof.Machine.execAnnexSink t o b s
  | .annexUnary t o b => Sys2Proof.Machine.execAnnexUnary t o b s
  | .annexBinary t o b => Sys2Proof.Machine.execAnnexBinary t o b s
  | .annexTernary t o b => Sys2Proof.Machine.execAnnexTernary t o b s
  | .resultLands t => Sys2Proof.Machine.execResultLands t s
  | .fetchGroupArrives t => Sys2Proof.Machine.execFetchGroupArrives t s
  | .impreciseExceptionEntry t => Sys2Proof.Machine.execImpreciseExceptionEntry t s
  | .interruptEntry t => Sys2Proof.Machine.execInterruptEntry t s
  | .timerMatch t => Sys2Proof.Machine.execTimerMatch t s
  | .holdExpiry t => Sys2Proof.Machine.execHoldExpiry t s
  | .waitTimeout t => Sys2Proof.Machine.execWaitTimeout t s
  | .release t pc => Sys2Proof.Machine.execRelease t pc s
  | .loadValueArrives t n => Sys2Proof.Machine.execLoadValueArrives t n s
  | .lineFillArrives t n => Sys2Proof.Machine.execLineFillArrives t n s
  | .mbDrainTimer t n => Sys2Proof.Machine.execMbDrainTimer t n s
  | .mbEntrySent t => Sys2Proof.Machine.execMbEntrySent t s
  | .writeAckArrives t id => Sys2Proof.Machine.execWriteAckArrives t id s
  | .globalReadAtHome id => Sys2Proof.Machine.execGlobalReadAtHome id s
  | .globalWriteAtHome id => Sys2Proof.Machine.execGlobalWriteAtHome id s
  | .operationAtHome id => Sys2Proof.Machine.execOperationAtHome id s
  | .watchPlaced t => Sys2Proof.Machine.execWatchPlaced t s
  | .watchReplyArrives t => Sys2Proof.Machine.execWatchReplyArrives t s
  | .watchReread t => Sys2Proof.Machine.execWatchReread t s
  | .rangeCountAtHome t c => Sys2Proof.Machine.execRangeCountAtHome t c s
  | .rangeCountArrives t => Sys2Proof.Machine.execRangeCountArrives t s
  | .gldbLineArrives t => Sys2Proof.Machine.execGldbLineArrives t s
  | .opBufferWriteback u line => Sys2Proof.Machine.execOpBufferWriteback u line s
  | .tlbMissWalk t => Sys2Proof.Machine.execTlbMissWalk t s
  | .walkComplete q n => Sys2Proof.Machine.execWalkComplete q n s
  | .xlinvAll w q => Sys2Proof.Machine.execXlinvAll w q s
  | .xlinvVa w q va => Sys2Proof.Machine.execXlinvVa w q va s
  | .xlinvComplete q => Sys2Proof.Machine.execXlinvComplete q s
  | .vld t b => Sys2Proof.Machine.execVld t b s
  | .vst t b => Sys2Proof.Machine.execVst t b s
  | .vgather t b => Sys2Proof.Machine.execVgather t b s
  | .vscatter t b => Sys2Proof.Machine.execVscatter t b s
  | .vscatterWrite t => Sys2Proof.Machine.execVscatterWrite t s
  | .vdup t b => Sys2Proof.Machine.execVdup t b s
  | .vdrop t b => Sys2Proof.Machine.execVdrop t b s
  | .vswap t b => Sys2Proof.Machine.execVswap t b s
  | .vover t b => Sys2Proof.Machine.execVover t b s
  | .vrot t b => Sys2Proof.Machine.execVrot t b s
  | .vnip t b => Sys2Proof.Machine.execVnip t b s
  | .vsplat t b => Sys2Proof.Machine.execVsplat t b s
  | .vpull t b => Sys2Proof.Machine.execVpull t b s
  | .vins t b => Sys2Proof.Machine.execVins t b s
  | .vadd t b => Sys2Proof.Machine.execVadd t b s
  | .vsub t b => Sys2Proof.Machine.execVsub t b s
  | .vmul t b => Sys2Proof.Machine.execVmul t b s
  | .vfma t b => Sys2Proof.Machine.execVfma t b s
  | .vminmax t b => Sys2Proof.Machine.execVminmax t b s
  | .vcmp t b => Sys2Proof.Machine.execVcmp t b s
  | .vsel t b => Sys2Proof.Machine.execVsel t b s
  | .vlogic t b => Sys2Proof.Machine.execVlogic t b s
  | .vshift t b => Sys2Proof.Machine.execVshift t b s
  | .vcvt t b => Sys2Proof.Machine.execVcvt t b s
  | .vred t b => Sys2Proof.Machine.execVred t b s
  | .vshuf t b => Sys2Proof.Machine.execVshuf t b s
  | .vslide t b => Sys2Proof.Machine.execVslide t b s
  | .vunary t b => Sys2Proof.Machine.execVunary t b s
  | .vcopy t b => Sys2Proof.Machine.execVcopy t b s
  | .vfill t b => Sys2Proof.Machine.execVfill t b s
  | .vstat t b => Sys2Proof.Machine.execVstat t b s
  | .vdot4 t b => Sys2Proof.Machine.execVdot4 t b s
  | .vdiv t b => Sys2Proof.Machine.execVdiv t b s
  | .tcfg t b => Sys2Proof.Machine.execTcfg t b s
  | .tcfgr t b => Sys2Proof.Machine.execTcfgr t b s
  | .tload t b => Sys2Proof.Machine.execTload t b s
  | .tstore t b => Sys2Proof.Machine.execTstore t b s
  | .tmma t b => Sys2Proof.Machine.execTmma t b s
  | .tpull t b => Sys2Proof.Machine.execTpull t b s
  | .tsta t b => Sys2Proof.Machine.execTsta t b s
  | .tlda t b => Sys2Proof.Machine.execTlda t b s
  | .tstat t b => Sys2Proof.Machine.execTstat t b s
  | .tvec t b => Sys2Proof.Machine.execTvec t b s
  | .tmmaStart t => Sys2Proof.Machine.execTmmaStart t s
  | .tmmaFinish t => Sys2Proof.Machine.execTmmaFinish t s
  | .tloadRowArrives t => Sys2Proof.Machine.execTloadRowArrives t s
  | .sgo t b => Sys2Proof.Machine.execSgo t b s
  | .sstat t b => Sys2Proof.Machine.execSstat t b s
  | .sctr t b => Sys2Proof.Machine.execSctr t b s
  | .sctrclr t b => Sys2Proof.Machine.execSctrclr t b s
  | .scancel t b => Sys2Proof.Machine.execScancel t b s
  | .stagCommandStart k => Sys2Proof.Machine.execStagCommandStart k s
  | .stagPassBoundary k => Sys2Proof.Machine.execStagPassBoundary k s
  | .stag16bitOverflow k => Sys2Proof.Machine.execStag16bitOverflow k s
  | .stagOutputTileDone k => Sys2Proof.Machine.execStagOutputTileDone k s
  | .stagCommandComplete k => Sys2Proof.Machine.execStagCommandComplete k s
  | .stagDataError k => Sys2Proof.Machine.execStagDataError k s
  | .stagPreempt k row => Sys2Proof.Machine.execStagPreempt k row s
  | .stagResume k => Sys2Proof.Machine.execStagResume k s
  | .dmago t b => Sys2Proof.Machine.execDmago t b s
  | .waitd t b => Sys2Proof.Machine.execWaitd t b s
  | .dmastop t b => Sys2Proof.Machine.execDmastop t b s
  | .dmastat t b => Sys2Proof.Machine.execDmastat t b s
  | .dmaack t b => Sys2Proof.Machine.execDmaack t b s
  | .dmactr t b => Sys2Proof.Machine.execDmactr t b s
  | .dmactrclr t b => Sys2Proof.Machine.execDmactrclr t b s
  | .descriptorStart k ch => Sys2Proof.Machine.execDescriptorStart k ch s
  | .transferIssue k ch => Sys2Proof.Machine.execTransferIssue k ch s
  | .transferComplete k n => Sys2Proof.Machine.execTransferComplete k n s
  | .descriptorComplete k ch => Sys2Proof.Machine.execDescriptorComplete k ch s
  | .ringConsReread k ch => Sys2Proof.Machine.execRingConsReread k ch s
  | .send t b => Sys2Proof.Machine.execSend t b s
  | .sendt t b => Sys2Proof.Machine.execSendt t b s
  | .sendc t b => Sys2Proof.Machine.execSendc t b s
  | .recv t b => Sys2Proof.Machine.execRecv t b s
  | .select t b => Sys2Proof.Machine.execSelect t b s
  | .qopen t b => Sys2Proof.Machine.execQopen t b s
  | .qclose t b => Sys2Proof.Machine.execQclose t b s
  | .qstat t b => Sys2Proof.Machine.execQstat t b s
  | .qimask t b => Sys2Proof.Machine.execQimask t b s
  | .messageArrives id => Sys2Proof.Machine.execMessageArrives id s
  | .messageAnswerArrives id => Sys2Proof.Machine.execMessageAnswerArrives id s
  | .sendResend id => Sys2Proof.Machine.execSendResend id s
  | .reservationLapse t q => Sys2Proof.Machine.execReservationLapse t q s
  | .tadd t b => Sys2Proof.Machine.execTadd t b s
  | .tsub t b => Sys2Proof.Machine.execTsub t b s
  | .tread t b => Sys2Proof.Machine.execTread t b s
  | .tevts t b => Sys2Proof.Machine.execTevts t b s
  | .waitt t b => Sys2Proof.Machine.execWaitt t b s
  | .tallyCycle k j arrived => Sys2Proof.Machine.execTallyCycle k j arrived s
  | .tallyWatchRetry t => Sys2Proof.Machine.execTallyWatchRetry t s
  | .waittReplyArrives t => Sys2Proof.Machine.execWaittReplyArrives t s
  | .gridlockFire q => Sys2Proof.Machine.execGridlockFire q s
  | .linkCrcResend l => Sys2Proof.Machine.execLinkCrcResend l s
  | .multicastWrite w q g o data => Sys2Proof.Machine.execMulticastWrite w q g o data s
  | .reductionInjectWrite w q j o data => Sys2Proof.Machine.execReductionInjectWrite w q j o data s
  | .reductionCombine a b => Sys2Proof.Machine.execReductionCombine a b s
  | .reductionLand n => Sys2Proof.Machine.execReductionLand n s
  | .rtexpWrite w q j v => Sys2Proof.Machine.execRtexpWrite w q j v s
  | .nelemWrite w e g v => Sys2Proof.Machine.execNelemWrite w e g v s
  | .hnew t b => Sys2Proof.Machine.execHnew t b s
  | .hset t b => Sys2Proof.Machine.execHset t b s
  | .hget t b => Sys2Proof.Machine.execHget t b s
  | .hcellAppend t b => Sys2Proof.Machine.execHcellAppend t b s
  | .hcellEntry t b => Sys2Proof.Machine.execHcellEntry t b s
  | .hcellRelease t b => Sys2Proof.Machine.execHcellRelease t b s
  | .hdone t b => Sys2Proof.Machine.execHdone t b s
  | .hbeat t b => Sys2Proof.Machine.execHbeat t b s
  | .hfree t b => Sys2Proof.Machine.execHfree t b s
  | .hadopt t b => Sys2Proof.Machine.execHadopt t b s
  | .hiveEnable w q p v => Sys2Proof.Machine.execHiveEnable w q p v s
  | .hiveReady q p => Sys2Proof.Machine.execHiveReady q p s
  | .cellMoveComplete q n => Sys2Proof.Machine.execCellMoveComplete q n s
  | .intakeWatchFires q p => Sys2Proof.Machine.execIntakeWatchFires q p s
  | .intakeNew q p => Sys2Proof.Machine.execIntakeNew q p s
  | .intakeReady q p => Sys2Proof.Machine.execIntakeReady q p s
  | .intakePause q p => Sys2Proof.Machine.execIntakePause q p s
  | .intakeFinish q p => Sys2Proof.Machine.execIntakeFinish q p s
  | .intakeFree q p => Sys2Proof.Machine.execIntakeFree q p s
  | .intakeDeadline q p => Sys2Proof.Machine.execIntakeDeadline q p s
  | .intakeConsAdvance q p => Sys2Proof.Machine.execIntakeConsAdvance q p s
  | .mirrorHeaderWrite q p => Sys2Proof.Machine.execMirrorHeaderWrite q p s
  | .portTrainingDone p => Sys2Proof.Machine.execPortTrainingDone p s
  | .qualifyCountEnd p c => Sys2Proof.Machine.execQualifyCountEnd p c s
  | .errorCountEnd p c => Sys2Proof.Machine.execErrorCountEnd p c s
  | .dataFlit p f => Sys2Proof.Machine.execDataFlit p f s
  | .beat p m => Sys2Proof.Machine.execBeat p m s
  | .nak p seq => Sys2Proof.Machine.execNak p seq s
  | .credit p freed => Sys2Proof.Machine.execCredit p freed s
  | .retrain p => Sys2Proof.Machine.execRetrain p s
  | .hello p h => Sys2Proof.Machine.execHello p h s
  | .reply p h => Sys2Proof.Machine.execReply p h s
  | .fin p h => Sys2Proof.Machine.execFin p h s
  | .beatSend p => Sys2Proof.Machine.execBeatSend p s
  | .creditSend p => Sys2Proof.Machine.execCreditSend p s
  | .beatTimeout p => Sys2Proof.Machine.execBeatTimeout p s
  | .admitPort w p => Sys2Proof.Machine.execAdmit w p s
  | .violationRateFence p => Sys2Proof.Machine.execViolationRateFence p s
  | .switchForward e n => Sys2Proof.Machine.execSwitchForward e n s
  | .fabricRead n => Sys2Proof.Machine.execFabricRead n s
  | .fabricWrite n => Sys2Proof.Machine.execFabricWrite n s
  | .fabricAadd n => Sys2Proof.Machine.execFabricAadd n s
  | .fabricAcas n => Sys2Proof.Machine.execFabricAcas n s
  | .fabricMcmp n => Sys2Proof.Machine.execFabricMcmp n s
  | .fabricMcnt n => Sys2Proof.Machine.execFabricMcnt n s
  | .fabricWatch n => Sys2Proof.Machine.execFabricWatch n s
  | .fabricCount c => Sys2Proof.Machine.execFabricCount c s
  | .fabricPartial n => Sys2Proof.Machine.execFabricPartial n s
  | .fabricReturn n => Sys2Proof.Machine.execFabricReturn n s
  | .fabricUnwatch n => Sys2Proof.Machine.execFabricUnwatch n s
  | .fabricData n => Sys2Proof.Machine.execFabricData n s
  | .fabricAck n => Sys2Proof.Machine.execFabricAck n s
  | .fabricOld n => Sys2Proof.Machine.execFabricOld n s
  | .fabricFired n => Sys2Proof.Machine.execFabricFired n s
  | .fabricTotal n => Sys2Proof.Machine.execFabricTotal n s
  | .mgmt n sdev m => Sys2Proof.Machine.execMgmt n sdev m s
  | .transactionTimeout txid => Sys2Proof.Machine.execTransactionTimeout txid s
  | .managerExclude x => Sys2Proof.Machine.execManagerExclude x s
  | .mgmtHeartbeat => Sys2Proof.Machine.execMgmtHeartbeat s
  | .managerTakeover => Sys2Proof.Machine.execManagerTakeover s
  | .cxlMemRead dpa => Sys2Proof.Machine.execCxlMemRead dpa s
  | .cxlMemWrite dpa be data => Sys2Proof.Machine.execCxlMemWrite dpa be data s
  | .cxlIoRead fn off => Sys2Proof.Machine.execCxlIoRead fn off s
  | .cxlIoWrite fn off v => Sys2Proof.Machine.execCxlIoWrite fn off v s
  | .hmsi w q p v => Sys2Proof.Machine.execHmsi w q p v s
  | .vectorUnmask p vec => Sys2Proof.Machine.execVectorUnmask p vec s
  | .identifyMemoryDevice => Sys2Proof.Machine.execIdentifyMemoryDevice s
  | .getSupportedLogs => Sys2Proof.Machine.execGetSupportedLogs s
  | .getLog => Sys2Proof.Machine.execGetLog s
  | .getHealthInfo => Sys2Proof.Machine.execGetHealthInfo s
  | .getEventRecords => Sys2Proof.Machine.execGetEventRecords s
  | .clearEventRecords => Sys2Proof.Machine.execClearEventRecords s
  | .unsupportedMailbox opcode => Sys2Proof.Machine.execUnsupportedMailbox opcode s
  | .getVersion => Sys2Proof.Machine.execGetVersion s
  | .getCapabilities => Sys2Proof.Machine.execGetCapabilities s
  | .negotiateAlgorithms => Sys2Proof.Machine.execNegotiateAlgorithms s
  | .getDigests => Sys2Proof.Machine.execGetDigests s
  | .getCertificate slot => Sys2Proof.Machine.execGetCertificate slot s
  | .challenge slot nonce => Sys2Proof.Machine.execChallenge slot nonce s
  | .getMeasurements block nonce => Sys2Proof.Machine.execGetMeasurements block nonce s
  | .pqmode mode => Sys2Proof.Machine.execPqmode mode s
  | .getPqsig => Sys2Proof.Machine.execGetPqsig s
  | .kxInit m => Sys2Proof.Machine.execKxInit m s
  | .kxFin part confirms => Sys2Proof.Machine.execKxFin part confirms s
  | .ucieModuleFail m => Sys2Proof.Machine.execUcieModuleFail m s
  | .powerGood => Sys2Proof.Machine.execPowerGood s
  | .shutdown millivolt => Sys2Proof.Machine.execShutdown millivolt s
  | .supplyExcursion millivolt => Sys2Proof.Machine.execSupplyExcursion millivolt s
  | .resetPin => Sys2Proof.Machine.execResetPin s
  | .phaseSquareEnd f => Sys2Proof.Machine.execPhaseSquareEnd f s
  | .phaseClocksEnd => Sys2Proof.Machine.execPhaseClocksEnd s
  | .phaseMemoryTrainingEnd f => Sys2Proof.Machine.execPhaseMemoryTrainingEnd f s
  | .phaseTestEnd tiles stags banks => Sys2Proof.Machine.execPhaseTestEnd tiles stags banks s
  | .phaseLinksEnd ucie badLanes => Sys2Proof.Machine.execPhaseLinksEnd ucie badLanes s
  | .phaseComputeEnd tiles stags => Sys2Proof.Machine.execPhaseComputeEnd tiles stags s
  | .partitionDescriptor d img imgOk => Sys2Proof.Machine.execPartitionDescriptor d img imgOk s
  | .partitionDestroy p => Sys2Proof.Machine.execPartitionDestroy p s
  | .timeSliceSwitch p r => Sys2Proof.Machine.execTimeSliceSwitch p r s
  | .treset w q v => Sys2Proof.Machine.execTreset w q v s
  | .breset w q v => Sys2Proof.Machine.execBreset w q v s
  | .preset w q v => Sys2Proof.Machine.execPreset w q v s
  | .resetRepliesDrained q => Sys2Proof.Machine.execResetRepliesDrained q s
  | .spotTestStart u => Sys2Proof.Machine.execSpotTestStart u s
  | .spotTestEnd u pass => Sys2Proof.Machine.execSpotTestEnd u pass s
  | .floorPlanWriteDone => Sys2Proof.Machine.execFloorPlanWriteDone s
  | .controlEntryRewrite entry => Sys2Proof.Machine.execControlEntryRewrite entry s
  | .permitGrant u => Sys2Proof.Machine.execPermitGrant u s
  | .measureCheck same => Sys2Proof.Machine.execMeasureCheck same s
  | .squareHeartbeat heard0 heard1 standbyHears => Sys2Proof.Machine.execSquareHeartbeat heard0 heard1 standbyHears s
  | .quorumLoss => Sys2Proof.Machine.execQuorumLoss s
  | .squareTakeover => Sys2Proof.Machine.execSquareTakeover s
  | .thermalSample q tj thbm => Sys2Proof.Machine.execThermalSample q tj thbm s
  | .powerSample watt => Sys2Proof.Machine.execPowerSample watt s
  | .opStepEnd q => Sys2Proof.Machine.execOpStepEnd q s
  | .opStepUpTimer q => Sys2Proof.Machine.execOpStepUpTimer q s
  | .qclkReq w q v => Sys2Proof.Machine.execQclkReq w q v s
  | .blockGate k => Sys2Proof.Machine.execBlockGate k s
  | .blockWake k => Sys2Proof.Machine.execBlockWake k s
  | .tpark w t v => Sys2Proof.Machine.execTpark w t v s
  | .tilePark t => Sys2Proof.Machine.execTilePark t s
  | .tileWake t => Sys2Proof.Machine.execTileWake t s
  | .pllOff q => Sys2Proof.Machine.execPllOff q s
  | .pllLock q => Sys2Proof.Machine.execPllLock q s
  | .selfRefreshEntry u => Sys2Proof.Machine.execSelfRefreshEntry u s
  | .patrolBurst u => Sys2Proof.Machine.execPatrolBurst u s
  | .sweeperAccess k => Sys2Proof.Machine.execSweeperAccess k s
  | .sweeperForcedAccess k => Sys2Proof.Machine.execSweeperForcedAccess k s
  | .hbmPatrol q => Sys2Proof.Machine.execHbmPatrol q s
  | .ddr5Patrol c => Sys2Proof.Machine.execDdr5Patrol c s
  | .coolantSample flow inlet outlet => Sys2Proof.Machine.execCoolantSample flow inlet outlet s
  | .moduleInsertion cage => Sys2Proof.Machine.execModuleInsertion cage s
  | .moduleRemoval cage => Sys2Proof.Machine.execModuleRemoval cage s
  | .info => Sys2Proof.Machine.execInfo s
  | .floor q => Sys2Proof.Machine.execFloor q s
  | .log l count => Sys2Proof.Machine.execLog l count s
  | .links => Sys2Proof.Machine.execLinks s
  | .temps => Sys2Proof.Machine.execTemps s
  | .permits q => Sys2Proof.Machine.execPermits q s
  | .queue t k => Sys2Proof.Machine.execQueue t k s
  | .tally k j => Sys2Proof.Machine.execTally k j s
  | .tallyClr k j => Sys2Proof.Machine.execTallyClr k j s
  | .peek a size => Sys2Proof.Machine.execPeek a size s
  | .poke a size v => Sys2Proof.Machine.execPoke a size v s
  | .dump a len => Sys2Proof.Machine.execDump a len s
  | .spot u => Sys2Proof.Machine.execSpot u s
  | .unlock => Sys2Proof.Machine.execUnlock s
  | .unlockToken n tok => Sys2Proof.Machine.execUnlockToken n tok s
  | .recover part n => Sys2Proof.Machine.execRecover part n s
  | .recoverReset => Sys2Proof.Machine.execRecoverReset s
  | .dataLine bytes sum imageOk => Sys2Proof.Machine.execDataLine bytes sum imageOk s
  | .unknownCommand => Sys2Proof.Machine.execUnknownCommand s
  | .overlongLine => Sys2Proof.Machine.execOverlongLine s
  | .abortCharacter => Sys2Proof.Machine.execAbortCharacter s
  | .fruRead a => Sys2Proof.Machine.execFruRead a s
  | .smbBootstat => Sys2Proof.Machine.execSmbBootstat s
  | .smbUid => Sys2Proof.Machine.execSmbUid s
  | .smbTemperatures => Sys2Proof.Machine.execSmbTemperatures s
  | .smbInputPower => Sys2Proof.Machine.execSmbInputPower s
  | .smbCoolant => Sys2Proof.Machine.execSmbCoolant s
  | .readVin => Sys2Proof.Machine.execReadVin s
  | .readIin => Sys2Proof.Machine.execReadIin s
  | .readPin => Sys2Proof.Machine.execReadPin s
  | .readTemperature1 => Sys2Proof.Machine.execReadTemperature1 s
  | .statusWord => Sys2Proof.Machine.execStatusWord s
  | .pmbusWrite cmd => Sys2Proof.Machine.execPmbusWrite cmd s
  | .trctlWrite w k v => Sys2Proof.Machine.execTrctlWrite w k v s
  | .registerWrite w a size v => Sys2Proof.Machine.execRegisterWrite w a size v s
  | .unassignedOpcode t p => Sys2Proof.Machine.execUnassignedOpcode t p s
  | .resetPinRises => Sys2Proof.Machine.execResetPinRises s
  | .traceIssueSample k => Sys2Proof.Machine.execTraceIssueSample k s
  | .configurationSpaceWrite fn vfen msixen => Sys2Proof.Machine.execConfigurationSpaceWrite fn vfen msixen s
  | .hbmRefreshRecalibration q => Sys2Proof.Machine.execHbmRefreshRecalibration q s
  | .memoryInterfaceRetrain u => Sys2Proof.Machine.execMemoryInterfaceRetrain u s
  | .noSignalTimeout p => Sys2Proof.Machine.execNoSignalTimeout p s
  | .edgeDieThermalLimit e => Sys2Proof.Machine.execEdgeDieThermalLimit e s

end Sys2Proof.Machine
end

