-- ==== Sys2Proof/WellFormed.lean ====
section
/-! DEFINITION. Which commands are well formed: what the spec says of a command's operands beyond their widths. A
command that fails a check is one that no unit of the spec can send; nothing is claimed of what it does. -/

namespace Sys2Proof

/-- An aligned access of 1, 2, 4 or 8 bytes (R197, R464). -/
def wfAccess (a size : Nat) : Bool := (size == 1 || size == 2 || size == 4 || size == 8) && a % size == 0

/-- Data of one write: 1 to 64 bytes within one 64-byte line (R301, R344). -/
def fitsLine (o : Nat) (data : List Byte) : Bool := decide (0 < data.length) && decide (o % 64 + data.length ≤ 64)

/-- A unit of a spot test has a KIND from 1 to 12 (R432). -/
def wfUnit (u : SpotUnit) : Bool := decide (1 ≤ u.kind.toNat) && decide (u.kind.toNat ≤ 12)

/-- A partition descriptor carries a SHA-384 digest of 48 bytes (R418). -/
def wfDesc (d : PartDesc) : Bool := d.imgdig.length == 48

/-- The boot descriptors of a configuration record are descriptors, and its rate is one of the monitor's (R385, R418, R461). -/
def wfRecord (r : OpRecord) : Bool :=
  r.boot.all wfDesc && [115200, 230400, 460800, 921600, 1500000, 3000000].contains r.baud

/-- What a management message of the manager may hold (R345, R418). -/
def wfMgmt : MgmtBody → Bool
  | .partition d => wfDesc d
  | .member .. | .route .. | .group .. | .partitionReset .. | .partitionDestroy .. | .deviceReset | .heartbeat
  | .takeover .. | .fenced .. | .curfewed | .repaired | .other => true

/-- Whether a command is well formed. -/
def Instr.wf : Instr → Bool
  | .nop .. | .lit8 .. | .lit16 .. | .lit64 .. | .dup .. | .drop .. | .swap .. | .over .. | .rot .. | .nip ..
  | .tuck .. | .pick .. | .put .. | .dropn .. | .tor .. | .fromr .. | .rcopy .. | .add .. | .sub .. | .and ..
  | .or .. | .xor .. | .not .. | .neg .. | .addi .. | .shl .. | .shr .. | .sar .. | .rol .. | .shli ..
  | .shri .. | .sari .. | .min .. | .max .. | .minu .. | .maxu .. | .clz .. | .ctz .. | .popc .. | .sext ..
  | .zext .. | .sel .. | .eq .. | .ne .. | .lt .. | .ltu .. | .le .. | .leu .. | .zeq .. | .zlt .. | .mul ..
  | .mulh .. | .mulhu .. | .div .. | .divu .. | .rem .. | .remu .. | .ldb .. | .ldbu .. | .ldh .. | .ldhu ..
  | .ldw .. | .ldwu .. | .ldd .. | .stb .. | .sth .. | .stw .. | .std .. | .gld .. | .glda .. | .gtake ..
  | .gst .. | .gldb .. | .gfill .. | .aadd .. | .acas .. | .mcmp .. | .mcnt .. | .mrcnt .. | .mrcntm ..
  | .waitm .. | .rel .. | .acq .. | .fenceg .. | .cinv .. | .icinv .. | .br .. | .bz .. | .bnz .. | .call ..
  | .jmp .. | .calli .. | .ret .. | .loop .. | .sys .. | .brk .. | .eret .. | .setm .. | .hold .. | .crd ..
  | .cwr .. | .annexSink .. | .annexUnary .. | .annexBinary .. | .annexTernary .. | .resultLands ..
  | .fetchGroupArrives .. | .impreciseExceptionEntry .. | .interruptEntry .. | .timerMatch .. | .holdExpiry ..
  | .waitTimeout .. | .loadValueArrives .. | .lineFillArrives .. | .mbDrainTimer .. | .mbEntrySent ..
  | .writeAckArrives .. | .globalReadAtHome .. | .globalWriteAtHome .. | .operationAtHome .. | .watchPlaced ..
  | .watchReplyArrives .. | .watchReread .. | .rangeCountAtHome .. | .rangeCountArrives ..
  | .gldbLineArrives .. | .opBufferWriteback .. | .tlbMissWalk .. | .walkComplete .. | .xlinvAll ..
  | .xlinvVa .. | .xlinvComplete .. | .vld .. | .vst .. | .vgather .. | .vscatter .. | .vscatterWrite ..
  | .vdup .. | .vdrop .. | .vswap .. | .vover .. | .vrot .. | .vnip .. | .vsplat .. | .vpull .. | .vins ..
  | .vadd .. | .vsub .. | .vmul .. | .vfma .. | .vminmax .. | .vcmp .. | .vsel .. | .vlogic .. | .vshift ..
  | .vcvt .. | .vred .. | .vshuf .. | .vslide .. | .vunary .. | .vcopy .. | .vfill .. | .vstat .. | .vdot4 ..
  | .vdiv .. | .tcfg .. | .tcfgr .. | .tload .. | .tstore .. | .tmma .. | .tpull .. | .tsta .. | .tlda ..
  | .tstat .. | .tvec .. | .tmmaStart .. | .tmmaFinish .. | .tloadRowArrives .. | .sgo .. | .sstat ..
  | .sctr .. | .sctrclr .. | .scancel .. | .stagCommandStart .. | .stagPassBoundary .. | .stag16bitOverflow ..
  | .stagOutputTileDone .. | .stagCommandComplete .. | .stagDataError .. | .stagPreempt .. | .stagResume ..
  | .dmago .. | .waitd .. | .dmastop .. | .dmastat .. | .dmaack .. | .dmactr .. | .dmactrclr ..
  | .descriptorStart .. | .transferIssue .. | .transferComplete .. | .descriptorComplete ..
  | .ringConsReread .. | .send .. | .sendt .. | .sendc .. | .recv .. | .select .. | .qopen .. | .qclose ..
  | .qstat .. | .qimask .. | .messageArrives .. | .messageAnswerArrives .. | .sendResend ..
  | .reservationLapse .. | .tadd .. | .tsub .. | .tread .. | .tevts .. | .waitt .. | .tallyCycle ..
  | .tallyWatchRetry .. | .waittReplyArrives .. | .gridlockFire .. | .linkCrcResend .. | .reductionCombine ..
  | .reductionLand .. | .rtexpWrite .. | .nelemWrite .. | .hnew .. | .hset .. | .hget .. | .hcellAppend ..
  | .hcellEntry .. | .hcellRelease .. | .hdone .. | .hbeat .. | .hfree .. | .hadopt .. | .hiveEnable ..
  | .hiveReady .. | .cellMoveComplete .. | .intakeWatchFires .. | .intakeNew .. | .intakeReady ..
  | .intakePause .. | .intakeFinish .. | .intakeFree .. | .intakeDeadline .. | .intakeConsAdvance ..
  | .mirrorHeaderWrite .. | .portTrainingDone .. | .qualifyCountEnd .. | .errorCountEnd .. | .beat .. | .nak ..
  | .retrain .. | .hello .. | .reply .. | .fin .. | .beatSend .. | .creditSend .. | .beatTimeout .. | .admitPort ..
  | .violationRateFence .. | .switchForward .. | .fabricRead .. | .fabricWrite .. | .fabricAadd ..
  | .fabricAcas .. | .fabricMcmp .. | .fabricMcnt .. | .fabricWatch .. | .fabricCount .. | .fabricPartial ..
  | .fabricReturn .. | .fabricUnwatch .. | .fabricData .. | .fabricAck .. | .fabricOld .. | .fabricFired ..
  | .fabricTotal .. | .transactionTimeout .. | .mgmtHeartbeat | .managerTakeover
  | .cxlIoRead .. | .cxlIoWrite .. | .hmsi .. | .vectorUnmask .. | .identifyMemoryDevice | .getSupportedLogs
  | .getLog | .getHealthInfo | .getEventRecords | .clearEventRecords | .unsupportedMailbox .. | .getVersion
  | .getCapabilities | .negotiateAlgorithms | .getDigests | .getCertificate .. | .pqmode .. | .getPqsig
  | .kxInit .. | .kxFin .. | .ucieModuleFail .. | .powerGood | .shutdown .. | .supplyExcursion .. | .resetPin
  | .phaseClocksEnd | .phaseMemoryTrainingEnd .. | .phaseTestEnd .. | .phaseLinksEnd .. | .phaseComputeEnd ..
  | .partitionDestroy .. | .timeSliceSwitch .. | .treset .. | .breset .. | .preset .. | .resetRepliesDrained ..
  | .floorPlanWriteDone | .controlEntryRewrite .. | .permitGrant .. | .measureCheck .. | .squareHeartbeat ..
  | .quorumLoss | .squareTakeover | .thermalSample .. | .powerSample .. | .opStepEnd .. | .opStepUpTimer ..
  | .qclkReq .. | .blockGate .. | .blockWake .. | .tpark .. | .tilePark .. | .tileWake .. | .pllOff ..
  | .pllLock .. | .selfRefreshEntry .. | .patrolBurst .. | .sweeperAccess .. | .sweeperForcedAccess ..
  | .hbmPatrol .. | .ddr5Patrol .. | .coolantSample .. | .moduleInsertion .. | .moduleRemoval .. | .info
  | .floor .. | .log .. | .links | .temps | .permits .. | .queue .. | .tally .. | .tallyClr .. | .unlock
  | .unlockToken .. | .recover .. | .recoverReset | .unknownCommand | .overlongLine | .abortCharacter
  | .fruRead .. | .smbBootstat | .smbUid | .smbTemperatures | .smbInputPower | .smbCoolant | .readVin
  | .readIin | .readPin | .readTemperature1 | .statusWord | .pmbusWrite .. | .trctlWrite .. | .resetPinRises
  | .traceIssueSample .. | .configurationSpaceWrite .. | .hbmRefreshRecalibration ..
  | .memoryInterfaceRetrain .. | .noSignalTimeout .. | .edgeDieThermalLimit .. => true
  | .release _ pc => pc.toNat % 2 == 0
  | .multicastWrite _ _ _ o data => fitsLine o.toNat data
  | .reductionInjectWrite _ _ _ o data => fitsLine o.toNat data
  | .dataFlit _ f => f.payload.length == 242
  | .credit _ freed => freed.length == 18
  | .mgmt _ _ m => wfMgmt m
  | .managerExclude x => x.news.all fun e => isEntry e.2
  | .cxlMemRead dpa => dpa.toNat % 64 == 0
  | .cxlMemWrite dpa _ _ => dpa.toNat % 64 == 0
  | .challenge _ nonce => nonce.length == 32
  | .getMeasurements _ nonce => nonce.length == 32
  | .phaseSquareEnd f => ([f.cfgA, f.cfgB].filterMap id).all fun c => wfRecord c.body
  | .partitionDescriptor d img _ => wfDesc d && (d.imgsrc || img.length == d.imglen.toNat)
  | .spotTestStart u => wfUnit u
  | .spotTestEnd u _ => wfUnit u
  | .peek a size => wfAccess a.toNat size
  | .poke a size _ => wfAccess a.toNat size
  | .dump a len => a.toNat % 16 == 0 && len % 16 == 0 && decide (len ≤ 0x1000000)
  | .spot u => wfUnit u
  | .dataLine bytes _ _ => decide (bytes.length ≤ 32)
  | .registerWrite _ a size _ => wfAccess a.toNat size
  | .unassignedOpcode _ p => Machine.unassigned (p.extractLsb' 8 8) (p.extractLsb' 0 8)

end Sys2Proof
end

