-- ==== Sys2Proof/Safety.lean ====
section
/-! DEFINITION. The terms in which the statements speak: the canonical form of the device's memory, when a tile's
next instruction is performed, and what an instruction leaves. No meaning ends in a fault or a refusal, so a run is
safe in every state. -/

namespace Sys2Proof.Machine

/-- The memory of the device, and the memory saved for each partition that does not run (R423), are in canonical form,
so that equal memories are equal data. -/
def State.memOk (s : State) : Prop :=
  Memory.wf s.mem = true ∧ ∀ e ∈ s.parts, Memory.wf e.2.savedMem = true

/-! ## When a tile's instruction is performed -/

/-- The state in which a tile's next instruction, of so many parcels, is judged: the results that are due have landed
(R26), a window that has run its cycles is closed (R83), and a delay-slot instruction has shown its length (R35). -/
def State.boundary (s : State) (t parcels : Nat) : State :=
  ((s.landDue t).checkHold t).modTile t fun x => x.resolveSlot parcels

/-- The tile takes an instruction now: it runs and holds issue for nothing, nothing freezes it, no register of it is broken, and
neither an imprecise exception nor an interrupt is to be taken first (R21, R29, R65, R66, R70, R429, R432, R456). -/
def State.takes (s : State) (t : Nat) : Prop :=
  (s.tile t).canIssue = true ∧ s.unfrozen t = true ∧ (s.tile t).broken = false ∧
    ((s.landDue t).checkHold t).entersFirst t = false

/-- The tile takes an instruction of this form, and the checks of its parcel, place and depths pass (R70). -/
def State.issues (s : State) (t : Nat) (f : Form) : Prop :=
  s.takes t ∧ ((s.boundary t f.parcels).tile t).check f = none

/-! ## What a log is left with -/

/-- A violation log after one violation more: it has recorded it, or, where it recorded another within 15 ns, it has
recorded it or counted it as lost (R405, R407). -/
def VioLog.noted (l before : VioLog) (now : Word) : Prop :=
  (l.head = before.head + 1 ∧ l.lost = before.lost) ∨
    (before.soon now = true ∧ l.head = before.head ∧ l.entries = before.entries ∧ l.lost = satInc before.lost)

/-- An error log after one error more: recorded, or lost at the rate limit of R407 (R431). -/
def ErrLog.noted (l before : ErrLog) (now : Word) : Prop :=
  (l.head = before.head + 1 ∧ l.lost = before.lost) ∨
    (before.soon now = true ∧ l.head = before.head ∧ l.entries = before.entries ∧ l.lost = satInc before.lost)

/-! ## What an instruction leaves -/

/-- Where the core goes on after an instruction that ends at its address, so many bytes long: at a resolved branch's
target after its delay slot, at the start of a loop body that runs again, or at the next parcel (R35, R38). -/
def Tile.nextPc (x : Tile) (len : Nat) : BitVec 56 :=
  match x.core.branch with
  | some b => b.target
  | none => ((x.ctl.loopBack x.core.pc.toNat len).2).getD (x.core.pc + BitVec.ofNat 56 len)

/-- The loop registers after an instruction that goes on in sequence: its loop-back decisions, but not after a delay slot
(R37, R38). -/
def Tile.nextCtl (x : Tile) (len : Nat) : Ctl :=
  match x.core.branch with
  | some _ => x.ctl
  | none => (x.ctl.loopBack x.core.pc.toNat len).1

/-- Where the core goes on: in sequence, in the delay slot of a branch that has resolved, or at an address. -/
def Tile.goesOn (x : Tile) (len : Nat) (flow : Flow) : BitVec 56 :=
  match flow with
  | .seq => x.nextPc len
  | .branch _ => x.core.pc + 2
  | .jump a => a

/-- The control registers as the instruction leaves them, but for writes that fall due. -/
def Tile.goesCtl (x : Tile) (len : Nat) (flow : Flow) : Ctl :=
  match flow with
  | .seq => x.nextCtl len
  | _ => x.ctl

/-- The branch whose delay slot comes next. -/
def Tile.goesBranch (x : Tile) (flow : Flow) : Option Branch :=
  match flow with
  | .seq => none
  | .branch b => some b
  | .jump _ => x.core.branch

/-- The control-register writes under way, one instruction nearer (R52). -/
def Tile.nearerWrites (x : Tile) : List PendingCwr := x.core.cwrs.map fun (w : PendingCwr) => { w with rem := w.rem - 1 }

/-- No result in flight is one of a VSCATTER, which lands in memory (R125). -/
def Tile.noScatter (x : Tile) : Bool := x.core.flight.all fun f => match f.dest with | .scatter _ => false | _ => true

/-- No result in flight lands in data slot i. -/
def Tile.slotFree (x : Tile) (i : Nat) : Bool :=
  x.core.flight.all fun f => match f.dest with | .data j _ => j != i | _ => true

/-- No result in flight lands in vector slot i. -/
def Tile.vslotFree (x : Tile) (i : Nat) : Bool :=
  x.core.flight.all fun f => match f.dest with | .vec j _ => j != i | _ => true

/-- What a tile keeps besides its core, its vector slots and its counters of events: everything of its memory access, its
matrix unit, its queues and its registers in the control space. -/
def Tile.sameUnits (x y : Tile) : Prop :=
  y.tmu = x.tmu ∧ y.queues = x.queues ∧ y.qimask = x.qimask ∧ y.tevts = x.tevts ∧ y.part = x.part ∧ y.park = x.park ∧
    y.parked = x.parked ∧ y.wake = x.wake ∧ y.lslot = x.lslot ∧ y.pcsel = x.pcsel ∧ y.resetting = x.resetting ∧ y.came = x.came ∧ y.broken = x.broken ∧
    y.gmem.slots = x.gmem.slots ∧ y.gmem.tlb = x.gmem.tlb ∧ y.gmem.dcache = x.gmem.dcache ∧ y.gmem.icache = x.gmem.icache

/-- What an instruction gives: the data entries that it pops and its data results, the vector entries that it pops and its
vector results, its ready distance, the flags that it sets and the exception that follows it (R18, R26, R57, R65, R114). -/
structure Gives where
  pops  : Nat := 0
  vals  : List Word := []
  vpops : Nat := 0
  vvals : List Line := []
  d     : Nat := 0
  flags : BitVec 7 := 0
  exc   : Option Byte := none

/-- First data slot of an instruction's results. -/
def Gives.base (r : Gives) (x : Tile) : Nat := x.core.d - r.pops

/-- First vector slot of an instruction's results. -/
def Gives.vbase (r : Gives) (x : Tile) : Nat := x.vec.vd - r.vpops

/-- The results of an instruction stand in their slots as it retires: at distance 0, and under PRECISE on a tile with no
result in flight (R26, R30). -/
def Gives.atOnce (r : Gives) (x : Tile) : Prop :=
  (x.precise = false ∧ r.d = 0) ∨ (x.precise = true ∧ x.core.flight = [])

/-- From state s to s' a tile has run an instruction of form f that gives what `r` says and then goes on as `flow` says, and
that does nothing else (R18, R26, R30, R35, R38, R51, R52): the results stand in their slots where they land at once, or fly;
every other slot and the return stack stay, but for slots in which an older result lands; results in flight, register writes
under way and the mode shadow come one instruction nearer; the other units of the tile and, unless a VSCATTER lands,
everything outside the tile stay. -/
structure Ran (s s' : State) (t : Nat) (f : Form) (flow : Flow) (r : Gives) : Prop where
  depth : (s'.tile t).core.d = r.base (s.tile t) + r.vals.length
  landed : ∀ i (h : i < r.vals.length), r.base (s.tile t) + i < 32 → r.atOnce (s.tile t) →
    nth (s'.tile t).core.ds (r.base (s.tile t) + i) 0 = r.vals[i]
  flying : ∀ i (h : i < r.vals.length), (s.tile t).precise = false → r.d ≠ 0 →
    ∃ e ∈ (s'.tile t).core.flight, e.dest = .data (r.base (s.tile t) + i) r.vals[i] ∧ e.rem = r.d
  kept : ∀ i, i < r.base (s.tile t) ∨ r.base (s.tile t) + r.vals.length ≤ i → (s.tile t).slotFree i = true →
    nth (s'.tile t).core.ds i 0 = nth (s.tile t).core.ds i 0
  rstack : (s'.tile t).core.rs = (s.tile t).core.rs ∧ (s'.tile t).core.rd = (s.tile t).core.rd
  vdepth : (s'.tile t).vec.vd = r.vbase (s.tile t) + r.vvals.length
  vlanded : ∀ i (h : i < r.vvals.length), r.vbase (s.tile t) + i < 8 → r.atOnce (s.tile t) →
    nth (s'.tile t).vec.vs (r.vbase (s.tile t) + i) 0 = r.vvals[i]
  vflying : ∀ i (h : i < r.vvals.length), (s.tile t).precise = false → r.d ≠ 0 →
    ∃ e ∈ (s'.tile t).core.flight, e.dest = .vec (r.vbase (s.tile t) + i) r.vvals[i] ∧ e.rem = r.d
  vkept : ∀ i, i < r.vbase (s.tile t) ∨ r.vbase (s.tile t) + r.vvals.length ≤ i → (s.tile t).vslotFree i = true →
    nth (s'.tile t).vec.vs i 0 = nth (s.tile t).vec.vs i 0
  sticky : r.atOnce (s.tile t) → (s'.tile t).ctl.fcsr ||| r.flags.setWidth 64 = (s'.tile t).ctl.fcsr
  raising : (s.tile t).precise = false → r.d ≠ 0 → (r.flags ≠ 0 ∨ r.exc ≠ none) →
    ∃ e ∈ (s'.tile t).core.flight, e.flags = r.flags ∧ e.exc = r.exc ∧ e.rem = r.d
  nearer : (s.tile t).precise = false → ∀ e ∈ (s.tile t).core.flight, 1 < e.rem →
    { e with rem := e.rem - 1 } ∈ (s'.tile t).core.flight
  pc : (s'.tile t).core.pc = (s.tile t).goesOn (2 * f.parcels) flow
  branch : (s'.tile t).core.branch = (s.tile t).goesBranch flow
  run : (s'.tile t).core.run = (s.tile t).core.run ∧ (s'.tile t).core.hold = (s.tile t).core.hold ∧
    (s'.tile t).core.doing = .issue
  cycle : (s.tile t).precise = false ∨ (s.tile t).core.flight = [] ∧ r.d = 0 →
    (s'.tile t).core.cycle = (s.tile t).core.cycle + BitVec.ofNat 64 (1 + Config.freeze t (s.tile t).core.issued)
  shadow : (s'.tile t).core.shLeft = (if f.noShadow then (s.tile t).core.shLeft else (s.tile t).core.shLeft - 1) ∧
    (s'.tile t).core.shOld = (s.tile t).core.shOld ∧ (s'.tile t).core.shNew = (s.tile t).core.shNew
  writes : (s'.tile t).core.cwrs = (s.tile t).nearerWrites.filter fun w => w.rem ≠ 0
  control : (s.tile t).core.flight = [] → r.flags = 0 →
    (s'.tile t).ctl = ((s.tile t).nearerWrites.filter fun w => w.rem = 0).foldl (fun c w => ctlWrite c w.index w.value)
      ((s.tile t).goesCtl (2 * f.parcels) flow)
  port : (s.tile t).precise = false ∨ (s.tile t).core.flight = [] ∧ r.d = 0 →
    (s'.tile t).vec.port = (s.tile t).vec.port - 1
  units : (s.tile t).sameUnits (s'.tile t)
  outside : (s.tile t).noScatter = true → s' = s.setTile t (s'.tile t)

/-- A command is an instruction of a form: where the tile takes it and its checks pass, it completes, and leaves what an
instruction leaves that gives `r` after the effect that makes `v` of the boundary state, and goes on in sequence. -/
def State.runs (s : State) (t : Nat) (c : Instr) (f : Form) (v : State) (r : Gives) : Prop :=
  s.issues t f → ∃ s', exec c s = .next s' ∧ Ran v s' t f .seq r

/-- The same for an instruction that goes on as `flow` says. -/
def State.goes (s : State) (t : Nat) (c : Instr) (f : Form) (v : State) (flow : Flow) (r : Gives) : Prop :=
  s.issues t f → ∃ s', exec c s = .next s' ∧ Ran v s' t f flow r

/-- The same for one data result, of which a relation says what it is. -/
def State.results (s : State) (t : Nat) (c : Instr) (f : Form) (pops d : Nat) (is : Word → Prop) : Prop :=
  s.issues t f → ∃ s' w, exec c s = .next s' ∧ is w ∧ Ran (s.boundary t f.parcels) s' t f .seq { pops, vals := [w], d }

/-- The same, where the effect makes some state of which a relation says what it is. -/
def State.effects (s : State) (t : Nat) (c : Instr) (f : Form) (r : Gives) (is : State → Prop) : Prop :=
  s.issues t f → ∃ s' v, exec c s = .next s' ∧ Ran v s' t f .seq r ∧ is v

/-- A command that takes a precise exception where the tile takes it and its checks pass (R71), after the effect that makes
`v` of the boundary state. -/
def State.trapsAt (s : State) (t : Nat) (c : Instr) (f : Form) (v : State) (code : Byte) (value : Word) : Prop :=
  s.issues t f → exec c s = .next (v.enter t code false false 0 value)

/-- The same with no effect before the exception. -/
def State.traps (s : State) (t : Nat) (c : Instr) (f : Form) (code : Byte) (value : Word) : Prop :=
  s.trapsAt t c f (s.boundary t f.parcels) code value

/-! ## Global memory access of a tile -/

/-- The tile's TLB maps a virtual address for an access of a kind, by an entry that permits it (R206, R209, R210). -/
def Tile.mapped (x : Tile) (va : Word) (k : Kind) (e : TlbEntry) : Prop :=
  va.toNat < 2 ^ 56 ∧ x.tlbFind va.toNat = some e ∧ protFault e k x.user = none

/-- Between two states nothing but tile t's global access side, the requests on the roads, and logs and counters has
changed: memory, every other tile, and the rest of tile t stay. -/
def State.onlyAccess (s v : State) (t : Nat) : Prop :=
  v.mem = s.mem ∧ v.pending = s.pending ∧ (∀ k, k ≠ t → v.tile k = s.tile k) ∧ (v.tile t).core = (s.tile t).core ∧
    (v.tile t).ctl = (s.tile t).ctl ∧ (v.tile t).vec = (s.tile t).vec ∧ (v.tile t).tmu = (s.tile t).tmu ∧
    (v.tile t).queues = (s.tile t).queues

/-- The tile holds an instruction that it has not completed: its address and stacks stay, and it does what is named
(R46, R49, R211). -/
def State.stalls (s s' : State) (t : Nat) (d : Doing) : Prop :=
  (s'.tile t).core = { (s.tile t).core with doing := d } ∧ s'.mem = s.mem ∧ (s'.tile t).ctl = (s.tile t).ctl ∧
    (s'.tile t).vec = (s.tile t).vec ∧ (∀ k, k ≠ t → s'.tile k = s.tile k)

/-- No word of a store holds an error, and no line stands under a key that it was not written with (R182, R399). -/
def State.clean (s : State) : Prop := s.marks = [] ∧ s.rekeyed = []

/-- A request may be performed at its home on this device: it has been sent, the ordering before it holds, its epoch is not
old, and the home serves its partition at every byte from an address on (R224, R226, R231 to R236, R311, R405). -/
def State.homed (s : State) (id : Nat) (r : Req) (a n : Nat) : Prop :=
  s.req? id = some r ∧ r.st = .sent ∧ s.mayPerform r = true ∧ s.staleReq r = false ∧ s.isLocal r.addr = true ∧
    isMemory a = true ∧ ∀ i < n, s.access r.who (a + i) = .serve

/-- A request has been answered with data, of which no word was uncorrectable. -/
def State.answered (s : State) (id : Nat) (data : Line) : Prop := ∃ r, s.req? id = some r ∧ r.st = .done data false

end Sys2Proof.Machine
end

