-- ==== Sys2Proof/Certificates/Slice0/Obligations.lean ====
section
/-! DEFINITION. The statements for the provers. -/

open Sys2Proof Sys2Proof.Machine

/-! ## The machine -/

/-- A step takes the command at the front of the queue and is its effect on the state with the queue's rest. On an empty queue the
always-on clock ticks: 20 ns of device time pass, which in one tick of 50,000 may be 1 ns more or less toward the manager's time,
and each quarter's clock counts its cycles; where no tile holds a long instruction, every core and all of memory stay (R2, R49,
R356, R447; log entries 2, 66 and 133). -/
def Obligations.StepRunsTheFrontCommand : Prop :=
  (∀ (c : Instr) (rest : List Instr) (s : State),
    step { s with pending := c :: rest } = exec c { s with pending := rest }) ∧
  ∀ s : State, s.pending = [] → ∃ (s' : State) (d : Nat), step s = .next s' ∧ s'.pending = [] ∧
    s'.time = s.time + BitVec.ofNat 64 d ∧ s'.ticks = s.ticks + 1 ∧ (d = 20 ∨ (s.ticks + 1) % 50000 = 0 ∧
      (d = 21 ∧ 0 < s.dist.behind ∧ s'.dist.behind = s.dist.behind - 1 ∨
        d = 19 ∧ s.dist.behind < 0 ∧ s'.dist.behind = s.dist.behind + 1)) ∧
    (∀ q < 20, (s'.quarter q).cycles = (s.quarter q).cycles + (s.clk q).tickCycles) ∧
    ((∀ t, (s.tile t).longIn = none) →
      s'.mem = s.mem ∧ ∀ t, (s'.tile t).core = (s.tile t).core ∧ (s'.tile t).ctl = (s.tile t).ctl)

/-! ## The scalar instructions of the stacks and the integers (R18, R31, R32) -/

/-- The stack instructions (R31): what each pops and pushes, in terms of the entries T, N and those below. TOR and FROMR move an
entry between the stacks. PUT n pops x and writes it to entry n below the new T; every other entry, the return stack and the
vector stack stay (R31). -/
def Obligations.StackInstructionsMoveEntries : Prop :=
  (∀ (t : TileNo) (b : Byte) (data : Parcel) (wide : Word) (s : State),
    let u := s.boundary t 1
    let y := (u.tile t).core
    let x (n : Nat) : Word := y.entry n
    let top : Word := nth y.rs (y.rd - 1) 0
    s.runs t (.nop t b) { opc := 0x00, opb := b, legal := opNone b } u {} ∧
    s.runs t (.lit8 t b) { opc := 0x01, opb := b, dout := 1 } u { vals := [b.signExtend 64] } ∧
    s.runs t (.lit16 t b data) { opc := 0x02, opb := b, parcels := 2, legal := opLow 2 b, dout := 1 } (s.boundary t 2)
      { vals := [data.signExtend 64 * BitVec.ofNat 64 (2 ^ (16 * b.toNat))] } ∧
    s.runs t (.lit64 t b wide) { opc := 0x03, opb := b, parcels := 5, legal := opNone b, dout := 1 } (s.boundary t 5)
      { vals := [wide] } ∧
    s.runs t (.dup t b) { opc := 0x04, opb := b, legal := opNone b, din := 1, dout := 2 } u { vals := [x 0] } ∧
    s.runs t (.drop t b) { opc := 0x05, opb := b, legal := opNone b, din := 1 } u { pops := 1 } ∧
    s.runs t (.swap t b) { opc := 0x06, opb := b, legal := opNone b, din := 2, dout := 2 } u
      { pops := 2, vals := [x 0, x 1] } ∧
    s.runs t (.over t b) { opc := 0x07, opb := b, legal := opNone b, din := 2, dout := 3 } u { vals := [x 1] } ∧
    s.runs t (.rot t b) { opc := 0x08, opb := b, legal := opNone b, din := 3, dout := 3 } u
      { pops := 3, vals := [x 1, x 0, x 2] } ∧
    s.runs t (.nip t b) { opc := 0x09, opb := b, legal := opNone b, din := 2, dout := 1 } u { pops := 2, vals := [x 0] } ∧
    s.runs t (.tuck t b) { opc := 0x0A, opb := b, legal := opNone b, din := 2, dout := 3 } u
      { pops := 2, vals := [x 0, x 1, x 0] } ∧
    s.runs t (.pick t b) { opc := 0x0B, opb := b, legal := opRange 0 30 b, need := b.toNat + 1, dout := 1 } u
      { vals := [x b.toNat] } ∧
    s.runs t (.dropn t b) { opc := 0x0D, opb := b, legal := opRange 1 32 b, din := b.toNat } u { pops := b.toNat } ∧
    s.runs t (.tor t b) { opc := 0x0E, opb := b, legal := opNone b, din := 1, rout := 1 }
      (u.modTile t fun z => { z with core := { z.core with rs := z.core.rs.setIfInBounds z.core.rd (x 0), rd := z.core.rd + 1 } })
      { pops := 1 } ∧
    s.runs t (.fromr t b) { opc := 0x0F, opb := b, legal := opNone b, dout := 1, rin := 1 }
      (u.modTile t fun z => { z with core := { z.core with rd := z.core.rd - 1 } }) { vals := [top] } ∧
    s.runs t (.rcopy t b) { opc := 0x10, opb := b, legal := opNone b, dout := 1, rin := 1, rout := 1 } u { vals := [top] }) ∧
  (∀ (t : TileNo) (b : Byte) (s : State),
    s.issues t { opc := 0x0C, opb := b, legal := opRange 0 30 b, need := b.toNat + 2, din := 1 } →
    let u := s.boundary t 1
    let x := u.tile t
    ∃ s', exec (.put t b) s = .next s' ∧
      (s'.tile t).core.d = x.core.d - 1 ∧
      (x.core.d ≤ 32 → x.precise = false ∨ x.core.flight = [] → ((s'.tile t).core.entry b.toNat) = x.core.entry 0) ∧
      (∀ i, i ≠ x.core.d - 2 - b.toNat → x.slotFree i = true → nth (s'.tile t).core.ds i 0 = nth x.core.ds i 0) ∧
      (s'.tile t).core.rs = x.core.rs ∧ (s'.tile t).core.rd = x.core.rd ∧ (s'.tile t).vec.vd = x.vec.vd ∧
      (∀ i, x.vslotFree i = true → nth (s'.tile t).vec.vs i 0 = nth x.vec.vs i 0) ∧
      (s'.tile t).core.pc = x.nextPc 2 ∧ x.sameUnits (s'.tile t) ∧
      (x.noScatter = true → s' = u.setTile t (s'.tile t)))

/-- The integer instructions ( x y -- z ) (R31, R32): the value of z as an unsigned or signed number, or bit by bit; the
multiplications at ready distance 2. The integer instructions ( x -- z ), with and without an immediate, and SEL (R31, R32).
The divisions (R25, R31, R32): the truncated quotient and its remainder at distance 18; a zero divisor gives all ones, or the
dividend for the remainders, sets FCSR.IDZ and raises divide by zero, precisely under PRECISE. -/
def Obligations.ScalarIntegerInstructions : Prop :=
  (∀ (t : TileNo) (b : Byte) (s : State),
    let y := ((s.boundary t 1).tile t).core.entry 0
    let x := ((s.boundary t 1).tile t).core.entry 1
    let n := y.toNat % 64
    let op (c : TileNo → Byte → Instr) (opc : Byte) (d : Nat) (is : Word → Prop) : Prop :=
      s.results t (c t b) { opc, opb := b, legal := opNone b, din := 2, dout := 1 } 2 d is
    let truth (p : Prop) (z : Word) : Prop := (p → z = 1) ∧ (¬p → z = 0)
    op .add 0x20 0 (fun z => z.toNat = (x.toNat + y.toNat) % 2 ^ 64) ∧
    op .sub 0x21 0 (fun z => z.toNat = (x.toNat + 2 ^ 64 - y.toNat) % 2 ^ 64) ∧
    op .and 0x22 0 (fun z => ∀ i, z.getLsbD i = (x.getLsbD i && y.getLsbD i)) ∧
    op .or 0x23 0 (fun z => ∀ i, z.getLsbD i = (x.getLsbD i || y.getLsbD i)) ∧
    op .xor 0x24 0 (fun z => ∀ i, z.getLsbD i = (x.getLsbD i ^^ y.getLsbD i)) ∧
    op .shl 0x28 0 (fun z => z.toNat = x.toNat * 2 ^ n % 2 ^ 64) ∧
    op .shr 0x29 0 (fun z => z.toNat = x.toNat / 2 ^ n) ∧
    op .sar 0x2A 0 (fun z => z.toInt = x.toInt / 2 ^ n) ∧
    op .rol 0x2B 0 (fun z => ∀ i < 64, z.getLsbD ((i + n) % 64) = x.getLsbD i) ∧
    op .min 0x2F 0 (fun z => (z = x ∨ z = y) ∧ z.toInt ≤ x.toInt ∧ z.toInt ≤ y.toInt) ∧
    op .max 0x30 0 (fun z => (z = x ∨ z = y) ∧ x.toInt ≤ z.toInt ∧ y.toInt ≤ z.toInt) ∧
    op .minu 0x31 0 (fun z => (z = x ∨ z = y) ∧ z.toNat ≤ x.toNat ∧ z.toNat ≤ y.toNat) ∧
    op .maxu 0x32 0 (fun z => (z = x ∨ z = y) ∧ x.toNat ≤ z.toNat ∧ y.toNat ≤ z.toNat) ∧
    op .eq 0x40 0 (truth (x = y)) ∧
    op .ne 0x41 0 (truth (x ≠ y)) ∧
    op .lt 0x42 0 (truth (x.toInt < y.toInt)) ∧
    op .ltu 0x43 0 (truth (x.toNat < y.toNat)) ∧
    op .le 0x44 0 (truth (x.toInt ≤ y.toInt)) ∧
    op .leu 0x45 0 (truth (x.toNat ≤ y.toNat)) ∧
    op .mul 0x48 2 (fun z => z.toNat = x.toNat * y.toNat % 2 ^ 64) ∧
    op .mulh 0x49 2 (fun z => z.toInt = x.toInt * y.toInt / 2 ^ 64) ∧
    op .mulhu 0x4A 2 (fun z => z.toNat = x.toNat * y.toNat / 2 ^ 64)) ∧
  (∀ (t : TileNo) (b : Byte) (s : State),
    let x := ((s.boundary t 1).tile t).core.entry 0
    let n := b.toNat
    let op (c : TileNo → Byte → Instr) (opc : Byte) (legal : Bool) (is : Word → Prop) : Prop :=
      s.results t (c t b) { opc, opb := b, legal, din := 1, dout := 1 } 1 0 is
    op .not 0x25 (opNone b) (fun z => ∀ i < 64, z.getLsbD i = !x.getLsbD i) ∧
    op .neg 0x26 (opNone b) (fun z => z.toNat = (2 ^ 64 - x.toNat) % 2 ^ 64) ∧
    op .addi 0x27 true (fun z => z = BitVec.ofInt 64 (x.toInt + b.toInt)) ∧
    op .shli 0x2C (opLow 6 b) (fun z => z.toNat = x.toNat * 2 ^ n % 2 ^ 64) ∧
    op .shri 0x2D (opLow 6 b) (fun z => z.toNat = x.toNat / 2 ^ n) ∧
    op .sari 0x2E (opLow 6 b) (fun z => z.toInt = x.toInt / 2 ^ n) ∧
    op .clz 0x33 (opNone b) (fun z => z.toNat ≤ 64 ∧ x.toNat < 2 ^ (64 - z.toNat) ∧
      (z.toNat < 64 → 2 ^ (63 - z.toNat) ≤ x.toNat)) ∧
    op .ctz 0x34 (opNone b) (fun z => z.toNat ≤ 64 ∧ (∀ i < z.toNat, x.getLsbD i = false) ∧
      (z.toNat < 64 → x.getLsbD z.toNat = true)) ∧
    op .popc 0x35 (opNone b) (fun z => z.toNat = ((List.range 64).filter fun i => x.getLsbD i).length) ∧
    op .sext 0x36 (opLow 6 b) (fun z => ∀ i < 64, z.getLsbD i = x.getLsbD (Nat.min i n)) ∧
    op .zext 0x37 (opLow 6 b) (fun z => ∀ i < 64, z.getLsbD i = (decide (i ≤ n) && x.getLsbD i)) ∧
    op .zeq 0x46 (opNone b) (fun z => (x = 0 → z = 1) ∧ (x ≠ 0 → z = 0)) ∧
    op .zlt 0x47 (opNone b) (fun z => (x.toInt < 0 → z = 1) ∧ (0 ≤ x.toInt → z = 0)) ∧
    s.results t (.sel t b) { opc := 0x38, opb := b, legal := opNone b, din := 3, dout := 1 } 3 0 (fun z =>
      (x ≠ 0 → z = ((s.boundary t 1).tile t).core.entry 2) ∧ (x = 0 → z = ((s.boundary t 1).tile t).core.entry 1))) ∧
  (∀ (t : TileNo) (b : Byte) (s : State),
    let u := s.boundary t 1
    let y := (u.tile t).core.entry 0
    let x := (u.tile t).core.entry 1
    let op (c : TileNo → Byte → Instr) (opc : Byte) (quotient : Word) (dz : Word) : Prop :=
      let f : Form := { opc, opb := b, legal := opNone b, din := 2, dout := 1 }
      (y ≠ 0 → s.runs t (c t b) f u { pops := 2, vals := [quotient], d := 18 }) ∧
      (y = 0 → (u.tile t).precise = false →
        s.runs t (c t b) f u { pops := 2, vals := [dz], d := 18, flags := 0x40, exc := some 0x20 }) ∧
      (y = 0 → (u.tile t).precise = true → s.traps t (c t b) f 0x20 ((u.tile t).core.pc.setWidth 64))
    op .div 0x4B (BitVec.ofInt 64 (x.toInt.tdiv y.toInt)) (BitVec.allOnes 64) ∧
    op .divu 0x4C (BitVec.ofNat 64 (x.toNat / y.toNat)) (BitVec.allOnes 64) ∧
    op .rem 0x4D (BitVec.ofInt 64 (x.toInt.tmod y.toInt)) x ∧
    op .remu 0x4E (BitVec.ofNat 64 (x.toNat % y.toNat)) x)

/-- The annex opcodes (R23, R24): they pop their operands, and those with a result push 0 at distance 3. -/
def Obligations.AnnexOpcodesPushZero : Prop :=
  ∀ (t : TileNo) (o : BitVec 2) (b : Byte) (s : State),
    let u := s.boundary t 1
    s.runs t (.annexSink t o b) { opc := 0xF0 + o.setWidth 8, opb := b, din := 1 } u { pops := 1, d := 3 } ∧
    s.runs t (.annexUnary t o b) { opc := 0xF4 + o.setWidth 8, opb := b, din := 1, dout := 1 } u
      { pops := 1, vals := [0], d := 3 } ∧
    s.runs t (.annexBinary t o b) { opc := 0xF8 + o.setWidth 8, opb := b, din := 2, dout := 1 } u
      { pops := 2, vals := [0], d := 3 } ∧
    s.runs t (.annexTernary t o b) { opc := 0xFC + o.setWidth 8, opb := b, din := 3 } u { pops := 3, d := 3 }

/-! ## Loads and stores of a tile's own memory (R33, R34) -/

/-- The local loads (R33, R67, R70): an offset past 256 KiB raises LOCAL_RANGE, else one that is not a multiple of the size raises
MISALIGN; else the value lands at distance 2, sign- or zero-extended. A word with an uncorrectable error is followed by
LOCAL_DATA_ERROR, precisely under PRECISE. No byte of memory changes. Where no store of the tile waits unsent in its merging
buffer, a local read gives the bytes of its tile memory, least significant first (R3, R33, R227). The local stores (R33, R34,
R70): the checks of the loads, then the low bytes of the value, little-endian, stand at the offset in the tile's memory as the
store issues; every byte outside them stays, unless lanes of a VSCATTER land before the store (R175). -/
def Obligations.LocalMemoryInstructions : Prop :=
  (∀ (t : TileNo) (b : Byte) (s : State),
    let u := s.boundary t 1
    let op (c : TileNo → Byte → Instr) (opc : Byte) (k : Nat) (is : List Byte → Word → Prop) : Prop :=
      let f : Form := { opc, opb := b, din := 1, dout := 1 }
      let off := (u.tile t).core.entry 0 + BitVec.ofInt 64 (b.toInt * 2 ^ k)
      let v := u.portMeet t off.toNat (2 ^ k)
      let bytes := u.portRead t off.toNat (2 ^ k)
      (0x40000 ≤ off.toNat → s.traps t (c t b) f 0x07 off) ∧
      (off.toNat < 0x40000 → off.toNat % 2 ^ k ≠ 0 → s.traps t (c t b) f 0x06 off) ∧
      (off.toNat < 0x40000 → off.toNat % 2 ^ k = 0 →
        v.mem = u.mem ∧
        (u.portBad t off.toNat (2 ^ k) = false →
          ∃ w, is bytes w ∧ s.runs t (c t b) f v { pops := 1, vals := [w], d := 2 }) ∧
        (u.portBad t off.toNat (2 ^ k) = true → (u.tile t).precise = false →
          ∃ w, s.runs t (c t b) f v { pops := 1, vals := [w], d := 2, exc := some 0x1C }) ∧
        (u.portBad t off.toNat (2 ^ k) = true → (u.tile t).precise = true →
          s.trapsAt t (c t b) f v 0x1C ((u.tile t).core.pc.setWidth 64)))
    op .ldb 0x50 0 (fun l w => w.toInt = (BitVec.ofNat 8 (leNat l)).toInt) ∧
    op .ldbu 0x51 0 (fun l w => w.toNat = leNat l) ∧
    op .ldh 0x52 1 (fun l w => w.toInt = (BitVec.ofNat 16 (leNat l)).toInt) ∧
    op .ldhu 0x53 1 (fun l w => w.toNat = leNat l) ∧
    op .ldw 0x54 2 (fun l w => w.toInt = (BitVec.ofNat 32 (leNat l)).toInt) ∧
    op .ldwu 0x55 2 (fun l w => w.toNat = leNat l) ∧
    op .ldd 0x56 3 (fun l w => w.toNat = leNat l)) ∧
  (∀ (t : TileNo) (off n : Nat) (s : State), (s.tile t).gmem.mb = [] →
    s.portRead t off n = (List.range n).map (fun i => s.byteAt (tileMemBase t + off + i))) ∧
  (∀ (t : TileNo) (b : Byte) (s : State),
    let u := s.boundary t 1
    let op (c : TileNo → Byte → Instr) (opc : Byte) (k : Nat) : Prop :=
      let f : Form := { opc, opb := b, din := 2 }
      let off := (u.tile t).core.entry 0 + BitVec.ofInt 64 (b.toInt * 2 ^ k)
      let x := (u.tile t).core.entry 1
      (0x40000 ≤ off.toNat → s.traps t (c t b) f 0x07 off) ∧
      (off.toNat < 0x40000 → off.toNat % 2 ^ k ≠ 0 → s.traps t (c t b) f 0x06 off) ∧
      (off.toNat < 0x40000 → off.toNat % 2 ^ k = 0 →
        ∃ v, s.runs t (c t b) f v { pops := 2 } ∧
          (u.memOk → ∀ i < 2 ^ k, (v.byteAt (tileMemBase t + off.toNat + i)).toNat = x.toNat / 2 ^ (8 * i) % 256) ∧
          (∀ r, r ≠ (t : Nat) → v.tile r = u.tile r) ∧ (u.tile t).sameUnits (v.tile t) ∧
          ((u.tile t).noScatter = true →
            (u.memOk → ∀ a, a < tileMemBase t + off.toNat ∨ tileMemBase t + off.toNat + 2 ^ k ≤ a → v.byteAt a = u.byteAt a) ∧
            (v.tile t).core = (u.tile t).core ∧ (v.tile t).ctl = (u.tile t).ctl ∧ (v.tile t).vec = (u.tile t).vec))
    op .stb 0x58 0 ∧ op .sth 0x59 1 ∧ op .stw 0x5A 2 ∧ op .std 0x5B 3)

/-! ## Branches, loops, exceptions and the mode (R35 to R41, R50 to R83) -/

/-- The branches (R35 to R37, R40): the delay slot comes next, at the following parcel, and then the core continues at the target,
or after the delay slot where the branch is not taken. A taken BR, BZ, BNZ or JMP ends the loop levels whose bodies it leaves.
CALL and CALLI push the address after the delay slot on the return stack; RET pops it. An absolute target above 56 bits, or an
odd one, raises its exception. LOOP (R38 to R40): where it stands as R40 allows and the data stack has an entry, it pops n, loads
the counter and the start register of the next free level, and starts the level on the len parcels after it, or goes on after them
with the level inactive where n is 0; elsewhere it raises ILLEGAL_PLACE before the checks of the stack. At the last instruction of an active body the counter falls by one, and the body starts again
unless it is 0, when the level becomes inactive; level 1 decides first (R38, R39). -/
def Obligations.BranchesAndLoops : Prop :=
  (∀ (t : TileNo) (b : Byte) (s : State),
    let u := s.boundary t 1
    let y := u.tile t
    let pc := y.core.pc
    let x := y.core.entry 0
    let rel := pc + 2 + BitVec.ofInt 56 (2 * b.toInt)
    let f (opc : Byte) (legal : Bool) (din rin rout : Nat) : Form :=
      { opc, opb := b, legal, noSlot := true, noEnd := true, din, rin, rout }
    let taken (a : BitVec 56) : State := u.modTile t fun z => { z with ctl := z.ctl.leave pc.toNat a.toNat }
    let called : State := u.modTile t fun z => { z with core :=
      { z.core with rs := z.core.rs.setIfInBounds z.core.rd ((pc + 4).setWidth 64), rd := z.core.rd + 1 } }
    let lctl := y.ctl.lctl
    let jump (a : BitVec 56) : Flow := .branch { pc, target := a, follow := false, link := none, lctl }
    let call (a : BitVec 56) : Flow := .branch { pc, target := a, follow := false, link := some y.core.rd, lctl }
    let past : Flow := .branch { pc, target := pc + 4, follow := true, link := none, lctl }
    let top : Word := nth y.core.rs (y.core.rd - 1) 0
    s.goes t (.br t b) (f 0x78 true 0 0 0) (taken rel) (jump rel) {} ∧
    (x = 0 → s.goes t (.bz t b) (f 0x79 true 1 0 0) (taken rel) (jump rel) { pops := 1 }) ∧
    (x ≠ 0 → s.goes t (.bz t b) (f 0x79 true 1 0 0) u past { pops := 1 }) ∧
    (x ≠ 0 → s.goes t (.bnz t b) (f 0x7A true 1 0 0) (taken rel) (jump rel) { pops := 1 }) ∧
    (x = 0 → s.goes t (.bnz t b) (f 0x7A true 1 0 0) u past { pops := 1 }) ∧
    s.goes t (.call t b) (f 0x7B true 0 0 1) called (call rel) {} ∧
    (2 ^ 56 ≤ x.toNat → s.traps t (.jmp t b) (f 0x7C (opNone b) 1 0 0) 0x12 x ∧
      s.traps t (.calli t b) (f 0x7D (opNone b) 1 0 1) 0x12 x) ∧
    (x.toNat < 2 ^ 56 → x.toNat % 2 = 1 → s.traps t (.jmp t b) (f 0x7C (opNone b) 1 0 0) 0x06 x ∧
      s.traps t (.calli t b) (f 0x7D (opNone b) 1 0 1) 0x06 x) ∧
    (x.toNat < 2 ^ 56 → x.toNat % 2 = 0 →
      s.goes t (.jmp t b) (f 0x7C (opNone b) 1 0 0) (taken (x.setWidth 56)) (jump (x.setWidth 56)) { pops := 1 } ∧
      s.goes t (.calli t b) (f 0x7D (opNone b) 1 0 1) called (call (x.setWidth 56)) { pops := 1 }) ∧
    (top.toNat % 2 = 1 → s.traps t (.ret t b) (f 0x7E (opNone b) 0 1 0) 0x06 top) ∧
    (top.toNat % 2 = 0 → s.goes t (.ret t b) (f 0x7E (opNone b) 0 1 0)
      (u.modTile t fun z => { z with core := { z.core with rd := z.core.rd - 1 } }) (jump (top.setWidth 56)) {})) ∧
  (∀ (t : TileNo) (b : Byte) (s : State),
    let u := s.boundary t 1
    let y := u.tile t
    let n := y.core.entry 0
    let refused := ((s.landDue t).checkHold t).loopRefused t b.toNat
    let f : Form := { opc := 0x7F, opb := b, legal := opRange 1 255 b, noSlot := true, noEnd := true, barred := refused, din := 1 }
    (s.takes t → opRange 1 255 b = true → refused = true →
      exec (.loop t b) s = .next (u.enter t 0x03 false false 0 (BitVec.ofNat 64 (0x7F00 + b.toNat)))) ∧
    (s.takes t → opRange 1 255 b = true → refused = false → y.core.branch = none → y.endsBody 2 = false → y.core.d = 0 →
      exec (.loop t b) s = .next (u.enter t 0x04 false false 0 0)) ∧
    (refused = false →
      (n = 0 → s.goes t (.loop t b) f (u.modTile t fun z => ({ z with ctl := if z.ctl.act 0
          then { z.ctl with lc1 := 0, la1 := z.core.pc + 2 } else { z.ctl with lc0 := 0, la0 := z.core.pc + 2 } } : Tile).idle 1)
        (.jump (y.core.pc + 2 + BitVec.ofNat 56 (2 * b.toNat))) { pops := 1 }) ∧
      (n ≠ 0 → ∃ c : Ctl,
        s.runs t (.loop t b) f (u.modTile t fun z => { z with ctl := c }) { pops := 1 } ∧
        (y.ctl.act 0 = false → c.lc0 = n ∧ c.la0 = y.core.pc + 2 ∧ c.act 0 = true ∧
          c.bodyEnd 0 = (y.core.pc + 2).toNat + 2 * b.toNat ∧ c.act 1 = y.ctl.act 1 ∧ c.lc1 = y.ctl.lc1 ∧ c.la1 = y.ctl.la1) ∧
        (y.ctl.act 0 = true → c.lc1 = n ∧ c.la1 = y.core.pc + 2 ∧ c.act 1 = true ∧
          c.bodyEnd 1 = (y.core.pc + 2).toNat + 2 * b.toNat ∧ c.act 0 = true ∧ c.lc0 = y.ctl.lc0 ∧ c.la0 = y.ctl.la0)))) ∧
  (∀ (c : Ctl) (a len : Nat),
    let last (l : Nat) : Prop := c.inBody l a = true ∧ c.bodyEnd l = a + len
    let c' := (c.loopBack a len).1
    let back := (c.loopBack a len).2
    (last 1 → c.lc1 ≠ 1 → back = some c.la1 ∧ c' = { c with lc1 := c.lc1 - 1 }) ∧
    (last 1 → c.lc1 = 1 → ¬last 0 → back = none ∧ c'.lc1 = 0 ∧ c'.act 1 = false ∧ c'.act 0 = c.act 0 ∧ c'.lc0 = c.lc0) ∧
    (last 1 → c.lc1 = 1 → last 0 → c.lc0 ≠ 1 → back = some c.la0 ∧ c'.lc0 = c.lc0 - 1 ∧ c'.act 1 = false ∧ c'.act 0 = true) ∧
    (¬last 1 → last 0 → c.lc0 ≠ 1 → back = some c.la0 ∧ c' = { c with lc0 := c.lc0 - 1 }) ∧
    (¬last 1 → last 0 → c.lc0 = 1 → back = none ∧ c'.lc0 = 0 ∧ c'.act 0 = false ∧ c'.act 1 = c.act 1 ∧ c'.lc1 = c.lc1) ∧
    (¬last 1 → ¬last 0 → back = none ∧ c' = c))

/-- Taking an exception (R71, R72, R74, R75): every result has landed; EPC, ECAUSE, EVAL and STATUS keep what the handler needs,
the mode becomes supervisor with interrupts off and EXL set, and the core continues at EVEC, or 128 bytes on for an interrupt.
A precise fault under EXL stops the tile instead. SYS takes the system call exception and BRK the breakpoint exception, each
with its operand byte as EVAL (R31, R67); ERET restores the mode and the interrupt enable and goes on at EPC, after the delay
slot's branch where STATUS.DS was set, and within a shadow where STATUS.SH was (R73). -/
def Obligations.ExceptionsTrapsAndReturns : Prop :=
  (∀ (t : TileNo) (code : Byte) (intr impr : Bool) (obj : Nat) (value : Word) (s : State),
    let x := ((s.drain t).modTile t Tile.flushCwrs).tile t
    let y := (s.enter t code intr impr obj value).tile t
    let exl := bit ((s.drain t).tile t).ctl.status 6
    obj < 8 →
    (intr = true ∨ impr = true ∨ exl = false →
      y.core.flight = [] ∧ y.core.cwrs = [] ∧ y.core.branch = none ∧ y.core.shLeft = 0 ∧ y.core.hold = none ∧
      y.core.doing = .issue ∧ y.core.ds = x.core.ds ∧ y.core.d = x.core.d ∧ y.core.rs = x.core.rs ∧ y.core.rd = x.core.rd ∧
      y.core.pc = x.ctl.evec.setWidth 56 + (if intr then 0x80 else 0) ∧
      y.ctl.epc = (match x.core.branch with | some b => b.pc | none => x.core.pc) ∧
      y.ctl.eval = (match x.core.branch with | some b => b.target.setWidth 64 | none => value) ∧
      fld y.ctl.ecause 0 8 = code.toNat ∧ bit y.ctl.ecause 8 = intr ∧ bit y.ctl.ecause 9 = impr ∧
      fld y.ctl.ecause 16 3 = obj ∧
      fld y.ctl.status 0 2 = 1 ∧ bit y.ctl.status 4 = false ∧ bit y.ctl.status 5 = bit x.ctl.status 4 ∧
      bit y.ctl.status 6 = true ∧ bit y.ctl.status 7 = bit x.ctl.status 7 ∧ bit y.ctl.status 8 = x.core.branch.isSome ∧
      y.ctl = { x.ctl with status := y.ctl.status, epc := y.ctl.epc, ecause := y.ctl.ecause, eval := y.ctl.eval } ∧
      y.gmem = x.gmem ∧ y.vec.vs = x.vec.vs ∧ y.vec.vd = x.vec.vd ∧ y.tmu = x.tmu ∧ y.queues = x.queues ∧
      (x.core.shLeft = 0 → bit y.ctl.status 9 = false ∧ fld y.ctl.status 10 2 = 0 ∧ fld y.ctl.status 14 2 = 0 ∧
        fld y.ctl.status 2 2 = fld x.ctl.status 0 2) ∧
      (0 < x.core.shLeft → x.core.shLeft < 4 → bit y.ctl.status 9 = true ∧ fld y.ctl.status 10 2 = x.core.shLeft ∧
        fld y.ctl.status 2 2 = x.core.shOld.toNat ∧ fld y.ctl.status 14 2 = x.core.shNew.toNat)) ∧
    (intr = false → impr = false → exl = true → y.core.run = .halted)) ∧
  (∀ (t : TileNo) (b : Byte) (s : State),
    let u := s.boundary t 1
    let x := u.tile t
    let st := x.ctl.status
    let f : Form := { opc := 0x82, opb := b, legal := opNone b, sup := true, noSlot := true, noShadow := true }
    s.traps t (.sys t b) { opc := 0x80, opb := b, noSlot := true, noEnd := true, noShadow := true } 0x19 (b.setWidth 64) ∧
    s.traps t (.brk t b) { opc := 0x81, opb := b } 0x18 (b.setWidth 64) ∧
    ∃ v : State,
      s.goes t (.eret t b) f v (.jump (if bit st 8 then x.ctl.epc + 2 else x.ctl.epc)) {} ∧
      (v.tile t).core.branch = (if bit st 8 then
        some { pc := x.ctl.epc, target := x.ctl.eval.setWidth 56 &&& ~~~1, follow := false, link := none, lctl := x.ctl.lctl } else none) ∧
      (v.tile t).core.shLeft = (if bit st 9 then fld st 10 2 else 0) ∧
      (bit st 9 = true → (v.tile t).core.shOld.toNat = fld st 2 2 ∧ (v.tile t).core.shNew.toNat = fld st 14 2 ∧
        fld (v.tile t).ctl.status 0 2 = fld st 14 2) ∧
      (bit st 9 = false → fld (v.tile t).ctl.status 0 2 = fld st 2 2) ∧
      bit (v.tile t).ctl.status 4 = bit st 5 ∧ bit (v.tile t).ctl.status 6 = false ∧
      bit (v.tile t).ctl.status 7 = bit st 7 ∧ bit (v.tile t).ctl.status 8 = false ∧ bit (v.tile t).ctl.status 9 = false ∧
      (v.tile t).ctl = { x.ctl with status := (v.tile t).ctl.status } ∧
      (v.tile t).core = { x.core with
        pc := (v.tile t).core.pc, branch := (v.tile t).core.branch, hold := none, shLeft := (v.tile t).core.shLeft
        shOld := (v.tile t).core.shOld, shNew := (v.tile t).core.shNew, cycle := x.core.cycle + 2 } ∧
      v = u.setTile t (v.tile t))

/-- SETM commits a mode behind a shadow of two instructions, HOLD opens, shortens or closes a window, CRD reads a control
register at distance 1, and CWR's write takes effect from the second instruction after it on (R50 to R53, R82). -/
def Obligations.ModeAndControlRegisters : Prop :=
  ∀ (t : TileNo) (b : Byte) (s : State),
    let u := s.boundary t 1
    let y := u.tile t
    let x := y.core.entry 0
    let fm : Form := { opc := 0x83, opb := b, legal := opNone b, sup := true, noSlot := true, noShadow := true, din := 1 }
    let fh : Form := { opc := 0x84, opb := b, legal := opNone b, sup := true, din := 1 }
    let stop := u.cycle t + 1 + BitVec.ofNat 64 (Nat.min x.toNat (fld y.ctl.holdlim 0 10))
    let opened (e : Option Word) : State := u.modTile t fun z => { z with core := { z.core with hold := e } }
    (1 < x.toNat → s.traps t (.setm t b) fm 0x01 (BitVec.ofNat 64 (0x8300 + b.toNat))) ∧
    (x.toNat ≤ 1 → ∃ v : State,
      s.runs t (.setm t b) fm v { pops := 1 } ∧ v = u.setTile t (v.tile t) ∧
      (v.tile t).ctl = { y.ctl with status := (v.tile t).ctl.status } ∧
      (v.tile t).core = { y.core with shLeft := 2, shOld := y.ctl.status.extractLsb' 0 2, shNew := x.setWidth 2 } ∧
      fld (v.tile t).ctl.status 0 2 = x.toNat ∧ (∀ i, 2 ≤ i → bit (v.tile t).ctl.status i = bit y.ctl.status i)) ∧
    (x = 0 → s.runs t (.hold t b) fh (opened none) { pops := 1 }) ∧
    (x ≠ 0 → y.core.hold = none → s.runs t (.hold t b) fh (opened (some stop)) { pops := 1 }) ∧
    (∀ e, x ≠ 0 → y.core.hold = some e → e.toNat < stop.toNat → s.runs t (.hold t b) fh (opened (some e)) { pops := 1 }) ∧
    (∀ e, x ≠ 0 → y.core.hold = some e → stop.toNat ≤ e.toNat → s.runs t (.hold t b) fh (opened (some stop)) { pops := 1 }) ∧
    s.runs t (.crd t b) { opc := 0x88, opb := b, legal := isCtl b, sup := crdSup b, dout := 1 } u
      { vals := [u.ctlRead t b], d := 1 } ∧
    s.runs t (.cwr t b) { opc := 0x89, opb := b, legal := isCtl b, sup := cwrSup b, din := 1 }
      (u.modTile t fun z => { z with core := { z.core with cwrs := z.core.cwrs ++ [{ index := b, value := x, rem := 2 }] } })
      { pops := 1 }

/-- An instruction whose checks do not all pass takes the first exception of R70: the parcel, the privilege, the place, the
stacks. It holds of a command that stands for them all, an addition, and of an opcode that nothing assigns (R20, R22, R70). An
instruction that only supervisor mode runs raises PRIVILEGE in user mode, with the parcel as EVAL, before every check but that
of the parcel (R50, R70). -/
def Obligations.ChecksComeInOrder : Prop :=
  (∀ (t : TileNo) (b : Byte) (p : Parcel) (s : State),
    let u := s.boundary t 1
    let x := u.tile t
    let f : Form := { opc := 0x20, opb := b, legal := opNone b, din := 2, dout := 1 }
    let fault (c : Instr) (code : Byte) (v : Word) : Prop := exec c s = .next (u.enter t code false false 0 v)
    s.takes t →
      (unassigned (p.extractLsb' 8 8) (p.extractLsb' 0 8) = true →
        fault (.unassignedOpcode t p) 0x01 (p.setWidth 64)) ∧
      (b ≠ 0 → fault (.add t b) 0x01 (BitVec.ofNat 64 (0x2000 + b.toNat))) ∧
      (b = 0 → x.core.branch.isSome = true → x.endsBody 2 = true →
        fault (.add t b) 0x03 0x2000) ∧
      (b = 0 → x.core.branch = none → x.core.d < 2 → fault (.add t b) 0x04 0) ∧
      (b = 0 → x.core.branch = none → 2 ≤ x.core.d → x.dlim < x.core.d - 1 → fault (.add t b) 0x05 0) ∧
      (s.issues t f ↔ b = 0 ∧ (x.core.branch = none ∨ x.endsBody 2 = false) ∧ 2 ≤ x.core.d ∧
        x.core.d - 1 ≤ x.dlim ∧ x.core.rd ≤ x.rlim ∧ x.vec.vd ≤ 8)) ∧
  (∀ (t : TileNo) (s : State),
    let u := s.boundary t 1
    s.takes t → (u.tile t).user = true →
      ∀ c v, (c, v) ∈ [(Instr.eret t 0, 0x8200), (.setm t 0, 0x8300), (.hold t 0, 0x8400), (.crd t 0, 0x8800),
          (.cwr t 0, 0x8900), (.gfill t 0, 0x6500), (.cinv t 0, 0x7300), (.icinv t 0, 0x7400), (.sctrclr t 0, 0xD300),
          (.scancel t 0, 0xD400), (.dmastop t 0x10, 0xDA10), (.dmactrclr t 0, 0xDE00)] →
        exec c s = .next (u.enter t 0x02 false false 0 (BitVec.ofNat 64 v)))

/-! ## Global memory instructions (R42 to R46, R185 to R188, R215 to R219, R231 to R236, R490) -/

/-- GLD and GLDA at an aligned, mapped address with a free load slot fill the next slot for a value of the size and extension
that the operand byte names; GLDA holds later reads. With all 8 slots in use they raise LOAD_SLOT, else at a misaligned
address MISALIGN; on a TLB miss the tile holds the instruction for a walk. GTAKE pops the oldest slot's value, waits for it,
and raises LOAD_SLOT with no slot or GLOBAL_DATA_ERROR on poison. GFILL fills a slot with x (R42, R45, R46, R70, R211, R234). -/
def Obligations.LoadSlotsFillInOrder : Prop :=
  ∀ (t : TileNo) (b : Byte) (e : TlbEntry) (s : State),
    let u := s.boundary t 1
    let y := u.tile t
    let va := y.core.entry 0
    let n := 2 ^ (b.toNat % 4)
    let full := BitVec.ofNat 64 y.gmem.slots.length
    let load (c : Instr) (opc : Byte) : Prop :=
      let f : Form := { opc, opb := b, legal := opLow 3 b, din := 1 }
      (8 ≤ y.gmem.slots.length → s.traps t c f 0x08 full) ∧
      (y.gmem.slots.length < 8 → va.toNat % n ≠ 0 → s.traps t c f 0x06 va) ∧
      (y.gmem.slots.length < 8 → va.toNat % n = 0 → y.mapped va kLoad e →
        ∃ v sl, s.runs t c f v { pops := 1 } ∧ u.onlyAccess v t ∧ (v.tile t).gmem.slots = y.gmem.slots ++ [sl] ∧
          sl.va = va ∧ sl.size = b.toNat % 4 ∧ sl.zext = bit b 2 ∧ sl.pc = y.core.pc) ∧
      (y.gmem.slots.length < 8 → va.toNat % n = 0 → va.toNat < 2 ^ 56 → y.tlbFind va.toNat = none → s.issues t f →
        ∃ s', exec c s = .next s' ∧ u.stalls s' t (.walk opc b va kLoad false) ∧
          (s'.tile t).gmem.slots = y.gmem.slots ∧ ∀ m ∈ (s'.tile t).gmem.mb, m.drain = true)
    load (.gld t b) 0x60 ∧ load (.glda t b) 0x61 ∧
    (let f : Form := { opc := 0x62, opb := b, legal := opNone b, dout := 1 }
     let w := u.drain t
     let old := (w.tile t).gmem.slots
     (old = [] → s.trapsAt t (.gtake t b) f w 0x08 0) ∧
     (∀ sl rest x, old = sl :: rest → sl.val = some x → sl.poison = false →
       s.runs t (.gtake t b) f (w.modTile t fun z => { z with gmem := { z.gmem with slots := rest } }) { vals := [x] }) ∧
     (∀ sl rest, old = sl :: rest → sl.val = none → s.issues t f →
       exec (.gtake t b) s = .next (w.setDoing t (.wait 0x62 b))) ∧
     (∀ sl rest x, old = sl :: rest → sl.val = some x → sl.poison = true → s.issues t f →
       ∃ w' : State, exec (.gtake t b) s = .next (w'.enter t 0x1D false false 0 sl.va) ∧ w'.tiles = w.tiles ∧ w'.mem = w.mem)) ∧
    (let f : Form := { opc := 0x65, opb := b, legal := opNone b, sup := true, din := 1 }
     (8 ≤ y.gmem.slots.length → s.traps t (.gfill t b) f 0x08 full) ∧
     (y.gmem.slots.length < 8 → ∃ v sl, s.runs t (.gfill t b) f v { pops := 1 } ∧ u.onlyAccess v t ∧
       (v.tile t).gmem.slots = y.gmem.slots ++ [sl] ∧ sl.val = some va ∧ sl.poison = false))

/-- GST at an aligned, mapped address puts its low bytes into the merging buffer, in the open entry of its line where the line is
cacheable and has one, else in a new entry; with more than 4 entries every one drains; with none free it waits (R44, R46,
R217). A misaligned address raises MISALIGN, a missing page starts a walk. AADD, ACAS, MCMP and MCNT at an aligned address,
mapped for reading and writing, fill the next load slot and send their operands to the word's home, or hold them while 64 writes are unacknowledged; the line
leaves the data cache and the merging buffer's entries of it drain. WAITM asks the home for a watch and waits (R43, R46, R185, R187, R209,
R217, R218, R232, R236). -/
def Obligations.StoresAndOperations : Prop :=
  (∀ (t : TileNo) (b : Byte) (e : TlbEntry) (s : State),
    let f : Form := { opc := 0x63, opb := b, legal := opLow 2 b, din := 2 }
    let w := (s.boundary t 1).drain t
    let y := w.tile t
    let va := y.core.entry 0
    let x := y.core.entry 1
    let n := 2 ^ (b.toNat % 4)
    let city := e.addr va.toNat
    let plain := w.cacheable t city e.nc
    let joins (m : MbEntry) : Prop := plain = true ∧ m.line = city / 64 ∧ m.plain = true ∧ m.drain = false
    (va.toNat % n ≠ 0 → s.trapsAt t (.gst t b) f w 0x06 va) ∧
    (va.toNat % n = 0 → va.toNat < 2 ^ 56 → y.tlbFind va.toNat = none → s.issues t f →
      ∃ s', exec (.gst t b) s = .next s' ∧ w.stalls s' t (.walk 0x63 b va kStore false)) ∧
    (va.toNat % n = 0 → y.mapped va kStore e → city % 64 + n ≤ 64 →
      ((∃ m ∈ y.gmem.mb, joins m) → ∃ v, s.runs t (.gst t b) f v { pops := 2 } ∧ w.onlyAccess v t ∧
        (v.tile t).gmem.mb.length = y.gmem.mb.length ∧
        ∃ m ∈ (v.tile t).gmem.mb, m.line = city / 64 ∧
          ∀ i < n, bit m.mask (city % 64 + i) = true ∧ fld m.data (8 * (city % 64 + i)) 8 = x.toNat / 2 ^ (8 * i) % 256) ∧
      ((∀ m ∈ y.gmem.mb, ¬joins m) → y.gmem.mb.length < 8 → ∃ v m, s.runs t (.gst t b) f v { pops := 2 } ∧
        w.onlyAccess v t ∧ (v.tile t).gmem.mb.getLast? = some m ∧ (v.tile t).gmem.mb.length = y.gmem.mb.length + 1 ∧
        m.line = city / 64 ∧ m.plain = plain ∧ m.user = y.user ∧ (plain = false → m.drain = true) ∧
        (4 ≤ y.gmem.mb.length → ∀ k ∈ (v.tile t).gmem.mb, k.drain = true) ∧
        (∀ i, bit m.mask i = (decide (city % 64 ≤ i) && decide (i < city % 64 + n))) ∧
        ∀ i < n, fld m.data (8 * (city % 64 + i)) 8 = x.toNat / 2 ^ (8 * i) % 256) ∧
      ((∀ m ∈ y.gmem.mb, ¬joins m) → 8 ≤ y.gmem.mb.length → s.issues t f →
        ∃ s', exec (.gst t b) s = .next s' ∧ w.stalls s' t (.wait 0x63 b)))) ∧
  (∀ (t : TileNo) (b : Byte) (e : TlbEntry) (s : State),
    let u := s.boundary t 1
    let y := u.tile t
    let arg (n : Nat) : Word := y.core.entry n
    let va := arg 0
    let city := e.addr va.toNat
    let op (c : Instr) (opc : Byte) (pops : Nat) (kind : ReqKind) : Prop :=
      let f : Form := { opc, opb := b, legal := opNone b, din := pops }
      (8 ≤ y.gmem.slots.length → s.traps t c f 0x08 (BitVec.ofNat 64 y.gmem.slots.length)) ∧
      (y.gmem.slots.length < 8 → va.toNat % 8 ≠ 0 → s.traps t c f 0x06 va) ∧
      (y.gmem.slots.length < 8 → va.toNat % 8 = 0 → y.mapped va kBoth e →
        ∃ (v : State) (sl : Slot) (r : Req), s.runs t c f v { pops } ∧ u.onlyAccess v t ∧ (v.tile t).gmem.slots = y.gmem.slots ++ [sl] ∧
          sl.va = va ∧ sl.size = 3 ∧ v.reqs.getLast? = some r ∧ r.kind = kind ∧ r.addr = city ∧ r.tile = (t : Nat) ∧
          r.slot = some sl.id ∧ (u.unacked t < 64 → r.st = .sent) ∧ (64 ≤ u.unacked t → r.st = .held) ∧ v.reqs.length = u.reqs.length + 1 ∧
          (y.den = true → ∀ l ∈ (v.tile t).gmem.dcache, l.line ≠ city / 64) ∧
          ∀ m ∈ (v.tile t).gmem.mb, m.line = city / 64 → m.drain = true)
    op (.aadd t b) 0x68 2 (.aadd (arg 1)) ∧
    op (.acas t b) 0x69 3 (.acas (arg 2) (arg 1)) ∧
    op (.mcmp t b) 0x6A 3 (.mcmp (arg 2) (arg 1)) ∧
    op (.mcnt t b) 0x6B 2 (.mcnt (arg 1)) ∧
    (let f : Form := { opc := 0x6E, opb := b, legal := opNone b, din := 2 }
     let w := u.drain t
     let a := (w.tile t).core.entry 0
     (a.toNat % 8 ≠ 0 → s.trapsAt t (.waitm t b) f w 0x06 a) ∧
     (a.toNat % 8 = 0 → (w.tile t).mapped a kLoad e → s.issues t f →
       ∃ (s' : State) (r : Req), exec (.waitm t b) s = .next s' ∧ w.stalls s' t (.wait 0x6E b) ∧ s'.reqs = w.reqs ++ [r] ∧
         r.kind = .watch ((w.tile t).core.entry 1) ∧ r.addr = e.addr a.toNat ∧ r.tile = (t : Nat) ∧ r.st = .sent)))

/-- MRCNT and MRCNTM over no range push acc; over a mapped range they hold issue while the counts come. GLDB of no line does
nothing; else it checks its ends and alignments and holds issue while its lines come (R49, R188, R490). Range counts and GLDB
(R188, R490): the home reads a range's words on, each on its own, and answers with the number of its 128 words that equal val
under mask; the count of the last range is
added to acc, which the instruction then pushes; the last line of a GLDB is written to tile memory as it arrives, and the
instruction completes. -/
def Obligations.LongInstructionsHoldAndComplete : Prop :=
  (∀ (t : TileNo) (b : Byte) (e : TlbEntry) (s : State),
    let w := (s.boundary t 1).drain t
    let y := w.tile t
    let arg (n : Nat) : Word := y.core.entry n
    let count (c : Instr) (opc : Byte) (pops : Nat) (acc val mask : Word) : Prop :=
      let f : Form := { opc, opb := b, legal := opNone b, din := pops, dout := 1 }
      ((arg 1).toNat % 1024 ≠ 0 → s.trapsAt t c f w 0x06 (arg 1)) ∧
      ((arg 1).toNat % 1024 = 0 → arg 0 = 0 → s.runs t c f w { pops, vals := [acc] }) ∧
      ((arg 1).toNat % 1024 = 0 → arg 0 ≠ 0 → y.mapped (arg 1) kLoad e → w.rangesAsked t = [] → s.issues t f →
        ∃ s', exec c s = .next s' ∧ w.stalls s' t (.long opc b) ∧
          ∃ r ∈ s'.reqs, r.kind = .count (arg 1) val mask ∧ r.addr = e.addr (arg 1).toNat ∧ r.tile = t)
    count (.mrcnt t b) 0x6C 4 (arg 3) (arg 2) (BitVec.allOnes 64) ∧
    count (.mrcntm t b) 0x6D 5 (arg 4) (arg 2) (arg 3) ∧
    (let f : Form := { opc := 0x64, opb := b, legal := opNone b, din := 3 }
     let n := (arg 0).toNat
     let va := arg 1
     let la := arg 2
     (0x40000 < la.toNat + 64 * n → s.trapsAt t (.gldb t b) f w 0x07 (BitVec.ofNat 64 (la.toNat + 64 * n - 1))) ∧
     (la.toNat + 64 * n ≤ 0x40000 →
       (la.toNat % 64 ≠ 0 → s.trapsAt t (.gldb t b) f w 0x06 la) ∧
       (la.toNat % 64 = 0 → va.toNat % 64 ≠ 0 → s.trapsAt t (.gldb t b) f w 0x06 va) ∧
       (la.toNat % 64 = 0 → va.toNat % 64 = 0 → n = 0 → s.runs t (.gldb t b) f w { pops := 3 }) ∧
       (la.toNat % 64 = 0 → va.toNat % 64 = 0 → n ≠ 0 → y.mapped va kLoad e → w.gldbLines t = [] → s.issues t f →
         ∃ s', exec (.gldb t b) s = .next s' ∧ w.stalls s' t (.long 0x64 b) ∧
           ∃ r ∈ s'.reqs, r.kind = .gldb la.toNat ∧ r.addr = e.addr va.toNat ∧ r.tile = t)))) ∧
  (∀ (t : TileNo) (n : Nat) (r : Req) (s : State),
    let x := s.tile t
    let arg (i : Nat) : Word := x.core.entry i
    let a := devAddr r.addr
    (∀ va val mask words, (s.rangeReqs t)[n]? = some r → r.kind = .count va val mask → s.homed r.id r a 1024 → s.clean →
      a % 1024 = 0 → s.rangeMet r = true → r.run = .reset →
      let hits (k : Nat) : Nat := (List.range k).countP fun i => s.wordAt (a + 8 * i) &&& mask == val &&& mask
      ∃ s', exec (.rangeCountAtHome t ⟨n, words⟩) s = .next s' ∧ s'.mem = s.mem ∧
        (128 ≤ words → s'.answered r.id (BitVec.ofNat 512 (hits 128))) ∧
        (words < 128 → s'.req? r.id = some { r with run := { got := words, sum := BitVec.ofNat 64 (hits words), bad := false } })) ∧
    (∀ b data val mask, x.longIn = some (0x6C, b) → x.core.flight = [] → 4 ≤ x.core.d → x.core.d ≤ 32 → arg 0 = 1 →
      (arg 1).toNat % 1024 = 0 →
      ((s.rangeReqs t).find? fun q => q.performed && match q.kind with
        | .count va _ _ => va == arg 1
        | _ => false) = some r → r.kind = .count (arg 1) val mask → r.st = .done data false →
      ∃ v s', exec (.rangeCountArrives t) s = .next s' ∧ v.mem = s.mem ∧
        Ran v s' t (heldForm 0x6C b) .seq { pops := 4, vals := [arg 3 + data.setWidth 64] } ∧
        (v.tile t).core.d = x.core.d ∧ (v.tile t).core.pc = x.core.pc) ∧
    (∀ b data, x.longIn = some (0x64, b) → x.core.flight = [] → 3 ≤ x.core.d → x.core.d ≤ 32 → arg 0 = 1 →
      (arg 1).toNat % 64 = 0 → (arg 2).toNat % 64 = 0 → (arg 2).toNat + 64 ≤ 0x40000 → s.memOk →
      (s.reqs.find? fun q => q.tile = t.val && q.kind == .gldb (arg 2).toNat && q.performed) = some r →
      r.st = .done data false →
      let base := tileMemBase t + (arg 2).toNat
      ∃ v s', exec (.gldbLineArrives t) s = .next s' ∧ Ran v s' t (heldForm 0x64 b) .seq { pops := 3 } ∧
        (∀ i < 64, v.byteAt (base + i) = data.extractLsb' (8 * i) 8) ∧
        ∀ c, c < base ∨ base + 64 ≤ c → v.byteAt c = s.byteAt c))

/-- REL, ACQ, FENCEG, CINV and ICINV (R219, R231, R233, R235): REL numbers the order of writes and starts every open entry
draining; ACQ numbers the order of reads and invalidates the selected sets where the cache is enabled; FENCEG does both over
the whole cache; CINV empties the data cache and ICINV the instruction cache. Nothing of this touches memory. The sets of the
data cache that ACQ selects: those of the lines of va to va + len − 1, all of them where the range spans 64 lines or len is 0
(R233). -/
def Obligations.OrderingInstructions : Prop :=
  (∀ (t : TileNo) (b : Byte) (s : State),
    let u := s.boundary t 1
    let y := (u.tile t).gmem
    let f (opc : Byte) (sup : Bool) (din : Nat) : Form := { opc, opb := b, legal := opNone b, sup, din }
    let same (g : GMem) : Prop := g.slots = y.slots ∧ g.tlb = y.tlb ∧ g.mb.length = y.mb.length
    (s.issues t (f 0x70 false 0) → ∃ s' v, exec (.rel t b) s = .next s' ∧ Ran v s' t (f 0x70 false 0) .seq {} ∧
      u.onlyAccess v t ∧ same (v.tile t).gmem ∧ (v.tile t).gmem.relE = y.relE + 1 ∧ (v.tile t).gmem.acqE = y.acqE ∧
      (v.tile t).gmem.fenE = y.fenE ∧ (v.tile t).gmem.dcache = y.dcache ∧ (v.tile t).gmem.icache = y.icache ∧
      ∀ m ∈ (v.tile t).gmem.mb, m.drain = true) ∧
    (s.issues t (f 0x71 false 2) → ∃ s' v, exec (.acq t b) s = .next s' ∧ Ran v s' t (f 0x71 false 2) .seq { pops := 2 } ∧
      u.onlyAccess v t ∧ same (v.tile t).gmem ∧ (v.tile t).gmem.acqE = y.acqE + 1 ∧ (v.tile t).gmem.relE = y.relE ∧
      (v.tile t).gmem.fenE = y.fenE ∧ (v.tile t).gmem.mb = y.mb ∧ (v.tile t).gmem.icache = y.icache ∧
      ((u.tile t).den = false → (v.tile t).gmem.dcache = y.dcache) ∧
      ((u.tile t).den = true → ∀ l, l ∈ (v.tile t).gmem.dcache ↔
        l ∈ y.dcache ∧ acqSets ((u.tile t).core.entry 1) ((u.tile t).core.entry 0) l.line = false)) ∧
    (s.issues t (f 0x72 false 0) → ∃ s' v, exec (.fenceg t b) s = .next s' ∧ Ran v s' t (f 0x72 false 0) .seq {} ∧
      u.onlyAccess v t ∧ same (v.tile t).gmem ∧ (v.tile t).gmem.relE = y.relE + 1 ∧ (v.tile t).gmem.acqE = y.acqE + 1 ∧
      (v.tile t).gmem.fenE = y.fenE + 1 ∧ (v.tile t).gmem.icache = y.icache ∧
      ((u.tile t).den = true → (v.tile t).gmem.dcache = []) ∧ ∀ m ∈ (v.tile t).gmem.mb, m.drain = true) ∧
    (s.issues t (f 0x73 true 0) → ∃ s' v, exec (.cinv t b) s = .next s' ∧ Ran v s' t (f 0x73 true 0) .seq {} ∧
      u.onlyAccess v t ∧ same (v.tile t).gmem ∧ (v.tile t).gmem.dcache = [] ∧ (v.tile t).gmem.icache = y.icache ∧
      (v.tile t).gmem.mb = y.mb ∧ (v.tile t).gmem.relE = y.relE ∧ (v.tile t).gmem.acqE = y.acqE) ∧
    (s.issues t (f 0x74 true 0) → ∃ s' v, exec (.icinv t b) s = .next s' ∧ Ran v s' t (f 0x74 true 0) .seq {} ∧
      u.onlyAccess v t ∧ same (v.tile t).gmem ∧ (v.tile t).gmem.icache = [] ∧ (v.tile t).gmem.dcache = y.dcache ∧
      (v.tile t).gmem.mb = y.mb ∧ (v.tile t).gmem.relE = y.relE ∧ (v.tile t).gmem.acqE = y.acqE)) ∧
  (∀ (va len : Word) (line : Nat), len ≠ 0 → va.toNat + len.toNat ≤ 2 ^ 64 →
    (acqSets va len line = true ↔
      ∃ l, va.toNat / 64 ≤ l ∧ l ≤ (va.toNat + len.toNat - 1) / 64 ∧ l % 64 = line % 64))

/-! ## Events of a tile's core (R26, R46 to R48, R58, R65, R66, R76, R82, R83, R221) -/

/-- At an instruction boundary every result that is due lands in its slot and sets its flags; every other slot stays, the stacks
keep their depths and, unless a VSCATTER lands, memory stays (R26). A pending imprecise exception is taken at a boundary with
no result in flight, EXL clear and no delay slot to come, with the producer's address as EVAL (R65). An interrupt is taken
there too where IE is set, no window is open and an enabled source is pending, the highest of the order 4, 5, 3, 2, 1, 0 (R29,
R66, R76); a waiting GTAKE is left unexecuted for it (R48). Time at a tile: CYCLE reaching TCMP makes the timer pending; a
window that runs out closes and sets HOLDX where interrupts are enabled and one is pending; a wait that reaches WAITLIM, of at
least 64 cycles, raises WAIT_TIMEOUT with what it waited for, the instruction unexecuted (R46, R47, R57, R58, R83). A release
starts a tile of a released partition at its entry (R420). -/
def Obligations.EventsAtATile : Prop :=
  (∀ (t : TileNo) (s : State), s.atBoundary t = true →
    ∃ s', exec (.resultLands t) s = .next s' ∧
      let x := s.tile t
      let y := s'.tile t
      let due (f : Flight) : Prop := f ∈ x.core.flight ∧ f.rem = 0
      y.core.flight = x.core.flight.filter (fun f => f.rem ≠ 0) ∧
      y.core.d = x.core.d ∧ y.core.rs = x.core.rs ∧ y.core.rd = x.core.rd ∧ y.core.pc = x.core.pc ∧ y.vec.vd = x.vec.vd ∧
      (∀ f i w, due f → f.dest = .data i w → i < 32 → (∀ g v, due g → g.dest = .data i v → v = w) → nth y.core.ds i 0 = w) ∧
      (∀ f i w, due f → f.dest = .vec i w → i < 8 → (∀ g v, due g → g.dest = .vec i v → v = w) → nth y.vec.vs i 0 = w) ∧
      (∀ i, (∀ f w, due f → f.dest ≠ .data i w) → nth y.core.ds i 0 = nth x.core.ds i 0) ∧
      (∀ i, (∀ f w, due f → f.dest ≠ .vec i w) → nth y.vec.vs i 0 = nth x.vec.vs i 0) ∧
      (∀ f, due f → y.ctl.fcsr ||| f.flags.setWidth 64 = y.ctl.fcsr) ∧
      ((∀ f ls, due f → f.dest ≠ .scatter ls) → s'.mem = s.mem ∧ s' = s.setTile t y)) ∧
  ((∀ (t : TileNo) (s : State),
    let u := (s.landDue t).checkHold t
    let x := u.tile t
    (∀ code pc ord, s.atBoundary t = true → x.core.impr = some (code, pc, ord) → x.core.flight = [] →
      bit x.ctl.status 6 = false → x.core.branch = none →
      exec (.impreciseExceptionEntry t) s = .next
        ((u.modTile t fun y => { y with core := { y.core with impr := none } }).enter t code false true 0 (pc.setWidth 64))) ∧
    (∀ i, (s.tile t).alive = true → (s.tile t).parked = false → s.unfrozen t = true →
      bit x.ctl.status 4 = true → x.core.hold = none → x.core.flight = [] →
      intSource (u.ipend t &&& x.ctl.ien) = some i →
      (x.core.doing = .issue → x.core.branch = none → x.imprReady = false →
        exec (.interruptEntry t) s = .next (u.enter t (BitVec.ofNat 8 i) true false 0 0)) ∧
      (∀ b, x.core.doing = .wait 0x62 b →
        exec (.interruptEntry t) s = .next ((u.setDoing t .issue).enter t (BitVec.ofNat 8 i) true false 0 0)))) ∧
  (∀ w : Word, intSource w = if bit w 4 then some 4 else if bit w 5 then some 5 else if bit w 3 then some 3
    else if bit w 2 then some 2 else if bit w 1 then some 1 else if bit w 0 then some 0 else none)) ∧
  (∀ (t : TileNo) (s : State),
    let x := s.tile t
    ((s.block (blockOf t)).gatedAt = none →
      (∃ s', exec (.timerMatch t) s = .next s' ∧ bit (s'.ipend t) 3 = true ∧
        (s'.tile t).ctl = x.ctl ∧ (s'.tile t).core = { x.core with cycle := (s'.tile t).core.cycle } ∧
        (s.cycle t < x.ctl.tcmp → s' = s.setTile t (s'.tile t) ∧ s'.cycle t = x.ctl.tcmp) ∧
        (x.ctl.tcmp ≤ s.cycle t → s' = s)) ∧
      (∀ e, x.core.hold = some e →
        ∃ s', exec (.holdExpiry t) s = .next s' ∧ s' = s.setTile t (s'.tile t) ∧ (s'.tile t).core.hold = none ∧
          e ≤ s'.cycle t ∧ (s'.tile t).core.pc = x.core.pc ∧ (s'.tile t).core.ds = x.core.ds ∧
          bit (s'.tile t).ctl.status 12 =
            (bit x.ctl.status 12 || (bit x.ctl.status 4 && (s'.ipend t &&& x.ctl.ien) != 0))) ∧
      (∀ opc b obj v, x.core.doing = .wait opc b → x.alive = true → s.waitsFor t opc b = some (obj, v) →
        opc ≠ 0x6E → opc ≠ 0xE7 → opc ≠ 0xE0 →
        exec (.waitTimeout t) s = .next ((s.modTile t fun y => { y with core :=
          { y.core with doing := .issue, cycle := y.core.cycle + (if y.ctl.waitlim < 64 then 64 else y.ctl.waitlim) } }).enter
            t 0x1A false false obj v))) ∧
    (∀ b sl rest, x.gmem.slots = sl :: rest → s.waitsFor t 0x62 b = some (1, sl.va)) ∧
    (∀ b, s.waitsFor t 0x63 b = some (7, x.core.entry 0) ∧ s.waitsFor t 0xD9 b = some (6, x.core.entry 0) ∧
      s.waitsFor t 0xE4 b = some (4, x.core.entry 0 &&& 0xFF)) ∧
    (∀ (p : Partition) (pc : BitVec 56), s.part? x.part.toNat = some p → p.released = true → p.ending = none →
      (s.quarter (quarterOf t)).running = some x.part → s.curfew = false → x.core.run = .unreleased →
      x.resetting = none → s.sq.fp.tiles.contains (t : Nat) = false → pc = s.entryPc x.part.toNat →
      exec (.release t pc) s = .next (s.setTile t { x with core := { x.core with run := .running, pc } })))

/-- A fetch of a mapped, executable group that holds the whole instruction leaves the core as it stands; with the instruction
cache enabled its line is then the cache's most recently used. An instruction that reaches into the next group fetches that one
too, and a fault there names it. A page without X, or without U in user mode, raises FETCH_PROT, and a failed walk FETCH_XLATE,
with the address as EVAL (R206, R209, R221). Translation (R205, R209 to R213): a unit's write-back leaves its line clean; a
tile whose stores are done sends its walk; a walk's leaf enters the TLB and the held load runs, and a walk that finds no leaf
raises the access's XLATE exception; XLINV enters the quarter's queue, and where it completes no entry that it covers remains
in the quarter's TLBs and walk cache. -/
def Obligations.FetchesAndTranslations : Prop :=
  (∀ (t : TileNo) (e : TlbEntry) (l : CacheLine) (s : State),
    let u := (s.landDue t).checkHold t
    let x := u.tile t
    let va : Word := x.core.pc.setWidth 64
    let next : Word := BitVec.ofNat 64 ((va.toNat / 8 + 1) * 8)
    let parcels (c : CacheLine) : Nat :=
      parcelsOf (fld (lineWord c.data (e.addr va.toNat % 64 / 8)) (16 * (va.toNat / 2 % 4)) 16)
    s.atBoundary t = true → u.entersFirst t = false → (∀ k ∈ u.far, k.who ≠ .ahead t) →
      (x.tlbFind va.toNat = some e →
        (protFault e kFetch x.user = none → x.icen = true → cacheFind x.gmem.icache (e.addr va.toNat / 64) = some l →
          (va.toNat + 2 * parcels l ≤ next.toNat →
            ∃ s', exec (.fetchGroupArrives t) s = .next s' ∧ (s'.tile t).core = x.core ∧ s'.mem = u.mem ∧
              (s'.tile t).gmem.icache.head? = some l) ∧
          (next.toNat < va.toNat + 2 * parcels l → x.tlbFind next.toNat = none → u.storesDone t = true →
            (u.walk (quarterOf t) x.part next).leaf = none →
            ∃ w : State, w.mem = u.mem ∧ (w.tile t).core = (x.resolveSlot (parcels l)).core ∧
              exec (.fetchGroupArrives t) s = .next (w.enter t 0x12 false false 0 next))) ∧
        (∀ c, protFault e kFetch x.user = some c → c = 0x15 ∧ ∃ w : State, w.mem = u.mem ∧ (w.tile t).core = x.core ∧
          exec (.fetchGroupArrives t) s = .next (w.enter t 0x15 false false 0 va))) ∧
      (x.tlbFind va.toNat = none → u.storesDone t = true → (u.walk (quarterOf t) x.part va).leaf = none →
        ∃ w : State, w.mem = u.mem ∧ (w.tile t).core = x.core ∧
          exec (.fetchGroupArrives t) s = .next (w.enter t 0x12 false false 0 va))) ∧
  (∀ (t : TileNo) (q : QuarterNo) (u : OpUnit) (line : BitVec 38) (va : BitVec 56) (wr : Writer) (s : State),
    let x := s.tile t
    (∃ s', exec (.opBufferWriteback u line) s = .next s' ∧ s' = { s with oplines := s'.oplines } ∧
      ∀ o ∈ s'.oplines, o.unit = opUnitNo u → o.line = line.toNat * 64 → o.dirty = false) ∧
    (∀ opc b a kind, x.core.doing = .walk opc b a kind false → x.alive = true → s.storesDone t = true →
      s.walkCount (quarterOf t) < 32 → ∃ s', exec (.tlbMissWalk t) s = .next s' ∧
        (s'.quarter (quarterOf t)).walks = (s.quarter (quarterOf t)).walks ++ [{ tile := t, va := a, kind, noInstall := false }] ∧
        (s'.tile t).core = { x.core with doing := .walk opc b a kind true } ∧ s'.mem = s.mem) ∧
    (∀ (w : Walk) (e : TlbEntry) (b : Byte), (s.quarter q).walks = [w] → w.tile = t → w.noInstall = false →
      let r := s.walk q x.part w.va
      (r.leaf = some e → (x.core.doing = .issue → ∃ s', exec (.walkComplete q 0) s = .next s' ∧
          (s'.quarter q).walks = [] ∧ (s'.tile t).gmem.tlb.head? = some e ∧ (s'.tile t).core = x.core ∧ s'.mem = s.mem) ∧
        (x.core.doing = .walk 0x60 b w.va kLoad true → x.alive = true → x.gmem.slots.length < 8 →
          w.va = x.core.entry 0 → w.va.toNat % 2 ^ (b.toNat % 4) = 0 → w.va.toNat < 2 ^ 56 →
          e.covers x.part w.va.toNat = true → protFault e kLoad x.user = none →
          ∃ v s' sl, exec (.walkComplete q 0) s = .next s' ∧ Ran v s' t (heldForm 0x60 b) .seq { pops := 1 } ∧
            (v.tile t).gmem.slots = x.gmem.slots ++ [sl] ∧ sl.va = w.va ∧ v.mem = s.mem)) ∧
      (r.leaf = none → x.core.doing = .walk 0x60 b w.va kLoad true → x.alive = true →
        ∃ v : State, v.mem = s.mem ∧ (v.tile t).core = x.core ∧
          exec (.walkComplete q 0) s = .next (v.enter t 0x10 false false 0 w.va))) ∧
    (s.mayCtl wr q = true → (s.quarter q).invals.length < 16 →
      (∃ s', exec (.xlinvAll wr q) s = .next s' ∧ s'.mem = s.mem ∧ s'.tiles = s.tiles ∧
        (s'.quarter q).invals = (s.quarter q).invals ++ [{ part := s.resetter wr, va := none }]) ∧
      (∃ s', exec (.xlinvVa wr q va) s = .next s' ∧ s'.mem = s.mem ∧ s'.tiles = s.tiles ∧
        (s'.quarter q).invals = (s.quarter q).invals ++ [{ part := s.resetter wr, va := some va }])) ∧
    (∀ v rest, (s.quarter q).invals = v :: rest → ∃ s', exec (.xlinvComplete q) s = .next s' ∧
      (s'.quarter q).invals = rest ∧ s'.mem = s.mem ∧ (∀ e ∈ (s'.quarter q).wcache, v.dropsPointer e = false) ∧
      ∀ k e, quarterOf k = q → (e ∈ (s'.tile k).gmem.tlb ↔ e ∈ (s.tile k).gmem.tlb ∧ v.drops e = false)))

/-! ## Global accesses after their issue (R183, R185 to R188, R213, R216, R217, R224, R490) -/

/-- A value that has been read fills its load slot, its bytes extended as the load says, with its poison; a line fill fills the
cache and the loads that joined it; a GTAKE that waits for the oldest slot then completes with its value (R42, R183, R216). An
entry of the merging buffer drains 32 cycles after its first store; the oldest draining entry leaves as one write of its
masked bytes where fewer than 64 writes are unacknowledged and the ordering before its stores holds; an acknowledgement ends
its write (R217, R226, R231, R232). -/
def Obligations.RequestsComeAndGo : Prop :=
  (∀ (t : TileNo) (n : Nat) (r : Req) (data : Line) (poison : Bool) (s : State),
    let x := s.tile t
    r.st = .done data poison →
      (∀ k id, (s.values t)[n]? = some r → r.kind = .load k → r.slot = some id →
        (x.waitsIn = none → ∃ s', exec (.loadValueArrives t n) s = .next s' ∧
          s'.reqs = s.reqs.filter (fun q => q.id ≠ r.id) ∧ (s'.tile t).core = x.core ∧ s'.mem = s.mem ∧
          (s'.tile t).gmem.slots = x.gmem.slots.map (fun (sl : Slot) =>
            if sl.id = id then { sl with poison := sl.poison || poison, val := some (sl.value (data.setWidth 64)) } else sl)) ∧
        (∀ b sl rest, x.waitsIn = some (0x62, b) → x.gmem.slots = sl :: rest → sl.id = id → x.core.flight = [] →
          poison = false → sl.poison = false → ∃ v s', exec (.loadValueArrives t n) s = .next s' ∧
            Ran v s' t (heldForm 0x62 b) .seq { vals := [sl.value (data.setWidth 64)] } ∧ v.mem = s.mem ∧
            (v.tile t).core.ds = x.core.ds ∧ (v.tile t).core.d = x.core.d ∧ (v.tile t).core.pc = x.core.pc ∧
            (v.tile t).gmem.slots.length = rest.length)) ∧
      (∀ p m d, (s.reqs.filter fun q => q.tile = t.val && q.performed && match q.kind with
          | .fill _ _ _ => true
          | _ => false)[n]? = some r → r.kind = .fill p m d → x.waitsIn = none → x.longIn = none →
        ∃ s', exec (.lineFillArrives t n) s = .next s' ∧ s'.reqs = (s.reqs.filter (fun q => q.id ≠ r.id)).map (fun (q : Req) =>
            if q.st = .joined r.id then { q with st := .done (overlay m d data) poison } else q) ∧
          s'.mem = s.mem ∧ (s'.tile t).core = x.core ∧
          (r.noInstall = false → x.den = true → poison = false →
            (s'.tile t).gmem.dcache.head? = some { line := r.addr / 64, data := overlay m d data }) ∧
          (r.noInstall = true ∨ x.den = false ∨ poison = true → (s'.tile t).gmem.dcache = x.gmem.dcache) ∧
          ∀ sl ∈ (s'.tile t).gmem.slots, sl.fill ≠ some r.id)) ∧
  (∀ (t : TileNo) (n : Nat) (s : State),
    let x := s.tile t
    (∃ s', exec (.mbDrainTimer t n) s = .next s' ∧ s' = s.setTile t (s'.tile t) ∧
      (s'.tile t) = { x with gmem := { x.gmem with mb := (s'.tile t).gmem.mb } } ∧
      (s'.tile t).gmem.mb.length = x.gmem.mb.length ∧
      ∀ (i : Nat) (e : MbEntry), x.gmem.mb[i]? = some e → (s'.tile t).gmem.mb[i]? = some { e with drain := e.drain || decide (i = n) }) ∧
    (∀ e, x.gmem.mb.find? (fun k => k.drain || k.bad ≠ 0) = some e → s.unacked t < 64 → s.relMet t e.relE = true →
      s.fenMet t e.fenE = true → x.resetting = none → x.waitsIn = none →
      ∃ (s' : State) (r : Req), exec (.mbEntrySent t) s = .next s' ∧ s'.reqs = s.reqs ++ [r] ∧ r.kind = .write e.mask e.data ∧
        r.addr = e.line * 64 ∧ r.tile = (t : Nat) ∧ r.st = .sent ∧ r.seq = e.seq ∧ r.part = x.part ∧ r.bad = e.bad ∧
        (s'.tile t).gmem.mb = x.gmem.mb.erase e ∧ (s'.tile t).core = x.core ∧ s'.mem = s.mem) ∧
    (∀ id r mask data, s.req? id = some r → r.kind = .write mask data → r.tile = (t : Nat) → r.performed = true →
      exec (.writeAckArrives t id) s = .next { s with reqs := s.reqs.filter fun q => q.id ≠ id }))

/-- A read at its home is answered with the bytes that stand there, or with zeros where the home denies it, which is recorded
(R195, R224, R405). A write at its home stores its masked bytes and no other, and is acknowledged; one that the home denies
stores nothing (R195, R224). -/
def Obligations.RequestsAreServedAtTheirHome : Prop :=
  (∀ (id k : Nat) (r : Req) (s : State),
    let a := devAddr r.addr
    r.kind = .load k → k ≤ 3 → a % 2 ^ k = 0 →
      (s.homed id r a (2 ^ k) → s.clean → ∃ s', exec (.globalReadAtHome id) s = .next s' ∧ s'.mem = s.mem ∧
        s'.answered id (lineOf (s.bytesAt a (2 ^ k))) ∧ s'.tiles = s.tiles) ∧
      (∀ why, s.req? id = some r → r.st = .sent → s.mayPerform r = true → s.staleReq r = false →
        s.isLocal r.addr = true → isMemory a = true → s.access r.who a = .deny why →
        ∃ s', exec (.globalReadAtHome id) s = .next s' ∧ s'.mem = s.mem ∧ s'.answered id 0 ∧
          s'.sq.dlog.noted s.sq.dlog s.time)) ∧
  (∀ (id : Nat) (mask : BitVec 64) (data : Line) (r : Req) (s : State),
    let a := devAddr r.addr
    r.kind = .write mask data → a % 64 = 0 → s.memOk →
      (s.homed id r a 64 → s.clean → r.bad = 0 → ∃ s', exec (.globalWriteAtHome id) s = .next s' ∧
        (∃ q, s'.req? id = some q ∧ q.performed = true) ∧
        (∀ i < 64, s'.byteAt (a + i) = if bit mask i then data.extractLsb' (8 * i) 8 else s.byteAt (a + i)) ∧
        (∀ c, c < a ∨ a + 64 ≤ c → s'.byteAt c = s.byteAt c)) ∧
      (∀ why, s.req? id = some r → r.st = .sent → s.mayPerform r = true → s.staleReq r = false →
        s.isLocal r.addr = true → isMemory a = true → s.access r.who a = .deny why →
        ∃ s', exec (.globalWriteAtHome id) s = .next s' ∧ s'.mem = s.mem ∧ s'.sq.dlog.noted s.sq.dlog s.time ∧
          ∃ q, s'.req? id = some q ∧ q.performed = true))

/-- An operation at its home replaces the word by its rule and answers with the old value: AADD adds, ACAS and MCMP swap on
equality, MCNT adds a signed number and keeps the sum between 0 and all ones (R31, R185). No other byte changes. The old value
fills the issuer's load slot as it arrives (R43). -/
def Obligations.OperationsAreAppliedAtTheirHome : Prop :=
  ∀ (id : Nat) (r : Req) (s : State),
    let a := devAddr r.addr
    let w := s.wordAt a
    s.homed id r a 8 → s.clean → s.memOk → a % 8 = 0 →
      (∀ new : Word → Prop,
        ((∃ x, r.kind = .aadd x ∧ ∀ z : Word, z.toNat = (w.toNat + x.toNat) % 2 ^ 64 → new z) ∨
         (∃ n c, (r.kind = .acas n c ∨ r.kind = .mcmp n c) ∧ ∀ z : Word, (w = c → z = n) → (w ≠ c → z = w) → new z) ∨
         (∃ x, r.kind = .mcnt x ∧ ∀ z : Word, (z.toNat : Int) = max 0 (min (2 ^ 64 - 1) (w.toNat + x.toInt)) → new z)) →
        ∃ s', exec (.operationAtHome id) s = .next s' ∧ s'.answered id (w.setWidth 512) ∧ new (s'.wordAt a) ∧
          ∀ c, c < a ∨ a + 8 ≤ c → s'.byteAt c = s.byteAt c) ∧
      (∀ (t : TileNo) (n slot : Nat) (old : Word) (z : State), (z.values t)[n]? = some { r with st := .done (old.setWidth 512) false } →
        r.tile = (t : Nat) → r.slot = some slot → (z.tile t).waitsIn = none →
        ((∃ x, r.kind = .aadd x) ∨ (∃ x y, r.kind = .acas x y ∨ r.kind = .mcmp x y) ∨ ∃ x, r.kind = .mcnt x) →
        ∃ s', exec (.loadValueArrives t n) z = .next s' ∧ (s'.tile t).core = (z.tile t).core ∧ s'.mem = z.mem ∧
          (s'.tile t).gmem.slots = (z.tile t).gmem.slots.map fun (sl : Slot) =>
            if sl.id = slot then { sl with val := some old } else sl)

/-- WAITM at its home: it is answered where the word is at least x; else a watch is placed where one is free. A WAITM without a
watch reads its word again, and the reply completes the instruction (R187). -/
def Obligations.WatchesWaitForTheirWord : Prop :=
  ∀ (t : TileNo) (x : Word) (r : Req) (s : State),
    let a := devAddr r.addr
    s.watchReq t = some r → r.kind = .watch x →
      (s.homed r.id r a 8 → s.clean → a % 8 = 0 →
        (x.toNat ≤ (s.wordAt a).toNat → ∃ s', exec (.watchPlaced t) s = .next s' ∧ s'.answered r.id 0 ∧ s'.mem = s.mem) ∧
        ((s.wordAt a).toNat < x.toNat → s.watchFree a = true → ∃ s', exec (.watchPlaced t) s = .next s' ∧ s'.mem = s.mem ∧
          s'.watches = s.watches ++ [{ addr := a, x, who := .tile r.id, part := r.part, epoch := r.epoch }])) ∧
      (r.st = .watching → (s.watches.any fun w => w.who == .tile r.id) = false → s.staleReq r = false → s.clean →
        s.access r.who a = .serve → isMemory a = true → a % 8 = 0 → s.req? r.id = some r →
        x.toNat ≤ (s.wordAt a).toNat →
        ∃ s', exec (.watchReread t) s = .next s' ∧ s'.answered r.id 0 ∧ s'.mem = s.mem) ∧
      (∀ b, (s.tile t).waitsIn = some (0x6E, b) → r.performed = true →
        ∃ s', exec (.watchReplyArrives t) s = .next s' ∧ Ran (s.dropReq r.id) s' t (heldForm 0x6E b) .seq { pops := 2 })

/-! ## The vector unit (R114 to R127) -/

/-- The instructions of the vector stack, and those that move lanes between vectors or between the stacks (R114, R118, R123,
R127). VDOT4 adds four products of signed or unsigned bytes to each 32-bit lane, wrapping (R118). -/
def Obligations.VectorsMoveAndSelect : Prop :=
  ∀ (t : TileNo) (b : Byte) (o : BitVec 5) (s : State),
    let u := s.boundary t 1
    let y := (u.tile t).vec
    let x : Word := (u.tile t).core.entry 0
    let v (n : Nat) : Line := nth y.vs (y.vd - 1 - n) 0
    let stk (fn : Nat) (vin vout : Nat) : Form :=
      { opc := 0xA4, opb := BitVec.ofNat 8 (32 * fn + o.toNat), legal := o == 0, vin, vout }
    let gives (c : Instr) (f : Form) (pops : Nat) (is : Line → Prop) : Prop :=
      ∃ z, is z ∧ s.runs t c f u { pops, vpops := f.vin, vvals := [z], d := 3 }
    let w := 8 * 2 ^ (b.toNat / 64)
    let e := 8 * elemBytes (b.toNat % 8)
    let lane (w : Nat) (z : Line) (i : Nat) : Nat := fld z (w * i) w
    s.runs t (.vdup t o) (stk 0 1 2) u { vvals := [v 0] } ∧
    s.runs t (.vdrop t o) (stk 1 1 0) u { vpops := 1 } ∧
    s.runs t (.vswap t o) (stk 2 2 2) u { vpops := 2, vvals := [v 0, v 1] } ∧
    s.runs t (.vover t o) (stk 3 2 3) u { vvals := [v 1] } ∧
    s.runs t (.vrot t o) (stk 4 3 3) u { vpops := 3, vvals := [v 1, v 0, v 2] } ∧
    s.runs t (.vnip t o) (stk 5 2 1) u { vpops := 2, vvals := [v 0] } ∧
    gives (.vsplat t b) { opc := 0xA5, opb := b, legal := opLow 3 b, din := 1, vout := 1 } 1
      (fun z => ∀ i < 512 / e, lane e z i = x.toNat % 2 ^ e) ∧
    s.runs t (.vpull t b) { opc := 0xA6, opb := b, legal := opLane b, dout := 1, vin := 1, vout := 1 } u
      { vals := [BitVec.ofNat 64 (lane w (v 0) (b.toNat % 64))], d := 3 } ∧
    (opLane b = true → gives (.vins t b) { opc := 0xA7, opb := b, legal := opLane b, din := 1, vin := 1, vout := 1 } 1
      (fun z => ∀ i < 512 / w, lane w z i = if i = b.toNat % 64 then x.toNat % 2 ^ w else lane w (v 0) i)) ∧
    gives (.vsel t b) { opc := 0xAE, opb := b, legal := opNone b, vin := 3, vout := 1 } 0
      (fun z => ∀ i, z.getLsbD i = if (v 0).getLsbD i then (v 2).getLsbD i else (v 1).getLsbD i) ∧
    gives (.vlogic t b)
      { opc := 0xAF, opb := b, legal := decide (b.toNat / 32 < 5) && b.toNat % 32 = 0,
        vin := if b.toNat / 32 = 4 then 1 else 2, vout := 1 } 0
      (fun z => ∀ i < 512, z.getLsbD i = match b.toNat / 32 with
        | 0 => (v 1).getLsbD i && (v 0).getLsbD i
        | 1 => (v 1).getLsbD i || (v 0).getLsbD i
        | 2 => (v 1).getLsbD i ^^ (v 0).getLsbD i
        | 3 => (v 1).getLsbD i && !(v 0).getLsbD i
        | _ => !(v 0).getLsbD i) ∧
    gives (.vshuf t b) { opc := 0xB3, opb := b, legal := fld b 0 6 = 0, vin := 2, vout := 1 } 0
      (fun z => ∀ i < 512 / w, lane w z i = lane w (v 1) (lane w (v 0) i % (512 / w))) ∧
    (b.toNat < 64 → gives (.vslide t b) { opc := 0xB4, opb := b, legal := opLow 6 b, vin := 2, vout := 1 } 0
      (fun z => ∀ i < 64, lane 8 z i = if b.toNat + i < 64 then lane 8 (v 1) (b.toNat + i) else lane 8 (v 0) (b.toNat + i - 64))) ∧
    s.runs t (.vstat t b) { opc := 0xB8, opb := b, legal := opNone b, dout := 1 } u
      { vals := [BitVec.ofNat 64 (y.vd + if y.port = 0 then 0 else 16)], d := 3 } ∧
    ∃ z, s.runs t (.vdot4 t b) { opc := 0xB9, opb := b, legal := b &&& 0xE7 == 0, vin := 3, vout := 1 } u
        { vpops := 3, vvals := [z], d := 3 } ∧
      ∀ i < 16, ((fld z (32 * i) 32 : Nat) : Int) = ((fld (v 0) (32 * i) 32 : Nat) +
        ((List.range 4).map fun k =>
          (if bit b 3 then (fld (v 2) (8 * (4 * i + k)) 8 : Int) else (BitVec.ofNat 8 (fld (v 2) (8 * (4 * i + k)) 8)).toInt) *
          (if bit b 4 then (fld (v 1) (8 * (4 * i + k)) 8 : Int)
            else (BitVec.ofNat 8 (fld (v 1) (8 * (4 * i + k)) 8)).toInt)).sum) % 2 ^ 32

/-- The vector instructions on integer lanes (R116 to R120): each lane's exact result wraps, or with S = 1 stands at the nearest
end of its range, signed or unsigned as U says; SAT is set where a lane has been clamped. Comparisons give lanes of ones. -/
def Obligations.VectorIntegerLanes : Prop :=
  ∀ (t : TileNo) (b : Byte) (s : State), 4 ≤ b.toNat % 8 →
    let u := s.boundary t 1
    let y := (u.tile t).vec
    let v (n : Nat) : Line := nth y.vs (y.vd - 1 - n) 0
    let w := 8 * elemBytes (b.toNat % 8)
    let fn := b.toNat / 32
    let lane (z : Line) (i : Nat) : Nat := fld z (w * i) w
    let num (n : Nat) : Int := if bit b 3 then n else (BitVec.ofNat w n).toInt
    let lo : Int := if bit b 3 then 0 else -(2 ^ (w - 1))
    let hi : Int := if bit b 3 then 2 ^ w - 1 else 2 ^ (w - 1) - 1
    let arg (k i : Nat) : Int := num (lane (v k) i)
    let op (c : Instr) (opc : Byte) (fns vin : Nat) (g : Nat → Int) : Prop :=
      ∃ z fl, s.runs t c { opc, opb := b, legal := opArith fns b, vin, vout := 1 } u
          { vpops := vin, vvals := [z], d := 3, flags := fl } ∧
        (bit b 4 = false → fl = 0 ∧ ∀ i < 512 / w, (lane z i : Int) = g i % 2 ^ w) ∧
        (bit b 4 = true → (∀ i < 512 / w, num (lane z i) = max lo (min hi (g i))) ∧
          (fl = 0x20 ∨ fl = 0) ∧ (fl = 0x20 ↔ ∃ i < 512 / w, g i < lo ∨ hi < g i))
    let pick (c : Instr) (opc : Byte) (legal : Bool) (is : Nat → Nat → Prop) : Prop :=
      ∃ z, s.runs t c { opc, opb := b, legal, vin := 2, vout := 1 } u { vpops := 2, vvals := [z], d := 3 } ∧
        ∀ i < 512 / w, is i (lane z i)
    op (.vadd t b) 0xA8 1 2 (fun i => arg 1 i + arg 0 i) ∧
    op (.vsub t b) 0xA9 1 2 (fun i => arg 1 i - arg 0 i) ∧
    op (.vmul t b) 0xAA 1 2 (fun i => arg 1 i * arg 0 i) ∧
    op (.vfma t b) 0xAB 1 3 (fun i => arg 2 i * arg 1 i + arg 0 i) ∧
    (fn = 0 → op (.vunary t b) 0xB5 2 1 (fun i => -arg 0 i)) ∧
    (fn = 1 → op (.vunary t b) 0xB5 2 1 (fun i => max (arg 0 i) (-arg 0 i))) ∧
    (fn % 2 = 0 → pick (.vminmax t b) 0xAC (opArith 4 b) (fun i z => num z = min (arg 1 i) (arg 0 i))) ∧
    (fn % 2 = 1 → pick (.vminmax t b) 0xAC (opArith 4 b) (fun i z => num z = max (arg 1 i) (arg 0 i))) ∧
    (fn < 4 → pick (.vcmp t b) 0xAD (opArith 4 b) (fun i z => z = 2 ^ w - 1 ∧ (match fn with
        | 0 => arg 1 i = arg 0 i
        | 1 => arg 1 i ≠ arg 0 i
        | 2 => arg 1 i < arg 0 i
        | _ => arg 1 i ≤ arg 0 i) ∨ z = 0 ∧ (match fn with
        | 0 => arg 1 i ≠ arg 0 i
        | 1 => arg 1 i = arg 0 i
        | 2 => arg 0 i ≤ arg 1 i
        | _ => arg 0 i < arg 1 i))) ∧
    (fn < 3 → pick (.vshift t b) 0xB0 (opArith 3 b && !isFp (fmtOf b)) (fun i z =>
      let n := lane (v 0) i % w
      match fn with
      | 0 => z = lane (v 1) i * 2 ^ n % 2 ^ w
      | 1 => z = lane (v 1) i / 2 ^ n
      | _ => (BitVec.ofNat w z).toInt = (BitVec.ofNat w (lane (v 1) i)).toInt / 2 ^ n)) ∧
    (fn = 0 → ∃ z, s.runs t (.vred t b) { opc := 0xB2, opb := b, legal := opArith 3 b, vin := 1, vout := 1 } u
        { vpops := 1, vvals := [z], d := 7 } ∧
      lane z 0 = ((List.range (512 / w)).map (lane (v 0))).sum % 2 ^ w ∧ ∀ i, 0 < i → i < 512 / w → lane z i = 0)

/-- The vector instructions on floating-point lanes (R57, R65, R80, R117, R119, R120): each lane is the format's operation on the
lanes of its operands, the flags are those of all lanes together, and an enabled one raises its exception at the landing. VCVT
and VRED likewise (R121, R122). The lane operations are the model's own, one for each format. -/
def Obligations.VectorFloatLanes : Prop :=
  ∀ (t : TileNo) (b : Byte) (s : State),
    let u := s.boundary t 1
    let x := u.tile t
    let v (n : Nat) : Line := nth x.vec.vs (x.vec.vd - 1 - n) 0
    let w := 8 * elemBytes (b.toNat % 8)
    let m := fpFormat (b.toNat % 8)
    let fn := b.toNat / 32
    let lane (z : Line) (i : Nat) : Nat := fld z (w * i) w
    let gives (c : Instr) (opc : Byte) (legal : Bool) (vin d : Nat) (z : Line) (fl : BitVec 7) : Prop :=
      let f : Form := { opc, opb := b, legal, vin, vout := 1 }
      (x.precise = false ∨ trapCode x.ctl.fcsr fl = none →
        s.runs t c f u { vpops := vin, vvals := [z], d, flags := fl, exc := trapCode x.ctl.fcsr fl }) ∧
      ∀ code, x.precise = true → trapCode x.ctl.fcsr fl = some code → s.traps t c f code (x.core.pc.setWidth 64)
    let op (c : Instr) (opc : Byte) (legal : Bool) (vin : Nat) (g : Nat → Nat × BitVec 7) : Prop :=
      ∃ z fl, gives c opc legal vin 3 z fl ∧ (∀ i < 512 / w, lane z i = (g i).1 % 2 ^ w) ∧
        ∀ j < 7, fl.getLsbD j = true ↔ ∃ i < 512 / w, (g i).2.getLsbD j = true
    (b.toNat % 8 < 4 →
      op (.vadd t b) 0xA8 (opArith 1 b) 2 (fun i => m.add (lane (v 1) i) (lane (v 0) i)) ∧
      op (.vsub t b) 0xA9 (opArith 1 b) 2 (fun i => m.sub (lane (v 1) i) (lane (v 0) i)) ∧
      op (.vmul t b) 0xAA (opArith 1 b) 2 (fun i => m.mul (lane (v 1) i) (lane (v 0) i)) ∧
      op (.vdiv t b) 0xBA (opArith 1 b && isFp (fmtOf b)) 2 (fun i => m.div (lane (v 1) i) (lane (v 0) i)) ∧
      op (.vfma t b) 0xAB (opArith 1 b) 3 (fun i => m.fma (lane (v 2) i) (lane (v 1) i) (lane (v 0) i)) ∧
      op (.vminmax t b) 0xAC (opArith 4 b) 2 (fun i => m.minmax fn (lane (v 1) i) (lane (v 0) i)) ∧
      op (.vcmp t b) 0xAD (opArith 6 b) 2 (fun i =>
        ((if (m.compare fn (lane (v 1) i) (lane (v 0) i)).1 then 2 ^ w - 1 else 0),
          (m.compare fn (lane (v 1) i) (lane (v 0) i)).2)) ∧
      (fn = 0 → op (.vunary t b) 0xB5 (opArith 4 b) 1 (fun i => (lane (v 0) i ^^^ 2 ^ (w - 1), 0))) ∧
      (fn = 1 → op (.vunary t b) 0xB5 (opArith 4 b) 1 (fun i => (lane (v 0) i % 2 ^ (w - 1), 0))) ∧
      (fn = 2 → op (.vunary t b) 0xB5 (opArith 4 b) 1 (fun i => m.sqrt (lane (v 0) i))) ∧
      (fn = 3 → op (.vunary t b) 0xB5 (opArith 4 b) 1 (fun i => m.recip (lane (v 0) i)))) ∧
    (∃ z fl, gives (.vcvt t b) 0xB1 ((cvtBits (fld b 0 4)).isSome && (cvtBits (fld b 4 4)).isSome) 1 3 z fl ∧
      ∀ src dst sb db, src = b.toNat / 16 → dst = b.toNat % 16 → cvtBits src = some sb → cvtBits dst = some db →
        let n := 512 / max sb db
        (∀ i < n, fld z (db * i) db = (cvtElement src dst (nosat x.ctl.fcsr) (fld (v 0) (sb * i) sb)).1 % 2 ^ db) ∧
        (∀ i, n * db ≤ i → i < 512 → z.getLsbD i = false) ∧ (src = dst → ∀ i < n, fld z (db * i) db = fld (v 0) (sb * i) sb)) ∧
    ∃ z fl, gives (.vred t b) 0xB2 (opArith 3 b) 1 7 z fl ∧ ∀ i, 0 < i → i < 512 / w → lane z i = 0

/-- The vector port (R33, R70, R118, R124, R125, R127, R183): VLD, VST, VGATHER and VSCATTER check their offsets, range before
alignment for a line and alignment before range for lanes; where they pass, each completes: VLD and VGATHER read at issue, and an
uncorrectable word raises LOCAL_DATA_ERROR, precisely under PRECISE; VST writes at issue; a VSCATTER's write is a result in flight
of distance 15, and writes its lanes together, in ascending order, where it is due. That a misaligned line which reaches past the
end of tile memory is out of range is the model's choice (log entry 128). -/
def Obligations.TheVectorPort : Prop :=
  ∀ (t : TileNo) (b : Byte) (s : State),
    let u := s.boundary t 1
    let x := u.tile t
    let v (n : Nat) : Line := nth x.vec.vs (x.vec.vd - 1 - n) 0
    let o : Word := x.core.entry 0
    let off := o + BitVec.ofInt 64 (b.toInt * 64)
    let base := tileMemBase t
    let fl : Form := { opc := 0xA0, opb := b, port := true, din := 1, vout := 1 }
    let fs : Form := { opc := 0xA1, opb := b, port := true, din := 1, vin := 1 }
    let fg : Form := { opc := 0xA2, opb := b, legal := opGather b, port := true, din := 1, vin := 1, vout := 1 }
    let fc : Form := { opc := 0xA3, opb := b, legal := opGather b, port := true, din := 1, vin := 2 }
    let w := 2 ^ b.toNat
    let place (i : Nat) : Nat := o.toNat + fld (v 0) (8 * w * i) (8 * w) * w
    let busy (z : State) : State := z.modTile t fun y => { y with vec := { y.vec with port := 16 } }
    let read : Gives := { pops := 1, vvals := [lineOf (u.portRead t off.toNat 64)], d := 3 }
    let met := u.portMeet t off.toNat 64
    let lanesMet := (List.range (64 / w)).foldl (fun (z : State) i => z.portMeet t (place i) w) u
    let lanesBad := (List.range (64 / w)).any fun i => u.portBad t (place i) w
    (0x40000 < off.toNat + 64 → s.traps t (.vld t b) fl 0x07 off ∧ s.traps t (.vst t b) fs 0x07 off) ∧
    (off.toNat + 64 ≤ 0x40000 → off.toNat % 64 ≠ 0 → s.traps t (.vld t b) fl 0x06 off ∧ s.traps t (.vst t b) fs 0x06 off) ∧
    (off.toNat + 64 ≤ 0x40000 → off.toNat % 64 = 0 →
      met.mem = u.mem ∧
      (u.portBad t off.toNat 64 = false ∨ x.precise = false → s.issues t fl → ∃ s', exec (.vld t b) s = .next s' ∧
        Ran met s' t fl .seq { read with exc := if u.portBad t off.toNat 64 then some 0x1C else none }) ∧
      (u.portBad t off.toNat 64 = true → x.precise = true → s.trapsAt t (.vld t b) fl met 0x1C (x.core.pc.setWidth 64)) ∧
      (u.memOk → s.issues t fs → ∃ s' z, exec (.vst t b) s = .next s' ∧ Ran z s' t fs .seq { pops := 1, vpops := 1 } ∧
        (∀ i < 64, z.byteAt (base + off.toNat + i) = (v 0).extractLsb' (8 * i) 8) ∧
        ∀ a, a < base + off.toNat ∨ base + off.toNat + 64 ≤ a → z.byteAt a = u.byteAt a)) ∧
    (b = 2 ∨ b = 3 →
      (o.toNat % w ≠ 0 → s.traps t (.vgather t b) fg 0x06 o ∧ s.traps t (.vscatter t b) fc 0x06 o) ∧
      (∀ i < 64 / w, o.toNat % w = 0 → (∀ j < i, place j + w ≤ 0x40000) → 0x40000 < place i + w →
        s.traps t (.vgather t b) fg 0x32 (BitVec.ofNat 64 (place i)) ∧
        s.traps t (.vscatter t b) fc 0x32 (BitVec.ofNat 64 (place i))) ∧
      (o.toNat % w = 0 → (∀ i < 64 / w, place i + w ≤ 0x40000) →
        lanesMet.mem = u.mem ∧
        (lanesBad = false ∨ x.precise = false → s.issues t fg → ∃ s' z, exec (.vgather t b) s = .next s' ∧
          Ran (busy lanesMet) s' t fg .seq
            { pops := 1, vpops := 1, vvals := [z], d := 19, exc := if lanesBad then some 0x1C else none } ∧
          ∀ i < 64 / w, fld z (8 * w * i) (8 * w) = leNat (u.portRead t (place i) w)) ∧
        (lanesBad = true → x.precise = true → s.trapsAt t (.vgather t b) fg lanesMet 0x1C (x.core.pc.setWidth 64)) ∧
        (s.issues t fc → ∃ s' z ls, exec (.vscatter t b) s = .next s' ∧ Ran z s' t fc .seq { pops := 1, vpops := 2 } ∧
          z = u.modTile t (fun y => { y with
            vec := { y.vec with port := 16 }
            core := { y.core with flight := y.core.flight ++
              [{ ord := y.core.issued, rem := 16, dest := .scatter ls, flags := 0, exc := none, pc := y.core.pc }] } }) ∧
          ls.length = 64 / w ∧ ∀ i l, ls[i]? = some l → l.1 = place i ∧ l.2.length = w ∧
            leNat l.2 = fld (v 1) (8 * w * i) (8 * w)))) ∧
    (∀ (f : Flight) (ls : List (Nat × List Byte)), (s.tile t).core.flight = [f] → f.dest = .scatter ls → f.rem = 0 →
      s.memOk → ∃ s', exec (.vscatterWrite t) s = .next s' ∧ (s'.tile t).core.flight = [] ∧
        (∀ (i a : Nat) (bs : List Byte), ls[i]? = some (a, bs) →
          (∀ (j c : Nat) (cs : List Byte), i < j → ls[j]? = some (c, cs) → c + cs.length ≤ a ∨ a + bs.length ≤ c) →
          ∀ n (h : n < bs.length), s'.byteAt (base + a + n) = bs[n]) ∧
        ∀ c : Nat, (∀ l ∈ ls, c < base + l.1 ∨ base + l.1 + l.2.length ≤ c) → s'.byteAt c = s.byteAt c)

/-- VCOPY and VFILL (R49, R70, R124, R126): a line beyond tile memory raises LOCAL_RANGE, the destination's first, then a
misaligned offset MISALIGN; else the lines are copied in ascending order, or filled with x, and every other byte stays: at once
where no interrupt may come to the tile, and else as the tile holds the instruction and goes on (log entry 133). -/
def Obligations.LinesAreCopiedAndFilled : Prop :=
  ∀ (t : TileNo) (b : Byte) (s : State),
    let w := (s.boundary t 1).drain t
    let arg (i : Nat) : Word := (w.tile t).core.entry i
    let n := (arg 0).toNat
    let f (opc : Byte) : Form := { opc, opb := b, legal := opNone b, din := 3 }
    let base := tileMemBase t
    let far (a : Word) : Prop := n ≠ 0 ∧ 0x40000 < a.toNat + 64 * n
    let copied (z v : State) (dst src n : Nat) : Prop := v.memOk ∧
      (dst ≤ src ∨ src + 64 * n ≤ dst → ∀ i < 64 * n, v.byteAt (base + dst + i) = z.byteAt (base + src + i)) ∧
      ∀ a, a < base + dst ∨ base + dst + 64 * n ≤ a → v.byteAt a = z.byteAt a
    let filled (z v : State) (dst n : Nat) (x : Word) : Prop := v.memOk ∧
      (∀ i < 64 * n, (v.byteAt (base + dst + i)).toNat = x.toNat / 2 ^ (8 * (i % 8)) % 256) ∧
      ∀ a, a < base + dst ∨ base + dst + 64 * n ≤ a → v.byteAt a = z.byteAt a
    let atOnce : Prop := (w.tile t).interruptible = false ∨ n = 0
    let later (c : Instr) (opc : Byte) : Prop := (w.tile t).interruptible = true → n ≠ 0 → s.issues t (f opc) →
      exec c s = .next (w.setDoing t (.long opc b))
    (w.memOk → (w.tile t).gmem.mb = [] →
      (far (arg 2) → ∃ v, s.trapsAt t (.vcopy t b) (f 0xB6) w 0x07 v) ∧
      (¬far (arg 2) → far (arg 1) → ∃ v, s.trapsAt t (.vcopy t b) (f 0xB6) w 0x07 v) ∧
      (¬far (arg 2) → ¬far (arg 1) → (arg 2).toNat % 64 ≠ 0 → s.trapsAt t (.vcopy t b) (f 0xB6) w 0x06 (arg 2)) ∧
      (¬far (arg 2) → ¬far (arg 1) → (arg 2).toNat % 64 = 0 → (arg 1).toNat % 64 ≠ 0 →
        s.trapsAt t (.vcopy t b) (f 0xB6) w 0x06 (arg 1)) ∧
      (¬far (arg 2) → ¬far (arg 1) → (arg 2).toNat % 64 = 0 → (arg 1).toNat % 64 = 0 → later (.vcopy t b) 0xB6) ∧
      (¬far (arg 2) → ¬far (arg 1) → (arg 2).toNat % 64 = 0 → (arg 1).toNat % 64 = 0 → w.marks = [] → atOnce →
        s.effects t (.vcopy t b) (f 0xB6) { pops := 3 } fun v =>
          (v.tile t).core = (w.tile t).core ∧ copied w v (arg 2).toNat (arg 1).toNat n) ∧
      (far (arg 1) → ∃ v, s.trapsAt t (.vfill t b) (f 0xB7) w 0x07 v) ∧
      (¬far (arg 1) → (arg 1).toNat % 64 ≠ 0 → s.trapsAt t (.vfill t b) (f 0xB7) w 0x06 (arg 1)) ∧
      (¬far (arg 1) → (arg 1).toNat % 64 = 0 → later (.vfill t b) 0xB7) ∧
      (¬far (arg 1) → (arg 1).toNat % 64 = 0 → atOnce →
        s.effects t (.vfill t b) (f 0xB7) { pops := 3 } fun v =>
          (v.tile t).core = (w.tile t).core ∧ filled w v (arg 1).toNat n (arg 2))) ∧
    (let on (i : Nat) : Word := (s.tile t).core.entry i
     s.unfrozen t = true → s.memOk → (s.tile t).gmem.mb = [] → s.marks = [] → (on 0).toNat ≠ 0 →
      ((s.tile t).longIn = some (0xB6, b) → (on 1).toNat + 64 * (on 0).toNat ≤ 0x40000 →
        (on 2).toNat + 64 * (on 0).toNat ≤ 0x40000 → ∃ v, Ran v (s.finishLines t) t (heldForm 0xB6 b) .seq { pops := 3 } ∧
          (v.tile t).core = (s.tile t).core ∧ copied s v (on 2).toNat (on 1).toNat (on 0).toNat) ∧
      ((s.tile t).longIn = some (0xB7, b) → (on 1).toNat + 64 * (on 0).toNat ≤ 0x40000 →
        ∃ v, Ran v (s.finishLines t) t (heldForm 0xB7 b) .seq { pops := 3 } ∧
          (v.tile t).core = (s.tile t).core ∧ filled s v (on 1).toNat (on 0).toNat (on 2)))

/-! ## The tile matrix unit (R128 to R141) -/

/-- The TMU's own instructions (R128 to R134, R140, R141): TCFG and TCFGR, TSTAT, whose read clears SAT, TMMA, which captures
TCFG, checks it and waits for a place in the array queue (one whose exception PRECISE makes precise waits until the queue is
empty and runs at its issue, R80, log entry 127), and those that wait until the queue is empty: TPULL, TVEC, TSTA and
TLDA. -/
def Obligations.MatrixUnitInstructions : Prop :=
  ∀ (t : TileNo) (b : Byte) (s : State),
    let u := s.boundary t 1
    let m := (u.tile t).tmu
    let x : Word := (u.tile t).core.entry 0
    let w := u.drain t
    let n := (w.tile t).tmu
    let a : Word := (w.tile t).core.entry 0
    let unit (v : State) (f : Tmu → Tmu) : State := v.modTile t fun y => { y with tmu := f y.tmu }
    let ft : Form := { opc := 0xC4, opb := b, legal := opLow 7 b }
    let waits (c : Instr) (f : Form) : Prop :=
      n.queue ≠ [] → s.issues t f → exec c s = .next (w.setDoing t (.wait f.opc f.opb))
    let fp : Form := { opc := 0xC5, opb := b, legal := opLow 7 b, dout := 1 }
    let fv : Form := { opc := 0xC9, opb := b, legal := opLow 2 b, vout := 1 }
    let fs : Form := { opc := 0xC6, opb := b, legal := opNone b, din := 1 }
    let fl : Form := { opc := 0xC7, opb := b, legal := opNone b, din := 1 }
    let inside : Prop := a.toNat + 256 ≤ 0x40000 ∧ a.toNat % 64 = 0
    s.runs t (.tcfg t b) { opc := 0xC0, opb := b, legal := opNone b, din := 1 }
      (unit u fun y => { y with tcfg := BitVec.ofNat 64 (x.toNat % 2 ^ 48) }) { pops := 1 } ∧
    s.runs t (.tcfgr t b) { opc := 0xC1, opb := b, legal := opNone b, dout := 1 } u { vals := [m.tcfg], d := 3 } ∧
    s.runs t (.tstat t b) { opc := 0xC8, opb := b, legal := opNone b, dout := 1 } (unit u fun y => { y with sat := false })
      { vals := [BitVec.ofNat 64 (m.queue.length + 8 * (m.queue.any (·.started)).toNat + 16 * m.sat.toNat)], d := 3 } ∧
    (cfgBad n.tcfg = true → s.trapsAt t (.tmma t b) ft w 0x38 n.tcfg) ∧
    (cfgBad n.tcfg = false → n.queue.length < 4 → (w.tile t).tmmaTraps = false → ∃ k : Tmma,
      s.runs t (.tmma t b) ft (unit w fun y => { y with queue := y.queue ++ [k] }) {} ∧ k.cfg = n.tcfg ∧
        k.a.toNat = b.toNat % 8 ∧ k.b.toNat = b.toNat / 8 % 8 ∧ k.z = bit b 6 ∧ k.started = false) ∧
    (cfgBad n.tcfg = false → 4 ≤ n.queue.length ∨ ((w.tile t).tmmaTraps = true ∧ n.queue ≠ []) → s.issues t ft →
      exec (.tmma t b) s = .next (w.setDoing t (.wait 0xC4 b))) ∧
    (cfgBad n.tcfg = false → (w.tile t).tmmaTraps = true → n.queue = [] →
      let k := (w.tile t).tmma b
      let r := n.multiply k
      (∀ code, trapCode (w.tile t).ctl.fcsr r.2 = some code →
        s.trapsAt t (.tmma t b) ft w code ((w.tile t).core.pc.setWidth 64)) ∧
      (trapCode (w.tile t).ctl.fcsr r.2 = none →
        s.runs t (.tmma t b) ft ((w.tmmaDone t k r.1 []).modTile t fun y => y.idle k.cycles) { flags := r.2 })) ∧
    waits (.tpull t b) fp ∧ waits (.tvec t b) fv ∧
    (n.queue = [] → ∃ z, s.runs t (.tpull t b) fp w { vals := [z], d := 3 } ∧
      (bit b 6 = true → z.toInt = (nth n.acc (b.toNat % 64) 0).toInt) ∧
      (bit b 6 = false → z.toNat = (nth n.acc (b.toNat % 64) 0).toNat)) ∧
    (n.queue = [] → ∃ z, s.runs t (.tvec t b) fv w { vvals := [z], d := 3 } ∧
      ∀ i < 16, fld z (32 * i) 32 = (nth n.acc (16 * (b.toNat % 4) + i) 0).toNat) ∧
    (0x40000 < a.toNat + 256 → ∃ v, s.trapsAt t (.tsta t b) fs w 0x07 v ∧ s.trapsAt t (.tlda t b) fl w 0x07 v) ∧
    (a.toNat + 256 ≤ 0x40000 → a.toNat % 64 ≠ 0 →
      s.trapsAt t (.tsta t b) fs w 0x06 a ∧ s.trapsAt t (.tlda t b) fl w 0x06 a) ∧
    (inside → waits (.tsta t b) fs ∧ waits (.tlda t b) fl) ∧
    (inside → n.queue = [] → w.memOk → ∃ v, s.runs t (.tsta t b) fs v { pops := 1 } ∧
      (∀ i < 256, (v.byteAt (tileMemBase t + a.toNat + i)).toNat = (nth n.acc (i / 4) 0).toNat / 2 ^ (8 * (i % 4)) % 256) ∧
      ∀ c, c < tileMemBase t + a.toNat ∨ tileMemBase t + a.toNat + 256 ≤ c → v.byteAt c = w.byteAt c) ∧
    (inside → n.queue = [] → w.marks = [] → ∃ acc, s.runs t (.tlda t b) fl (unit w fun y => { y with acc }) { pops := 1 } ∧
      ∀ i < 64, (nth acc i 0).toNat = leNat (((w.portRead t a.toNat 256).drop (4 * i)).take 4))

/-- TLOAD and TSTORE of tile memory move rows TSTART to ROWSM1, each at STRIDE from the one before, and clear TSTART; a row
beyond tile memory and a misaligned address or STRIDE raise their exceptions; a TLOAD of a register that the array queue reads
waits. Where an interrupt may come to the tile, it holds the instruction first and then goes on (log entry 133). A TLOAD of
global memory takes a row that the cache holds, or asks for it and holds issue; each row is written as it arrives and the last
ends it. A TSTORE to global memory puts its rows into the merging buffer. One row stands for all here (R70, R133, R136, R137,
R217). -/
def Obligations.TileRegistersMoveByRows : Prop :=
  ∀ (t : TileNo) (b : Byte) (s : State),
    let w := (s.boundary t 1).drain t
    let x := w.tile t
    let a : Word := x.core.entry 0
    let c := x.tmu.tcfg
    let last := fld c 17 3
    let stride := fld c 20 28
    let reg := b.toNat % 8
    let first := if bit x.ctl.tstart 3 then fld x.ctl.tstart 0 3 else 0
    let fl : Form := { opc := 0xC2, opb := b, legal := opLow 4 b, din := 1 }
    let fs : Form := { opc := 0xC3, opb := b, legal := opLow 4 b, din := 1 }
    let addr (r : Nat) : Nat := a.toNat + r * stride
    let moves (r : Nat) : Prop := first ≤ r ∧ r ≤ last
    let fits : Prop := a.toNat % 64 = 0 ∧ stride % 64 = 0 ∧ ∀ r, moves r → addr r + 64 ≤ 0x40000
    let idle : Prop := ∀ m ∈ x.tmu.queue, m.a.toNat ≠ reg ∧ m.b.toNat ≠ reg
    let atOnce : Prop := x.interruptible = false ∨ last < first
    let loaded (v : State) : Prop := (v.tile t).ctl.tstart = 0 ∧ v.mem = w.mem ∧ nth (v.tile t).tmu.latch reg none = none ∧
      (∀ r, moves r → (v.tile t).tmu.row reg r = lineOf (w.portRead t (addr r) 64)) ∧
      (∀ q r, q ≠ reg ∨ ¬moves r → (v.tile t).tmu.row q r = x.tmu.row q r) ∧ (v.tile t).tmu.acc = x.tmu.acc
    let stored (z v : State) : Prop := (v.tile t).ctl.tstart = 0 ∧
      (64 ≤ stride → ∀ r i, moves r → i < 64 →
        v.byteAt (tileMemBase t + addr r + i) = (x.tmu.row reg r).extractLsb' (8 * i) 8) ∧
      ∀ k, (∀ r, moves r → k < tileMemBase t + addr r ∨ tileMemBase t + addr r + 64 ≤ k) → v.byteAt k = z.byteAt k
    (b.toNat < 8 →
      (∀ r, moves r → 0x40000 < addr r + 64 → (∀ q, moves q → q < r → addr q + 64 ≤ 0x40000) →
        s.trapsAt t (.tload t b) fl w 0x07 (a + BitVec.ofNat 64 (r * stride)) ∧
        s.trapsAt t (.tstore t b) fs w 0x07 (a + BitVec.ofNat 64 (r * stride))) ∧
      ((∀ r, moves r → addr r + 64 ≤ 0x40000) → a.toNat % 64 ≠ 0 →
        s.trapsAt t (.tload t b) fl w 0x06 a ∧ s.trapsAt t (.tstore t b) fs w 0x06 a) ∧
      (fits → ¬idle → s.issues t fl → exec (.tload t b) s = .next (w.setDoing t (.wait 0xC2 b))) ∧
      (fits → idle → w.marks = [] → atOnce → s.issues t fl → ∃ s' v, exec (.tload t b) s = .next s' ∧
        Ran v s' t fl .seq { pops := 1 } ∧ loaded v) ∧
      (fits → idle → w.marks = [] → ¬atOnce → s.issues t fl → ∃ h v, exec (.tload t b) s = .next h ∧
        w.stalls h t (.long 0xC2 b) ∧ Ran v (h.finishLines t) t (heldForm 0xC2 b) .seq { pops := 1 } ∧ loaded v) ∧
      (fits → w.memOk → atOnce → s.issues t fs → ∃ s' v, exec (.tstore t b) s = .next s' ∧
        Ran v s' t fs .seq { pops := 1 } ∧ (v.tile t).tmu = x.tmu ∧ stored w v) ∧
      (fits → w.memOk → ¬atOnce → s.issues t fs →
        let h := w.setDoing t (.long 0xC3 b)
        exec (.tstore t b) s = .next h ∧
          ∃ v, Ran v (h.finishLines t) t (heldForm 0xC3 b) .seq { pops := 1 } ∧ stored w v)) ∧
    (8 ≤ b.toNat → b.toNat < 16 → a.toNat % 64 = 0 → stride % 64 = 0 → first = last →
      let va := a + BitVec.ofNat 64 (last * stride)
      (∀ e, idle → x.mapped va kLoad e → (∀ r ∈ w.reqs, r.tile = t → ∀ i, r.kind ≠ .row i) →
        let city := e.addr va.toNat
        let free := w.acqMet t x.gmem.acqE x.gmem.seq && w.fenMet t x.gmem.fenE
        (∀ l, x.den = true → w.cacheable t city e.nc = true → free = true → cacheFind x.gmem.dcache (city / 64) = some l →
          s.issues t fl → ∃ s' v, exec (.tload t b) s = .next s' ∧ Ran v s' t fl .seq { pops := 1 } ∧
            (v.tile t).tmu.row reg last = l.data ∧ (v.tile t).ctl.tstart = 0 ∧ v.mem = w.mem) ∧
        (x.den = false ∨ w.cacheable t city e.nc = false → w.ownMem t city = false → s.issues t fl →
          ∃ s', exec (.tload t b) s = .next s' ∧ w.stalls s' t (.long 0xC2 b) ∧
            ∃ r ∈ s'.reqs, r.kind = .row last ∧ r.addr = city ∧ r.tile = (t : Nat) ∧ r.st = .sent)) ∧
      (∀ e, x.mapped va kStore e → x.interruptible = false → x.gmem.mb.length < 8 →
        e.addr va.toNat % 64 = 0 → (∀ m ∈ x.gmem.mb, m.line ≠ e.addr va.toNat / 64) → s.issues t fs →
        ∃ s' v m, exec (.tstore t b) s = .next s' ∧ Ran v s' t fs .seq { pops := 1 } ∧ (v.tile t).ctl.tstart = 0 ∧
          v.mem = w.mem ∧ (v.tile t).gmem.mb.getLast? = some m ∧ m.line = e.addr va.toNat / 64 ∧
          m.mask = BitVec.allOnes 64 ∧ m.data = x.tmu.row reg last ∧ m.drain = true)) ∧
    (∀ q data, (s.tile t).longIn = some (0xC2, b) → (s.tile t).firstRow = cfgRows (s.tile t).tmu.tcfg →
      (s.reqs.find? fun q => q.tile = t.val && q.kind == .row (s.tile t).firstRow && q.performed) = some q →
      q.st = .done data false →
      ∃ v s', exec (.tloadRowArrives t) s = .next s' ∧ Ran v s' t (heldForm 0xC2 b) .seq { pops := 1 } ∧
        (v.tile t).tmu.row reg (s.tile t).firstRow = data ∧ (v.tile t).ctl.tstart = 0 ∧ v.mem = s.mem ∧
        (v.tile t).core = (s.tile t).core)

/-- The array (R131, R132, R135): the oldest TMMA starts; as it finishes the accumulator holds, for each used row of A and B, the
sum of the products along K over what stood there, or over 0 with Z, for integer elements of which at least one side is signed and
as long as no partial sum leaves the word's range; its registers are latched, and every other word of the accumulator stays, or is
0 with Z. -/
def Obligations.TheArrayMultiplies : Prop :=
  ∀ (t : TileNo) (m : Tmma) (rest : List Tmma) (s : State),
    let x := s.tile t
    let u := x.tmu
    let old (k : Nat) : BitVec 32 := if m.z then 0 else nth u.acc k 0
    let term (i j k : Nat) : Int :=
      (if fld m.cfg 0 2 = 1 then (fld (u.row m.a.toNat i) (8 * k) 8 : Int)
        else (BitVec.ofNat 8 (fld (u.row m.a.toNat i) (8 * k) 8)).toInt) *
      (if fld m.cfg 2 2 = 1 then (fld (u.row m.b.toNat j) (8 * k) 8 : Int)
        else (BitVec.ofNat 8 (fld (u.row m.b.toNat j) (8 * k) 8)).toInt)
    u.queue = m :: rest →
      (m.started = false → exec (.tmmaStart t) s = .next (s.modTile t fun y => { y with tmu :=
        { y.tmu with queue := { m with started := true } :: rest } })) ∧
      (m.started = true → x.waitsIn = none → ∃ s', exec (.tmmaFinish t) s = .next s' ∧
        (s'.tile t).tmu.queue = rest ∧ (s'.tile t).tmu.tr = u.tr ∧ s'.mem = s.mem ∧
        (s'.tile t).core.ds = x.core.ds ∧ (s'.tile t).core.d = x.core.d ∧ (s'.tile t).core.pc = x.core.pc ∧
        nth (s'.tile t).tmu.latch m.b.toNat none = some (fld m.cfg 7 3) ∧
        (m.a ≠ m.b → nth (s'.tile t).tmu.latch m.a.toNat none = some (fld m.cfg 4 3)) ∧
        (∀ i j, i < 8 → j < 8 → fld m.cfg 4 3 < i ∨ fld m.cfg 7 3 < j → nth (s'.tile t).tmu.acc (8 * i + j) 0 = old (8 * i + j)) ∧
        ∀ i j, i ≤ fld m.cfg 4 3 → j ≤ fld m.cfg 7 3 → fld m.cfg 0 2 = 0 ∧ fld m.cfg 2 2 < 2 ∨ fld m.cfg 0 2 = 1 ∧ fld m.cfg 2 2 = 0 →
          let part (k : Nat) : Int := (old (8 * i + j)).toInt + ((List.range k).map (term i j)).sum
          (∀ k ≤ fld m.cfg 10 7, -(2 ^ 31) ≤ part k ∧ part k < 2 ^ 31) →
          (nth (s'.tile t).tmu.acc (8 * i + j) 0).toInt = part (fld m.cfg 10 7))

/-! ## The stags (R142 to R171) -/

/-- The stag's instructions (R144 to R147, R153, R154, R168, R170, R171): SGO checks its offset and the floor plan and queues a
copy of the record, or is refused with 16 in the queue; SSTAT and SCTR read; SCTRCLR clears; SCANCEL empties the queue and writes
each command's status with ERRC = CANCELLED. -/
def Obligations.StagInstructions : Prop :=
  ∀ (t : TileNo) (b : Byte) (s : State),
    let u := s.boundary t 1
    let k := blockOf t
    let g := (u.block k).stag
    let place : Word := (u.tile t).core.entry 0
    let fg : Form := { opc := 0xD0, opb := b, legal := opNone b, din := 1, dout := 1 }
    (0x3FFC0 < place.toNat → s.traps t (.sgo t b) fg 0x07 place) ∧
    (place.toNat ≤ 0x3FFC0 → place.toNat % 64 ≠ 0 → s.traps t (.sgo t b) fg 0x06 place) ∧
    (place.toNat ≤ 0x3FFC0 → place.toNat % 64 = 0 → u.sq.fp.stags.contains k = true →
      s.traps t (.sgo t b) fg 0x40 (BitVec.ofNat 64 k)) ∧
    (place.toNat ≤ 0x3FFC0 → place.toNat % 64 = 0 → u.sq.fp.stags.contains k = false →
      (16 ≤ g.queue.length → s.runs t (.sgo t b) fg (u.modStag k fun y => { y with ctrs := y.ctrs.setIfInBounds 6 (satInc (nth y.ctrs 6 0)) })
        { pops := 1, vals := [0], d := 3 }) ∧
      (g.queue.length < 16 → s.effects t (.sgo t b) fg { pops := 1, vals := [1], d := 3 } fun v =>
        v.mem = u.mem ∧ (v.tile t).core = (u.tile t).core ∧ ∃ c : StagCmd,
          (v.block k).stag = { g with queue := g.queue ++ [c], rot := (tileIn t + 1) % 16 } ∧
          (u.marks = [] → v = u.modStag k fun y => { y with queue := y.queue ++ [c], rot := (tileIn t + 1) % 16 }) ∧
          c.off = place.toNat ∧ c.tile = t ∧ c.part = (u.tile t).part ∧
          c.bad = (unitsOf 8 (tileMemBase t + place.toNat) 56).any (fun a => u.badWord a) ∧
          ∀ i < 7, nth c.words i 0 = u.wordAt (tileMemBase t + place.toNat + 8 * i))) ∧
    (∃ z, s.runs t (.sstat t b) { opc := 0xD1, opb := b, legal := opNone b, dout := 1 } u { vals := [z], d := 3 } ∧
      (g.queue.length ≤ 16 → (∀ r, g.run = some r → r.s < 8) →
        fld z 0 5 = g.queue.length ∧ bit z 5 = g.run.isSome ∧ bit z 6 = g.paused ∧ bit z 7 = u.sq.fp.stags.contains k ∧
        ∀ c r, g.queue.head? = some c → g.run = some r →
          fld z 8 4 = c.tile % 16 ∧ fld z 16 16 = r.srow % 65536 ∧ fld z 32 18 = r.otile % 2 ^ 18)) ∧
    s.runs t (.sctr t b) { opc := 0xD2, opb := b, legal := opLow 4 b, dout := 1 } u
      { vals := [nth g.ctrs b.toNat 0], d := 3 } ∧
    s.runs t (.sctrclr t b) { opc := 0xD3, opb := b, legal := opNone b, sup := true }
      (u.modStag k fun y => { y with ctrs := Vector.replicate 16 0 }) {} ∧
    ∃ v, s.runs t (.scancel t b) { opc := 0xD4, opb := b, legal := opNone b, sup := true, dout := 1 } v
        { vals := [BitVec.ofNat 64 g.queue.length], d := 3 } ∧
      (v.block k).stag.queue = [] ∧ (v.block k).stag.run = none ∧ (v.block k).tops = (u.block k).tops ∧
      (v.tile t).core = (u.tile t).core ∧
      ∀ c, g.queue = [c] → u.memOk → (∀ i < 8, u.access c.who (tileMemBase c.tile + c.off + 0x38 + i) = .serve) →
        fld (v.wordAt (tileMemBase c.tile + c.off + 0x38)) 0 6 = 43 ∧
        ∀ a, a < tileMemBase c.tile + c.off + 0x38 ∨ tileMemBase c.tile + c.off + 0x40 ≤ a → v.byteAt a = u.byteAt a

/-- What a stag does with the command at the head of its queue (R110, R143, R152, R153, R154, R159, R160, R165, R167): it checks
it, admits its K rows pass by pass, writes each output tile, and completes it; a 16-bit overflow restarts the tile with a
larger shift; an uncorrectable error ends the command; the Square holds and resumes it. A command of one element (R109, R142,
R150, R152, R161): with signed INT8 operands, 32-bit accumulation and an INT32 output in the block store or a tile memory, its
output word is the dot product of its K elements of A and B. -/
def Obligations.StagsRunTheirCommands : Prop :=
  (∀ (k : BlockNo) (c : StagCmd) (rest : List StagCmd) (s : State),
    let g := (s.block k).stag
    let w := c.words
    let status := tileMemBase c.tile + c.off + 0x38
    let held (v : State) (r : StagRun) : Prop := (v.block k).stag.queue = g.queue ∧ (v.block k).stag.run = some r
    g.queue = c :: rest → s.stagHeld k = false →
      (g.run = none → s.relMet c.tile c.relE = true → s.fenMet c.tile c.fenE = true →
        ∃ s' r, exec (.stagCommandStart k) s = .next s' ∧ held s' r ∧ s'.mem = s.mem ∧ s'.tiles = s.tiles ∧
          r.srow = 0 ∧ r.otile = 0 ∧ r.cells = [] ∧
          (c.bad = true → r.err = some 9) ∧
          (c.bad = false → 0xB < recFld w 0 0 4 ∨ 0xB < recFld w 0 4 4 → r.err = some 1) ∧
          (c.bad = false → recFld w 0 0 4 < 4 → recFld w 0 4 4 < 4 → recFld w 0 12 3 = 4 → recFld w 0 16 2 = 0 →
            recFld w 1 0 16 = 0 ∨ recFld w 1 16 16 = 0 ∨ recFld w 1 32 16 = 0 → r.err = some 3)) ∧
      ∀ r, g.run = some r →
        (r.err = none → r.otile < recTiles w → s.clean → recAcc16 w = false → (r.srow / 8192 + 1) * 8192 < recK w →
          ∃ s' r', exec (.stagPassBoundary k) s = .next s' ∧ held s' r' ∧ s'.mem = s.mem ∧
            r'.srow = (r.srow / 8192 + 1) * 8192 ∧ r'.otile = r.otile ∧ r'.err = none) ∧
        (r.err = none → r.otile < recTiles w → s.clean →
          (∀ job, s.job k = some job →
            job.abandons (s.stagAdvance k job (recK w)).2 = true → ∃ s' r', exec (.stag16bitOverflow k) s = .next s' ∧ held s' r' ∧
              s'.mem = s.mem ∧ r'.s = r.s + 1 ∧ r'.srow = 0 ∧ r'.cells = [] ∧ r'.otile = r.otile ∧
              r'.flags.replays = satInc r.flags.replays ∧ r'.flags.fallback = r.flags.fallback) ∧
          (∀ job, s.job k = some job →
            job.abandons (s.stagAdvance k job (recK w)).2 = false → ∃ s' r', exec (.stagOutputTileDone k) s = .next s' ∧
              held s' r' ∧ r'.otile = r.otile + 1 ∧ r'.srow = 0 ∧ r'.cells = [] ∧ r'.err = none ∧
                (recAcc16 w = true → r.s = 5 → r'.flags.fallback = true)) ∧
          (∃ s' r', exec (.stagDataError k) s = .next s' ∧ held s' r' ∧ r'.err = some 9 ∧ r'.otile = r.otile ∧ s'.mem = s.mem)) ∧
        (r.err ≠ none ∨ recTiles w ≤ r.otile → s.memOk → (∀ i < 8, s.access c.who (status + i) = .serve) →
          ∃ s', exec (.stagCommandComplete k) s = .next s' ∧ (s'.block k).stag.queue = rest ∧ (s'.block k).stag.run = none ∧
            (∀ a, a < status ∨ status + 8 ≤ a → s'.byteAt a = s.byteAt a) ∧
            (r.err = none → fld (s'.wordAt status) 0 6 = 1) ∧
            (∀ e, r.err = some e → e ≠ 0 → fld (s'.wordAt status) 0 6 = 3 + 4 * e.toNat ∧
              bit (s'.tile c.tile).ctl.errpend 0 = true) ∧
            bit (s'.wordAt status) 6 = r.flags.nv ∧ bit (s'.wordAt status) 7 = r.flags.of ∧
            bit (s'.wordAt status) 8 = r.flags.uf ∧ bit (s'.wordAt status) 9 = r.flags.nx ∧
            bit (s'.wordAt status) 10 = r.flags.sat ∧ fld (s'.wordAt status) 16 16 = r.flags.replays.toNat ∧
            (recFld w 0 24 8 = 0 → (s'.block k).tops = (s.block k).tops) ∧
            (recFld w 0 24 8 ≠ 0 → ∃ o, (s'.block k).tops = (s.block k).tops ++ [o] ∧ o.i = recFld w 0 18 6 ∧
              o.op = .add (BitVec.ofNat 32 (recFld w 0 24 8)) .stag)) ∧
        (∀ row, r.err = none → r.otile < recTiles w → s.clean → recAcc16 w = false → r.srow ≤ row.toNat →
          row.toNat < recK w → ∃ s' r', exec (.stagPreempt k row) s = .next s' ∧ held s' r' ∧ r'.srow = row.toNat ∧
            r'.otile = r.otile ∧ (s'.block k).stag.paused = true ∧ s'.mem = s.mem ∧
            (s'.curfew = false → (∀ x ∈ s'.sq.spots, x.running = false) →
              exec (.stagResume k) s' = .next (s'.modStag k fun y => { y with paused := false })))) ∧
  (∀ (k : BlockNo) (c : StagCmd) (rest : List StagCmd) (r : StagRun) (s : State),
    let g := (s.block k).stag
    let w := c.words
    let el (word : Nat) (i : Nat) : Nat := stagAddr k (recFld w word 0 32) (i * recFld w word 32 24)
    let out := el 5 0
    let int8 (a : Nat) : Int := (s.byteAt a).toInt
    g.queue = c :: rest → g.run = some r → s.stagHeld k = false →
      r.err = none → r.otile = 0 → r.srow = 0 → r.s = 0 → r.cells = [] → s.clean → s.memOk →
      recFld w 0 0 18 = 0x4000 → recM w = 1 → recN w = 1 → 0 < recK w →
      (∀ i < recK w, s.access c.who (el 2 i) = .serve ∧ s.access c.who (el 3 i) = .serve) →
      (∀ i < 4, s.access c.who (out + i) = .serve) →
        ∃ s' r', exec (.stagOutputTileDone k) s = .next s' ∧ (s'.block k).stag.run = some r' ∧ r'.otile = 1 ∧
          (BitVec.ofNat 32 (s'.valueAt out 4)).toInt = ((List.range (recK w)).map fun i => int8 (el 2 i) * int8 (el 3 i)).sum ∧
          ∀ a, a < out ∨ out + 4 ≤ a → s'.byteAt a = s.byteAt a)

/-! ## The DMA engine of a block (R245 to R266) -/

/-- The block DMA instructions (R248 to R254, R266): DMAGO checks its descriptor's address and its channel's queue and adds a
chain; WAITD waits for a chain's end; DMASTOP discards the queued chains and lets no further transfer issue; DMASTAT, DMAACK and
DMACTR read; DMACTRCLR clears. -/
def Obligations.DmaInstructions : Prop :=
  ∀ (t : TileNo) (b : Byte) (s : State),
    let u := s.boundary t 1
    let w := u.drain t
    let k := blockOf t
    let own := tileIn t
    let c := u.chan k own
    let desc : Word := (u.tile t).core.entry 0
    let fg : Form := { opc := 0xD8, opb := b, legal := opNone b, din := 1 }
    let fw : Form := { opc := 0xD9, opb := b, legal := opNone b, din := 1 }
    let fs : Form := { opc := 0xDA, opb := b, legal := opLow 5 b && (bit b 4 || fld b 0 4 == 0), sup := bit b 4, dout := 1 }
    let ch := if bit b 4 then fld b 0 4 else own
    let out := fun (j : Nat) => ((u.block k).dma.inFlight.filter fun x => x.ch = j).length
    (desc.toNat % 64 ≠ 0 → s.traps t (.dmago t b) fg 0x06 desc) ∧
    (∀ e, desc.toNat % 64 = 0 → (u.tile t).mapped desc kLoad e →
      (16 ≤ c.chains.length → ∃ v, s.trapsAt t (.dmago t b) fg v 0x48 desc) ∧
      (c.chains.length < 16 → ∃ v h, s.runs t (.dmago t b) fg v { pops := 1 } ∧
        (v.chan k own) = { c with chains := c.chains ++ [h] } ∧ h.head = desc ∧ h.tile = (t : Nat) ∧ h.part = (u.tile t).part ∧
        h.user = (u.tile t).user ∧ v.mem = u.mem ∧ (v.tile t).core = (u.tile t).core ∧ (∀ j, j ≠ t → v.tile j = u.tile j) ∧
        ∀ j, j < 16 → j ≠ own → v.chan k j = u.chan k j)) ∧
    ((w.chan k own).hasChain ((w.tile t).core.entry 0) = false → s.runs t (.waitd t b) fw w { pops := 1 }) ∧
    ((w.chan k own).hasChain ((w.tile t).core.entry 0) = true → s.issues t fw →
      exec (.waitd t b) s = .next (w.setDoing t (.wait 0xD9 b))) ∧
    (∃ v, s.runs t (.dmastop t b) fs v { vals := [BitVec.ofNat 64 (u.chan k ch).waiting.length], d := 3 } ∧
      (v.chan k ch).waiting = [] ∧ (v.chan k ch).next = none ∧ (v.chan k ch).ready = false ∧
      ∀ j, j < 16 → j ≠ ch → v.chan k j = u.chan k j) ∧
    (∃ z, s.runs t (.dmastat t b) { opc := 0xDB, opb := b, legal := opLow 4 b, dout := 1 } u { vals := [z], d := 3 } ∧
      let x := u.chan k (b.toNat % 16)
      (x.chains.length ≤ 16 → out (b.toNat % 16) ≤ 128 →
        fld z 0 5 = x.chains.length ∧ bit z 5 = !x.runs.isEmpty ∧ bit z 6 = x.cqwait ∧ fld z 7 8 = out (b.toNat % 16) ∧
        fld z 16 8 = x.evt.toNat)) ∧
    s.runs t (.dmaack t b) { opc := 0xDC, opb := b, legal := opNone b, dout := 1 }
      (u.modChan k own fun y => { y with evt := 0 }) { vals := [c.evt.setWidth 64], d := 3 } ∧
    s.runs t (.dmactr t b) { opc := 0xDD, opb := b, legal := opLow 3 b, dout := 1 } u
      { vals := [nth (u.block k).dma.ctrs (b.toNat % 8) 0], d := 3 } ∧
    s.runs t (.dmactrclr t b) { opc := 0xDE, opb := b, legal := opNone b, sup := true }
      (u.modBlock k fun y => { y with dma := { y.dma with ctrs := Vector.replicate 8 0 } }) {}

/-- What a channel does with its chain (R246, R247, R249, R255 to R263): it reads a descriptor and starts it, or fails it with
DESC; issues its transfers in order, at most 256 bytes each and none across a 256-byte boundary of its source, where its turn has come
in the rotation of the ready channels; writes a transfer's bytes; and completes it, with its record, its tally add and its event, in that order, or waits while the ring is full.
The addresses are city addresses of this device (PHYS = 1). -/
def Obligations.DmaChannelsMoveData : Prop :=
  ∀ (k : BlockNo) (ch : Fin 16) (h : Chain) (rest : List Chain) (s : State),
    let c := s.chan k ch
    let d := (s.block k).dma
    let city (a : Word) : Nat := a.toNat % 2 ^ 56
    let there (t : Nat) (who : Who) (a n : Nat) : Prop := s.isLocal a = true ∧ isMemory (devAddr a) = true ∧
      s.reachable t a = true ∧ s.staleAt k h.part a = false ∧ ∀ i < n, s.access who (devAddr a + i) = .serve
    s.dmaRuns k = true → c.chains = h :: rest → s.clean → s.memOk →
      (∀ e, c.live = false → s.relMet h.tile h.relE = true → s.fenMet h.tile h.fenE = true → h.head.toNat < 2 ^ 56 →
        d.tlb.find? (fun x => x.covers h.part h.head.toNat) = some e → protFault e kLoad h.user = none →
        there h.tile h.who (e.addr h.head.toNat) 56 → ∃ s' r, exec (.descriptorStart k ch) s = .next s' ∧
          (s'.chan k ch).live = true ∧ (s'.chan k ch).chains = c.chains ∧ (s'.chan k ch).runs = c.runs ++ [r] ∧ s'.mem = s.mem ∧
          r.desc = h.head ∧ r.issued = 0 ∧ r.stopped = false ∧
          (∀ i < 7, r.word i = s.wordAt (devAddr (e.addr h.head.toNat) + 8 * i)) ∧
          (r.rowLen = 0 ∨ r.rowLen % 8 ≠ 0 ∨ fld (r.word 2) 32 24 = 0 ∨ r.bar = 3 ∨ fld (r.word 0) 0 3 ≠ 0 ∨
            fld (r.word 1) 0 3 ≠ 0 ∨ fld (r.word 4) 0 6 ≠ 0 ∨ fld (r.word 6) 0 6 ≠ 0 ∨ bit (r.word 5) 5 = true ∧ h.user = true →
            r.fail = some (0x02, 0)) ∧
          (descBad r.words h.user = false → r.fail = none ∧
            (s'.chan k ch).next = if r.word 4 = 0 then none else some (r.word 4))) ∧
      (∀ pre r, c.runs = pre ++ [r] → d.turn = some (ch : Nat) → d.inFlight.length < 128 → bit (r.word 5) 5 = true →
        let o := r.issued % r.rowLen
        let src := rowAddr (r.word 0) ((r.word 3).setWidth 32) (r.issued / r.rowLen) o
        let dst := rowAddr (r.word 1) ((r.word 3).extractLsb' 32 32) (r.issued / r.rowLen) o
        let n := min (min (256 - src.toNat % 256) (r.rowLen - o)) (0x200000 - dst.toNat % 0x200000)
        there (k * 16 + ch) h.who (city src) n → ∃ (s' : State) (x : Transfer), exec (.transferIssue k ch) s = .next s' ∧
          (s'.block k).dma.slots = d.slots ++ [x] ∧ (s'.block k).dma.rot = (ch + 1) % 16 ∧ x.ch = (ch : Nat) ∧ x.pos = r.issued ∧ x.len = n ∧ x.dst = city dst ∧
          x.err = none ∧ x.st = .ready ∧ x.data = s.bytesAt (devAddr (city src)) n ∧ s'.mem = s.mem ∧
          (s'.chan k ch).runs.getLast? = some { r with issued := r.issued + n, lastDst := city dst + n - 8 }) ∧
      (∀ n x, d.slots[n]? = some x → x.st = .ready → x.err = none → x.len ≠ 0 → x.data.length = x.len →
        there (k * 16 + x.ch) (x.who k) x.dst x.len → epochOld x.epoch (s.homeEpoch x.part (devAddr x.dst)) = false →
        ∃ s', exec (.transferComplete k n) s = .next s' ∧
          (s'.block k).dma.slots = d.slots.filter (fun y => y.id ≠ x.id) ∧
          nth (s'.block k).dma.ctrs 1 0 = satInc (nth d.ctrs 1 0) ∧
          (∀ i (hi : i < x.data.length), s'.byteAt (devAddr x.dst + i) = x.data[i]) ∧
          ∀ a, a < devAddr x.dst ∨ devAddr x.dst + x.len ≤ a → s'.byteAt a = s.byteAt a) ∧
      ((s.tile (k.val * 16 + ch.val)).waitsIn = none → ∀ cmd,
        (cmd = .descriptorComplete k ch ∧ c.cqwait = false ∨ cmd = .ringConsReread k ch ∧ c.cqwait = true) →
        ∀ r rs, c.runs = r :: rs → s.runOver k r = true → r.bar ≠ 2 → r.fail = none →
          let ends (s' : State) : Prop :=
            (rs = [] ∧ c.next = none → (s'.chan k ch).chains = rest ∧ (s'.chan k ch).live = false ∧ (s'.chan k ch).runs = []) ∧
            (r.stopped = false → rs ≠ [] ∨ c.next ≠ none → (s'.chan k ch).chains = c.chains ∧ (s'.chan k ch).runs = rs) ∧
            (r.stopped = true → (s'.chan k ch).chains = rest) ∧
            (r.met = false → r.stopped = false → (s'.chan k ch).evt = if bit (r.word 5) 4 then satInc c.evt else c.evt) ∧
            (r.stopped = true → (s'.chan k ch).evt = satInc c.evt ∧ (s'.block k).tops = (s.block k).tops) ∧
            (r.stopped = false → fld (r.word 5) 12 8 ≠ 0 → ∃ op, (s'.block k).tops = (s.block k).tops ++ [op] ∧
              op.i = fld (r.word 5) 6 6 ∧ op.op = .add (BitVec.ofNat 32 (fld (r.word 5) 12 8)) .dma)
          (bit (r.word 5) 3 = false → ∃ s', exec cmd s = .next s' ∧ ends s' ∧ s'.mem = s.mem) ∧
          (bit (r.word 5) 3 = true → bit (r.word 5) 5 = true → h.user = false → (r.word 6).toNat % 64 = 0 →
            let ring := devAddr (city (r.word 6))
            let prod := s.wordAt ring
            let size := fld (s.wordAt (ring + 16)) 0 5
            let room := (prod - s.wordAt (ring + 8)).toNat < 2 ^ size
            let at_ := city (r.word 6 + BitVec.ofNat 64 (64 + prod.toNat % 2 ^ size * 32))
            there h.tile h.who (city (r.word 6)) 24 → 4 ≤ size → size ≤ 20 →
              (¬room → ∃ s', exec cmd s = .next s' ∧ (s'.chan k ch).cqwait = true ∧ (s'.chan k ch).runs = c.runs ∧
                (s'.chan k ch).chains = c.chains ∧ s'.mem = s.mem) ∧
              (room → there h.tile h.who at_ 32 → devAddr at_ = ring + 64 + prod.toNat % 2 ^ size * 32 →
                ∃ s', exec cmd s = .next s' ∧ ends s' ∧ s'.wordAt ring = prod + 1 ∧
                  fld (s'.wordAt (devAddr at_)) 0 8 = r.stopped.toNat ∧ fld (s'.wordAt (devAddr at_)) 8 2 = r.bar ∧
                  fld (s'.wordAt (devAddr at_)) 10 4 = ch ∧
                  bit (s'.wordAt (devAddr at_)) 14 = (r.stopped || decide (rs = [] ∧ c.next = none)) ∧
                  fld (s'.wordAt (devAddr at_)) 16 6 = h.part.toNat ∧
                  (s'.wordAt (devAddr at_ + 8)).toNat = (if r.stopped then (r.total - r.issued) % 2 ^ 56 else 0) ∧
                  (s'.wordAt (devAddr at_ + 16)).toNat = r.desc.toNat % 2 ^ 56 ∧ s'.wordAt (devAddr at_ + 24) = s.time)))

/-! ## Queues (R267 to R281) -/

/-- The queue instructions (R59, R70, R267, R268, R273 to R281): SEND, SENDT and SENDC check len and qid, then la, and hand a copy
of their message to the send unit, SEND waiting and the others with a load slot for the flag; RECV and SELECT fault on closed
queues, wait on empty ones, and take the oldest message or the selected queue; QOPEN, QCLOSE, QSTAT and QIMASK. -/
def Obligations.QueueInstructions : Prop :=
  ∀ (t : TileNo) (b : Byte) (b5 : BitVec 5) (s : State),
    let u := s.boundary t 1
    let w := u.drain t
    let fq (opc : Byte) : Form := { opc, opb := b, legal := opNone b, din := 3 }
    let fc (fn din dout : Nat) (legal : Bool) : Form := { opc := 0xE5, opb := qctlByte fn b5, legal, din, dout }
    let other (v : State) : Prop := v.mem = u.mem ∧ (v.tile t).core = (u.tile t).core ∧ ∀ j, j ≠ t → v.tile j = u.tile j
    let sends (v : State) (z : State) (opc : Byte) (a : Attempt) : Prop :=
      v.attempts = z.attempts ++ [a] ∧ a.tile = t ∧ a.opc = opc ∧ a.qid = ((z.tile t).core.entry 0).toNat ∧
        a.len = ((z.tile t).core.entry 1).toNat ∧ a.st = .waiting ∧ a.acked = false ∧ a.part = (z.tile t).part ∧
        a.data = lineOf (z.portRead t ((z.tile t).core.entry 2).toNat a.len)
    let faults (z : State) (code : Byte) (value : Word) : Prop :=
      let qid : Word := (z.tile t).core.entry 0
      let len : Word := (z.tile t).core.entry 1
      let la : Word := (z.tile t).core.entry 2
      let bad := len = 0 ∨ 64 < len.toNat ∨ 163839 < qid.toNat
      bad ∧ code = 0x50 ∧ value = qid ∨
      ¬bad ∧ 0x3FFFF < la.toNat + len.toNat - 1 ∧ code = 0x07 ∧ value = la + len - 1 ∨
      ¬bad ∧ la.toNat + len.toNat - 1 ≤ 0x3FFFF ∧ la.toNat % 8 ≠ 0 ∧ code = 0x06 ∧ value = la
    let sound (z : State) : Prop := (z.tile t).core.entry 1 ≠ 0 ∧ ((z.tile t).core.entry 1).toNat ≤ 64 ∧
      ((z.tile t).core.entry 0).toNat ≤ 163839 ∧ ((z.tile t).core.entry 2).toNat + ((z.tile t).core.entry 1).toNat ≤ 0x40000 ∧
      ((z.tile t).core.entry 2).toNat % 8 = 0
    (∀ code value, faults w code value → s.trapsAt t (.send t b) (fq 0xE0) w code value) ∧
    (sound w → s.issues t (fq 0xE0) → ∃ v a, exec (.send t b) s = .next v ∧ w.stalls v t (.wait 0xE0 b) ∧
      sends v w 0xE0 a ∧ a.slot = none) ∧
    (∀ c opc, (c = .sendt t b ∧ opc = 0xE1) ∨ (c = .sendc t b ∧ opc = 0xE2) →
      (8 ≤ (u.tile t).gmem.slots.length → s.traps t c (fq opc) 0x08 (BitVec.ofNat 64 (u.tile t).gmem.slots.length)) ∧
      ((u.tile t).gmem.slots.length < 8 →
        (∀ code value, faults u code value → s.traps t c (fq opc) code value) ∧
        (sound u → ∃ v a sl, s.runs t c (fq opc) v { pops := 3 } ∧ sends v u opc a ∧ a.slot = some sl.id ∧ sl.val = none ∧
          (v.tile t).gmem.slots = (u.tile t).gmem.slots ++ [sl] ∧ other v))) ∧
    (w.marks = [] →
      let k := ((w.tile t).core.entry 0).toNat % 8
      let la : Word := (w.tile t).core.entry 1
      let q := (w.tile t).queue k
      let f : Form := { opc := 0xE3, opb := b, legal := opNone b, din := 2, dout := 1 }
      (q.isOpen = false → s.trapsAt t (.recv t b) f w 0x51 (BitVec.ofNat 64 k)) ∧
      (q.isOpen = true → 0x40000 < la.toNat + 64 → s.trapsAt t (.recv t b) f w 0x07 (la + 63)) ∧
      (q.isOpen = true → la.toNat + 64 ≤ 0x40000 → la.toNat % 8 ≠ 0 → s.trapsAt t (.recv t b) f w 0x06 la) ∧
      (q.isOpen = true → la.toNat + 64 ≤ 0x40000 → la.toNat % 8 = 0 →
        (q.msgs = [] → s.issues t f → exec (.recv t b) s = .next (w.setDoing t (.wait 0xE3 b))) ∧
        ∀ m rest, q.msgs = m :: rest → m.len ≤ 64 → w.memOk →
          ∃ v, s.runs t (.recv t b) f v { pops := 2, vals := [BitVec.ofNat 64 (m.len + 0x10000 * m.src)] } ∧
            ((v.tile t).queue k).msgs = rest ∧ (∀ j < 8, j ≠ k → (v.tile t).queue j = (w.tile t).queue j) ∧
            (v.tile t).core = (w.tile t).core ∧
            (∀ i < m.len, v.byteAt (tileMemBase t + la.toNat + i) = m.data.extractLsb' (8 * i) 8) ∧
            ∀ a, a < tileMemBase t + la.toNat ∨ tileMemBase t + la.toNat + m.len ≤ a → v.byteAt a = w.byteAt a)) ∧
    (let mask : Word := (w.tile t).core.entry 0
      let f : Form := { opc := 0xE4, opb := b, legal := opNone b, din := 1, dout := 1 }
      let named (k : Nat) : Prop := k < 8 ∧ bit mask k = true ∧ ((w.tile t).queue k).isOpen = true
      let ready (k : Nat) : Prop := named k ∧ ((w.tile t).queue k).msgs ≠ []
      let place (k : Nat) : Nat := if bit (w.tile t).ctl.qsel 0 then (k + 7 - fld (w.tile t).ctl.qsel 8 3) % 8 else k
      ((∀ k, ¬named k) → s.trapsAt t (.select t b) f w 0x51 (mask &&& 0xFF)) ∧
      ((∃ k, named k) → (∀ k, ¬ready k) → s.issues t f → exec (.select t b) s = .next (w.setDoing t (.wait 0xE4 b))) ∧
      ∀ k, ready k → (∀ j, ready j → place k ≤ place j) →
        s.runs t (.select t b) f (w.modTile t fun y => { y with ctl := { y.ctl with qsel := setFld y.ctl.qsel 8 3 k } })
          { pops := 1, vals := [BitVec.ofNat 64 k] }) ∧
    (∃ v, s.runs t (.qopen t b5) (fc 0 1 0 (b5 == 0)) v { pops := 1 } ∧ other v ∧
      ∀ k < 8, (v.tile t).queue k = if bit ((u.tile t).core.entry 0) k then
        { (u.tile t).queue k with isOpen := true, epoch := u.epochOf (quarterOf t) (u.tile t).part } else (u.tile t).queue k) ∧
    (∃ v, s.runs t (.qclose t b5) (fc 1 1 0 (b5 == 0)) v { pops := 1 } ∧ other v ∧
      ∀ k < 8, (v.tile t).queue k = if bit ((u.tile t).core.entry 0) k then
        { (u.tile t).queue k with
          isOpen := false, msgs := [], drops := satAdd ((u.tile t).queue k).drops ((u.tile t).queue k).msgs.length
          waiters := [], resv := false } else (u.tile t).queue k) ∧
    (∃ z, s.runs t (.qstat t b5) (fc 2 0 1 (decide (b5.toNat < 8))) u { vals := [z], d := 3 } ∧
      let q := (u.tile t).queue (b5.toNat % 8)
      (q.msgs.length ≤ 16 → q.waiters.length ≤ 8 →
        fld z 0 5 = q.msgs.length ∧ bit z 5 = q.isOpen ∧ fld z 8 4 = q.waiters.length ∧
        fld z 16 8 = (u.tile t).qimask.toNat ∧ fld z 32 32 = q.epoch.toNat)) ∧
    s.runs t (.qimask t b5) (fc 3 1 0 (b5 == 0))
      (u.modTile t fun y => { y with qimask := ((u.tile t).core.entry 0).setWidth 8 }) { pops := 1 }

/-- Messages on their way (R269 to R272, R275, R276): a queue discards, refuses or stores a message by the first rule of R269
that applies; the answer completes a SEND, fills the load slot of a SENDT or SENDC, or leaves a refused message to be sent again;
a reservation that lapses passes to the next waiter. -/
def Obligations.MessagesReachTheirQueues : Prop :=
  ∀ (id : Nat) (a : Attempt) (s : State),
    let u := a.qid / 8
    let k := a.qid % 8
    let q := (s.tile u).queue k
    let old := 1 ≤ (q.epoch - a.epoch).toNat ∧ (q.epoch - a.epoch).toNat ≤ 2 ^ 31
    let foreign := (s.tile u).part ≠ a.part ∨ s.sq.fp.tiles.contains u = true
    let full := 16 ≤ q.msgs.length ∨ q.reservedFrom a.tile = true
    let arrives (answer : QAnswer) (q' : RQueue) : Prop :=
      ∃ s', exec (.messageArrives id) s = .next s' ∧ s'.attempt? id = some { a with st := .flying answer } ∧
        s'.mem = s.mem ∧ (s'.tile u).queue k = q' ∧ (∀ j, j ≠ u → s'.tile j = s.tile j) ∧ (s'.tile u).core = (s.tile u).core
    s.attempt? id = some a →
      (s.maySend a = true →
        (foreign → arrives .discarded q ∧ ∃ s', exec (.messageArrives id) s = .next s' ∧
          s'.sq.dlog.noted s.sq.dlog s.time ∧ (s'.hreg a.part.toNat).vlog.noted (s.hreg a.part.toNat).vlog s.time) ∧
        (¬foreign → q.isOpen = false → arrives .discarded { q with drops := satInc q.drops }) ∧
        (¬foreign → q.isOpen = true → old → arrives .discarded { q with stale := satInc q.stale }) ∧
        (¬foreign → q.isOpen = true → ¬old → full → arrives .refused (q.record a.tile)) ∧
        (¬foreign → q.isOpen = true → ¬old → ¬full → (s.tile u).waitsIn = none →
          arrives .delivered (RQueue.reserve { q with
            msgs := q.msgs ++ [{ len := a.len, src := a.tile, part := a.part, epoch := a.epoch, data := a.data }]
            waiters := q.waiters.filter fun x => x ≠ a.tile }))) ∧
      (∀ answer, a.st = .flying answer →
        (answer = .refused → a.opc ≠ 0xE1 → ∃ s', exec (.messageAnswerArrives id) s = .next s' ∧
          s'.attempt? id = some { a with st := .refused, acked := true } ∧ s'.mem = s.mem ∧
          (s'.tile a.tile).core = (s.tile a.tile).core) ∧
        (answer ≠ .refused ∨ a.opc = 0xE1 →
          (∀ n, a.slot = some n → (s.tile a.tile).waitsIn = none → ∃ s', exec (.messageAnswerArrives id) s = .next s' ∧
            s'.attempts = s.attempts.filter (fun x => x.id ≠ id) ∧ (s'.tile a.tile).core = (s.tile a.tile).core ∧
            (s'.tile a.tile).gmem.slots = (s.tile a.tile).gmem.slots.map fun (sl : Slot) =>
              if sl.id = n then { sl with val := some (if answer = .delivered then 1 else 0) } else sl) ∧
          (∀ x, a.slot = none → (s.tile a.tile).waitsIn = some (0xE0, x) →
            ∃ v s', exec (.messageAnswerArrives id) s = .next s' ∧ Ran v s' a.tile (heldForm 0xE0 x) .seq { pops := 3 } ∧
              v.attempts = s.attempts.filter (fun y => y.id ≠ id) ∧ (v.tile a.tile).core = (s.tile a.tile).core))) ∧
      (a.st = .refused → ∃ s', exec (.sendResend id) s = .next s' ∧ s'.attempt? id = some { a with st := .waiting } ∧
        s'.tiles = s.tiles ∧ s'.mem = s.mem) ∧
      ∀ (t : TileNo) (n : Fin 8), ((s.tile t).queue n).resv = true → ∃ s', exec (.reservationLapse t n) s = .next s' ∧
        (s'.tile t).queue n = { (s.tile t).queue n with waiters := ((s.tile t).queue n).waiters.tail }.reserve ∧
        (s'.tile t).core = (s.tile t).core ∧ s'.mem = s.mem ∧ ∀ j, j ≠ t → s'.tile j = s.tile j

/-! ## Tallies (R282 to R288) -/

/-- The tally instructions (R283, R285, R286): a tid above 81,919 faults; TADD, TSUB and TREAD send their operation to the tally,
TREAD with a load slot; TEVTS reads the event mask and clears it; WAITT sends its check and waits. A tally of another partition
is not reached. -/
def Obligations.TallyInstructions : Prop :=
  ∀ (t : TileNo) (b : Byte) (b6 : BitVec 6) (s : State),
    let u := s.boundary t 1
    let w := u.drain t
    let f (fn din dout : Nat) : Form := { opc := 0xE6, opb := tallyByte fn b6, legal := b6 == 0, din, dout }
    let fw : Form := { opc := 0xE7, opb := b, legal := opLow 1 b, din := 2 }
    let tid (z : State) : Word := (z.tile t).core.entry 0
    let n (z : State) : BitVec 32 := ((z.tile t).core.entry 1).setWidth 32
    let sent (v z : State) (op : TallyReq → Prop) : Prop :=
      ∃ o : TallyOp, (v.block ((tid z).toNat / 64)).tops = (z.block ((tid z).toNat / 64)).tops ++ [o] ∧ v.mem = z.mem ∧
        o.i = (tid z).toNat % 64 ∧ op o.op
    (∀ c fn, (c = .tadd t b6 ∧ fn = 0) ∨ (c = .tsub t b6 ∧ fn = 1) →
      (81919 < (tid u).toNat → s.traps t c (f fn 2 0) 0x52 (tid u)) ∧
      ((tid u).toNat ≤ 81919 → u.ownsTally t ((tid u).toNat / 64) = true → ∃ v, s.runs t c (f fn 2 0) v { pops := 2 } ∧
        v.tiles = u.tiles ∧
        sent v u fun op => ∃ who, op = if fn = 0 then TallyReq.add (n u) who else TallyReq.sub (n u) who) ∧
      ((tid u).toNat ≤ 81919 → u.ownsTally t ((tid u).toNat / 64) = false → ∃ v, s.runs t c (f fn 2 0) v { pops := 2 } ∧
        v.tiles = u.tiles ∧ v.blocks = u.blocks ∧ v.mem = u.mem)) ∧
    (8 ≤ (u.tile t).gmem.slots.length →
      s.traps t (.tread t b6) (f 2 1 0) 0x08 (BitVec.ofNat 64 (u.tile t).gmem.slots.length)) ∧
    ((u.tile t).gmem.slots.length < 8 → 81919 < (tid u).toNat → s.traps t (.tread t b6) (f 2 1 0) 0x52 (tid u)) ∧
    ((u.tile t).gmem.slots.length < 8 → (tid u).toNat ≤ 81919 → u.ownsTally t ((tid u).toNat / 64) = true →
      ∃ v sl r, s.runs t (.tread t b6) (f 2 1 0) v { pops := 1 } ∧ (v.tile t).core = (u.tile t).core ∧
        (v.tile t).gmem.slots = (u.tile t).gmem.slots ++ [sl] ∧ sl.val = none ∧ v.reqs = u.reqs ++ [r] ∧ r.kind = .tread ∧
        r.slot = some sl.id ∧ sent v u fun op => op = .read r.id) ∧
    s.runs t (.tevts t b6) (f 3 0 1) (u.modTile t fun y => { y with tevts := 0 }) { vals := [(u.tile t).tevts], d := 3 } ∧
    (81919 < (tid w).toNat → s.trapsAt t (.waitt t b) fw w 0x52 (tid w)) ∧
    ((tid w).toNat ≤ 81919 → w.ownsTally t ((tid w).toNat / 64) = true → s.issues t fw →
      ∃ v, exec (.waitt t b) s = .next v ∧ w.stalls v t (.wait 0xE7 b) ∧ sent v w fun op => op = .wait (n w) (bit b 0) t) ∧
    ((tid w).toNat ≤ 81919 → w.ownsTally t ((tid w).toNat / 64) = false →
      (n w = 0 → ∃ v, s.runs t (.waitt t b) fw v { pops := 2 } ∧ v.tiles = w.tiles ∧ v.blocks = w.blocks) ∧
      (n w ≠ 0 → s.issues t fw → ∃ v, exec (.waitt t b) s = .next v ∧ w.stalls v t (.wait 0xE7 b) ∧ v.blocks = w.blocks))

/-- A tally's cycle (R284, R286): it adds and subtracts all that has arrived at once; a sum below zero leaves 0 and UNF, one above
LIMIT leaves LIMIT and OVF, and a tally that has one of them set only counts what it ignores; an addition's tile hears of an
overflow; crossing THRESH sets the note tile's event bit; a waiting WAITT is served, and consumes, where VALUE has reached its n.
Then a WAITT retries, or completes; and a quarter all of whose live tiles are blocked reports them to the Square, which passes the
list on to the supervisor (R288). -/
def Obligations.TalliesCountAndWake : Prop :=
  ∀ (k : BlockNo) (i : Fin 64) (arrived : List Nat) (t : TileNo) (q : QuarterNo) (s : State),
    let x := s.tally k i
    let taken := (s.block k).tops.filter fun o => o.i == i.val && arrived.contains o.id && s.mayTally k o
    let ops := taken.map (·.op)
    let up := x.value.toNat + (ops.map TallyReq.added).sum
    let down := (ops.map TallyReq.taken).sum
    let cycles (is : State → Tally → Prop) : Prop := ∃ s', exec (.tallyCycle k i arrived) s = .next s' ∧
      (∀ j < 64, j ≠ i → s'.tally k j = s.tally k j) ∧ s'.mem = s.mem ∧ is s' (s'.tally k i)
    let adder (o : TallyOp) (tile ord : Nat) (pc : BitVec 56) : Prop := ∃ n, o.op = .add n (.tile tile ord pc)
    (s.marks = [] → (s.block k).resetting = none → (∀ o ∈ taken, o.watch? = none ∧ s.staleOp k o = false) →
      (x.frozen = true → cycles fun _ y => y = { x with ign := satAdd x.ign (ops.countP TallyReq.counts) }) ∧
      (x.frozen = false → (∀ w ∈ (s.block k).watches, w.placed = true → w.i = i → x.limit < w.n) → x.value ≤ x.limit →
        (up < down → cycles fun _ y => y = { x with value := 0, unf := true }) ∧
        (down ≤ up → up - down ≤ x.limit.toNat → cycles fun s' y => y = { x with value := BitVec.ofNat 32 (up - down) } ∧
          (x.even = true → x.value < x.thresh → x.thresh.toNat ≤ up - down →
            bit (s'.tile (k.val * 16 + x.note.toNat)).tevts i = true)) ∧
        (down ≤ up → x.limit.toNat < up - down → cycles fun s' y => y = { x with value := x.limit, ovf := true } ∧
          ∀ o tile ord pc, taken = [o] → adder o tile ord pc → (s.tile tile).core.impr = none →
            (s'.tile tile).core.impr = some (0x53, pc, ord))) ∧
      (x.frozen = false → ops = [] → x.value ≤ x.limit → ∀ w, (s.block k).watches = [w] → w.placed = true → w.i = i →
        w.num < 64 → w.n ≤ x.value → w.n ≠ 0 →
        ∃ s', exec (.tallyCycle k i arrived) s = .next s' ∧
          (s'.block k).watches = [{ w with placed := false, served := true }] ∧
          (s'.tally k i).value = if w.consume then x.value - w.n else x.value)) ∧
    (∀ b, (s.tile t).waitsIn = some (0xE7, b) →
      let home := ((s.tile t).core.entry 0).toNat / 64
      (∀ w, (s.block home).watches.find? (fun w => w.tile = t.val && !w.placed && !w.served) = some w →
        ∃ s' o, exec (.tallyWatchRetry t) s = .next s' ∧ (s'.block home).tops = (s.block home).tops ++ [o] ∧
          o.op = .wait w.n w.consume t ∧ (s'.block home).watches = (s.block home).watches.filter (fun v => v.tile ≠ t.val) ∧
          s'.tiles = s.tiles) ∧
      ((∃ w ∈ (s.block home).watches, w.tile = t ∧ w.served = true) →
        ∃ v s', exec (.waittReplyArrives t) s = .next s' ∧ Ran v s' t (heldForm 0xE7 b) .seq { pops := 2 } ∧
          (v.block home).watches = (s.block home).watches.filter (fun w => w.tile ≠ t.val) ∧ v.tiles = s.tiles ∧
          v.mem = s.mem)) ∧
    ((s.quarter q).gridEn = true → (s.quarter q).gridFired = false → s.liveTiles q ≠ [] →
      (∀ j ∈ s.liveTiles q, ∃ opc b, (s.tile j).waitsIn = some (opc, b) ∧ (opc = 0xE0 ∨ opc = 0xE3 ∨ opc = 0xE4)) →
        ∃ s', exec (.gridlockFire q) s = .next s' ∧ (s'.quarter q).gridFired = true ∧
          (∀ j < 1024, (bit (s'.quarter q).gridList j = true ↔ q.val * 1024 + j ∈ s.liveTiles q)) ∧
          s'.out = .toSquare 4 q (s'.quarter q).gridList.toNat :: s.out ∧ s'.mem = s.mem ∧
          (∀ p j, s.sq.running = true → (s.quarter q).running = some p → s.lowestTile p = some j →
            bit (s'.tile j).ctl.ipend 5 = true))

/-! ## Streets, avenues and in-network sums (R298 to R308, R358, R359) -/

/-- Links, multicast and reductions (R298, R300, R301, R303 to R308, R358): the eighth failure of a flit in a row is logged and its
link tested; a multicast write reaches every store that its group names and no other byte; an injected word is a reduction packet;
two packets of a tag and run whose paths meet combine lane by lane; a packet comes to the end of its path before every later one on
the same path, and there adds its lanes to their words and its count to LANDED, or
is discarded and counted; a write of RTEXP or NELEM clears what it restarts. -/
def Obligations.StreetsCarrySumsAndCopies : Prop :=
  ∀ (w : Writer) (q : QuarterNo) (s : State),
    let may := s.mayCtl w q
    let who := s.writerWho w
    (∀ (l : LinkName) (flit home : Nat), linkQuarter l = some home →
      let last : Nat × Nat := Tab.read (0, 0) (linkKey l) s.linkFails
      let n := if last.1 = flit then last.2 else 0
      (n < 7 → exec (.linkCrcResend ⟨l, flit⟩) s =
        .next { s with linkFails := Tab.write (linkKey l) (flit, n + 1) s.linkFails }) ∧
      (7 ≤ n → ∃ s', exec (.linkCrcResend ⟨l, flit⟩) s = .next s' ∧ s'.linkFails = Tab.erase (linkKey l) s.linkFails ∧
        (s'.quarter home).elog.noted (s.quarter home).elog s.time ∧ (∃ x ∈ s'.sq.spots, x.unit = linkUnit l) ∧
        s'.mem = s.mem ∧ s'.tiles = s.tiles)) ∧
    (∀ (g : Fin 64) (o : BitVec 25) (data : List Byte),
      let w0 : Word := (Tab.read (0, 0) g (s.quarter q).mcgrp).1
      let w1 : Word := (Tab.read (0, 0) g (s.quarter q).mcgrp).2
      let part := Tab.read 0 g (s.quarter q).mcpart
      let agent : Who := { src := 6, num := BitVec.ofNat 16 part.toNat, part := some part, user := false }
      let tile (r t size : Nat) (base : Nat) : Prop := base = tileMemBase t ∧ size = 0x40000 ∧ t / 1024 = r
      let dest (base size : Nat) : Prop := ∃ r < 20, bit w0 (16 + r) = true ∧
        (fld w0 1 2 = 0 ∧ (∃ x y, fld w1 0 5 ≤ x ∧ x ≤ fld w1 8 5 ∧ fld w1 16 5 ≤ y ∧ y ≤ fld w1 24 5 ∧
            tile r (tileAt r x y) size base) ∨
          fld w0 1 2 = 1 ∧ (∃ b < 64, bit w1 b = true ∧ base = 0x80000000000 + (r * 64 + b) * 0x2000000 ∧ size = 0x1400000) ∨
          fld w0 1 2 = 2 ∧ (∃ b < 64, bit w1 b = true ∧ tile r (r * 1024 + b * 16 + fld w0 3 4) size base))
      let good := bit w0 0 = true ∧ fld w0 1 2 ≠ 3 ∧
        (fld w0 1 2 = 0 → fld w1 0 5 ≤ fld w1 8 5 ∧ fld w1 16 5 ≤ fld w1 24 5)
      (¬(may = true ∧ good) → ∃ s', exec (.multicastWrite w q g o data) s = .next s' ∧ s'.mem = s.mem ∧ s'.tiles = s.tiles) ∧
      (may = true → good → s.multicastOpen q g = true → s.memOk → ∃ s', exec (.multicastWrite w q g o data) s = .next s' ∧
        (∀ base size, dest base size → o.toNat + data.length ≤ size → (∀ n ∈ s.sq.fp.tiles, base ≠ tileMemBase n) →
          (∀ i < data.length, s.access agent (base + o.toNat + i) = .serve) →
          ∀ i (h : i < data.length), s'.byteAt (base + o.toNat + i) = data[i]) ∧
        ∀ a, (∀ base size, dest base size → a < base + o.toNat ∨ base + o.toNat + data.length ≤ a) →
          s'.byteAt a = s.byteAt a)) ∧
    (∀ (i : BitVec 12) (o : BitVec 15) (data : List Byte),
      let e := s.rtag q i.toNat
      let part := s.writerPart w q
      let serves := e.v = true ∧ e.tag.toNat % 4096 = i.toNat ∧ e.part = part ∧ s.destOk e.dest.toNat = true
      let fits := data.length = 4 ∧ o.toNat % 4 = 0 ∨ data.length = 8 ∧ o.toNat % 8 = 0
      (¬(may = true ∧ fits) → ∃ s', exec (.reductionInjectWrite w q i o data) s = .next s' ∧ s'.rpackets = s.rpackets ∧
        s'.mem = s.mem) ∧
      (may = true → fits → ¬serves → ∃ s', exec (.reductionInjectWrite w q i o data) s = .next s' ∧
        s'.rpackets = s.rpackets ∧ s'.mem = s.mem ∧ (s'.rtag q i.toNat).drop = satInc e.drop) ∧
      (may = true → fits → serves → ∃ s' p, exec (.reductionInjectWrite w q i o data) s = .next s' ∧
        s'.rpackets = s.rpackets ++ [p] ∧ s'.mem = s.mem ∧ p.tag = e.tag ∧ p.part = part ∧ p.kind = e.kind ∧ p.dest = e.dest.toNat ∧
        p.run = o.toNat / 64 ∧ p.cnt = data.length / 4 ∧
        (∀ l < 16, bit p.mask l = decide (o.toNat / 4 % 16 ≤ l ∧ l < o.toNat / 4 % 16 + data.length / 4)) ∧
        ∀ j < data.length / 4, (nth p.lanes (o.toNat / 4 % 16 + j) 0).toNat = leNat ((data.drop (4 * j)).take 4))) ∧
    (∀ (a b : Nat) (x y : RPacket), s.rpackets[a]? = some x → s.rpackets[b]? = some y → a ≠ b → x.joins y = true →
      s.roadOpen y.path = true → ∃ p, exec (.reductionCombine a b) s = .next { s with rpackets := (s.rpackets.set a p).eraseIdx b } ∧
        p.path = x.meets y ∧ p.tag = x.tag ∧ p.run = x.run ∧ p.dest = x.dest ∧ p.cnt = x.cnt + y.cnt ∧ p.mask = x.mask ||| y.mask ∧
        ∀ l < 16, let u := nth x.lanes l 0
          let v := nth y.lanes l 0
          (bit x.mask l = true → bit y.mask l = false → nth p.lanes l 0 = u) ∧
          (bit x.mask l = false → bit y.mask l = true → nth p.lanes l 0 = v) ∧
          (bit x.mask l = true → bit y.mask l = true → x.kind = true →
            (nth p.lanes l 0).toInt = max (-(2 ^ 31)) (min (2 ^ 31 - 1) (u.toInt + v.toInt))) ∧
          (bit x.mask l = true → bit y.mask l = true → x.kind = false → nth p.lanes l 0 = (add32 u v).1)) ∧
    (∀ (n : Nat) (p : RPacket), s.rpackets[n]? = some p → s.arrivesNext n p = true → s.isLocal p.dest = true →
      let i := p.tag.toNat % 4096
      let e := s.rtag p.home i
      let agent : Who := { src := 7, num := BitVec.ofNat 16 p.home, part := some p.part, user := false }
      let old := epochOld p.epoch (Tab.read 0 p.part.toNat (s.quarter p.home).pepoch) = true
      let serves := s.tagServes e p.tag p.part = true ∧ e.kind = p.kind
      let beyond := e.expect.toNat < e.landed.toNat + p.cnt
      let word (z : State) (l : Nat) : BitVec 32 := BitVec.ofNat 32 (z.valueAt (devAddr p.dest + 64 * p.run + 4 * l) 4)
      (old ∨ ¬serves ∨ beyond → ∃ s', exec (.reductionLand n) s = .next s' ∧ s'.rpackets = s.rpackets.eraseIdx n ∧
        s'.mem = s.mem ∧ s'.rtag p.home i = { e with drop := satInc e.drop }) ∧
      (¬old → serves → ¬beyond → s.clean → s.memOk →
        (∀ k < 64, s.access agent (devAddr p.dest + 64 * p.run + k) = .serve) →
        ∃ s', exec (.reductionLand n) s = .next s' ∧ s'.rpackets = s.rpackets.eraseIdx n ∧
          (s'.rtag p.home i).landed.toNat = e.landed.toNat + p.cnt ∧
          (s'.rtag p.home i).done = (e.done || decide (e.landed.toNat + p.cnt = e.expect.toNat)) ∧
          (e.landed.toNat + p.cnt ≠ e.expect.toNat →
            (∀ l < 16, bit p.mask l = false → word s' l = word s l) ∧
            (∀ l < 16, bit p.mask l = true → p.kind = true → (word s' l).toInt =
              max (-(2 ^ 31)) (min (2 ^ 31 - 1) ((word s l).toInt + (nth p.lanes l 0).toInt))) ∧
            ∀ a, a < devAddr p.dest + 64 * p.run ∨ devAddr p.dest + 64 * p.run + 64 ≤ a → s'.byteAt a = s.byteAt a))) ∧
    (∀ (i : BitVec 12) (v : Word),
      (may = true → ∃ s', exec (.rtexpWrite w q i v) s = .next s' ∧ s'.rtag q i.toNat = { s.rtag q i.toNat with
          expect := v.setWidth 40, landed := 0, done := false, nv := false, of := false, nx := false, sat := false } ∧
        s'.mem = s.mem ∧ ∀ j, j ≠ i.toNat → s'.rtag q j = s.rtag q j) ∧
      (may = false → ∃ s', exec (.rtexpWrite w q i v) s = .next s' ∧ s'.quarters = s.quarters ∧ s'.mem = s.mem)) ∧
    ∀ (e : EdgeNo) (g : BitVec 10) (v : Word),
      (mayEdge w = true → ∃ s', exec (.nelemWrite w e g v) s = .next s' ∧ s'.mem = s.mem ∧
        s'.rgroup e (g.setWidth 16) = { s.rgroup e (g.setWidth 16) with nelem := v.setWidth 32, retgot := 0 }) ∧
      (mayEdge w = false → ∃ s', exec (.nelemWrite w e g v) s = .next s' ∧ s'.edges = s.edges ∧ s'.mem = s.mem)

/-! ## The Hive (R312 to R336) -/

/-- The Hive instructions (R313, R315, R324 to R329, R335): each checks its operands, takes a load slot and asks its slice; where
no ordering instruction and no spot test holds it and its epoch is not old, its effect follows at once, or the refusal that R327
gives, with 0 in the slot and the exception that the result will raise. A change of state may let the mover start (R322): only
PROM, DEMO and NOUT may follow it. HCELL with fn 0 or 2 on a FREE record that its handle matches meets HIVE_STATE, and every other
operation on one HIVE_ACCESS: the model's reading (log entry 145). -/
def Obligations.HiveInstructions : Prop :=
  ∀ (t : TileNo) (b : Byte) (b6 : BitVec 6) (s : State),
    let u := s.boundary t 1
    let y := u.tile t
    let p := y.part
    let arg (i : Nat) : Word := y.core.entry i
    let op (c : Instr) (opc opb : Byte) (legal sup : Bool) (pops : Nat) (bad : Option Word) (here : Prop)
        (effect : State → Word → Option Byte → Prop) : Prop :=
      let f : Form := { opc, opb, legal, sup, din := pops }
      let ops := (List.range pops).map arg
      (8 ≤ y.gmem.slots.length → s.traps t c f 0x08 (BitVec.ofNat 64 y.gmem.slots.length)) ∧
      (y.gmem.slots.length < 8 →
        (∀ v, bad = some v → s.traps t c f 0x58 v) ∧
        (bad = none → ∃ (v : State) (sl : Slot) (r : Req) (ord : Nat) (pc : BitVec 56) (exc : Option Byte),
          s.runs t c f v { pops } ∧ (v.tile t).gmem.slots = y.gmem.slots ++ [sl] ∧ sl.val = none ∧ r ∈ v.reqs ∧
          r.slot = some sl.id ∧ r.tile = t ∧ (v.tile t).core = y.core ∧ r.kind = .hive opc opb ops ord pc exc ∧
          (u.relMet t y.gmem.relE = true → u.fenMet t y.gmem.fenE = true → (∀ x ∈ u.sq.spots, x.running = false) → here →
            epochOld (u.epochOf (quarterOf t) p) (Tab.read 0 p.toNat (u.quarter (hiveQuarter t opc ops)).pepoch) = false →
            ∃ z : Word, r.st = .done (z.setWidth 512) false ∧ effect v z exc)))
    let refused (code : Byte) (v : State) (z : Word) (exc : Option Byte) : Prop :=
      z = 0 ∧ exc = some code ∧ v.quarters = u.quarters ∧ v.mem = u.mem
    let onStream (free : Byte) (h : Word) (is : Nat → Nat → State → Word → Option Byte → Prop) (v : State) (z : Word)
        (exc : Option Byte) : Prop :=
      (u.record? p h = none → refused 0x59 v z exc) ∧
      ∀ q i, u.record? p h = some (q, i) →
        ((u.stream q i).state = 0 → refused free v z exc) ∧ ((u.stream q i).state ≠ 0 → is q i v z exc)
    let changed (q i : Nat) (v : State) (x : Stream) : Prop :=
      v.stream q i = x ∧ (∀ j, j ≠ i → v.stream q j = u.stream q j) ∧ v.mem = u.mem
    let became (q i : Nat) (v : State) (x : Stream) : Prop :=
      (∃ prom demo nout, v.stream q i = { x with prom, demo, nout }) ∧
      ((∀ g, (u.hive q g).promq = [] ∧ (u.hive q g).demoting = false ∧
        (u.hive q g).resv.toNat + (u.hive q g).low.toNat ≤ (u.hive q g).hbmFree.toNat) → changed q i v x)
    op (.hnew t b) 0xE8 b (opNone b) false 2 (if fld (arg 0) 10 54 ≠ 0 ∨ 19 < fld (arg 0) 3 5 then some (arg 0) else none)
      True (fun v z exc =>
        let q := fld (arg 0) 3 5
        (u.hiveOpen q p = false → refused 0x59 v z exc) ∧
        (u.hiveOpen q p = true → exc = none ∧
          ((∀ i < 16384, (u.stream q i).state ≠ 0) → z = 0 ∧ v.quarters = u.quarters) ∧
          ((∃ i < 16384, (u.stream q i).state = 0) → ∃ i < 16384, (u.stream q i).state = 0 ∧ z = v.handle q i ∧
            changed q i v { Stream.reset with
              state := if bit (arg 0) 8 then 2 else 1, prio := (arg 0).extractLsb' 0 3, mirc := bit (arg 0) 9, part := p
              gen := nextGen (u.stream q i).gen, deadline := arg 1 }))) ∧
    op (.hset t b) 0xE9 b (opRange 0 8 b) false 2 none True
      (onStream 0x59 (arg 0) fun q i v z exc =>
        let x := u.stream q i
        let n := arg 1
        (b = 0 → n = x.state.setWidth 64 → exc = none ∧ z = n ∧ became q i v x) ∧
        (b = 0 → x.state = 3 → n = 4 → exc = none ∧ z = 3 ∧ became q i v { x with ppend := true }) ∧
        (b = 0 → x.state = 3 → n = 2 → if y.user then refused 0x5A v z exc else
          exc = none ∧ z = 3 ∧ became q i v { x with state := 2, ppend := false }) ∧
        (b = 0 → x.state = 1 ∨ x.state = 2 ∨ x.state = 4 → n = 1 ∨ n = 2 ∨ n = 4 ∨ n = 5 → n ≠ x.state.setWidth 64 →
          exc = none ∧ z = x.state.setWidth 64 ∧ became q i v { x with state := n.setWidth 3, ppend := false }) ∧
        (b = 0 → n ≠ x.state.setWidth 64 → x.state = 5 ∨ n = 0 ∨ n = 3 ∨ 5 < n.toNat ∨ x.state = 3 ∧ (n = 1 ∨ n = 5) →
          refused 0x5A v z exc) ∧
        (b = 1 → exc = none ∧ z = x.prio.setWidth 64 ∧ changed q i v { x with prio := n.setWidth 3 }) ∧
        (b = 2 → exc = none ∧ z = x.deadline ∧ changed q i v { x with deadline := n }) ∧
        (b = 3 → exc = none ∧ z = x.pos ∧ changed q i v { x with pos := n }) ∧
        (4 ≤ b.toNat → b.toNat < 8 → exc = none ∧ z = nth x.user (b.toNat - 4) 0 ∧
          changed q i v { x with user := x.user.setIfInBounds (b.toNat - 4) n }) ∧
        (b = 8 → exc = none ∧ z = (if x.mirc then 1 else 0) ∧ changed q i v { x with mirc := bit n 0 })) ∧
    op (.hget t b) 0xEA b (opRange 0 10 b) false 1 none True
      (onStream 0x59 (arg 0) fun q i v z exc =>
        let x := u.stream q i
        exc = none ∧ v.quarters = u.quarters ∧ v.mem = u.mem ∧
        (b = 0 → fld z 0 3 = x.state.toNat ∧ bit z 3 = x.ppend ∧ fld z 4 3 = x.prio.toNat ∧ fld z 8 6 = x.part.toNat ∧
          fld z 32 32 = x.gen.toNat) ∧
        (b = 1 → z = x.deadline) ∧ (b = 2 → z = x.step) ∧ (b = 3 → z = x.pos) ∧
        (4 ≤ b.toNat → b.toNat < 8 → z = nth x.user (b.toNat - 4) 0) ∧
        (b = 8 → x.ncell < 2 ^ 17 → x.nout < 2 ^ 17 → fld z 0 17 = x.ncell ∧ fld z 32 17 = x.nout) ∧
        (b = 9 → z = x.croot.setWidth 64) ∧ (b = 10 → fld z 0 32 = x.lastsel.toNat ∧ fld z 32 16 = x.defer.toNat)) ∧
    op (.hcellAppend t b6) 0xEB (hcellByte 0 b6) (b6 == 0) false 2
      (if (arg 1).toNat < 1 ∨ 1024 < (arg 1).toNat then some (arg 1) else none) True
      (onStream 0x5A (arg 0) fun q i v z exc => exc = none ∧
        (u.canAppend q i (arg 1).toNat = false → z = 0 ∧ v.quarters = u.quarters ∧ v.mem = u.mem) ∧
        (u.canAppend q i (arg 1).toNat = true → (v.stream q i).ncell = (u.stream q i).ncell + (arg 1).toNat ∧
          z = BitVec.ofNat 64 (v.stream q i).ncell)) ∧
    op (.hcellEntry t b6) 0xEB (hcellByte 1 b6) (b6 == 0) false 2 none True
      (onStream 0x59 (arg 0) fun q i v z exc =>
        ((u.stream q i).ncell ≤ (arg 1).toNat → refused 0x59 v z exc) ∧
        ((arg 1).toNat < (u.stream q i).ncell → exc = none ∧ v.mem = u.mem ∧ (v.stream q i) = u.stream q i ∧
          ∀ a, u.hiveMap q (u.stream q i).part (u.entryVa q i (arg 1).toNat) kLoad false = some a → u.clean →
            u.access (whoHive q (u.stream q i).part) a = .serve → z = u.wordAt a)) ∧
    op (.hcellRelease t b6) 0xEB (hcellByte 2 b6) (b6 == 0) false 2
      (if (arg 1).toNat < 1 ∨ 1024 < (arg 1).toNat then some (arg 1) else none) True
      (onStream 0x5A (arg 0) fun q i v z exc =>
        ((u.stream q i).ncell < (arg 1).toNat → refused 0x59 v z exc) ∧
        ((arg 1).toNat ≤ (u.stream q i).ncell → exc = none ∧ (v.stream q i).ncell = (u.stream q i).ncell - (arg 1).toNat ∧
          z = BitVec.ofNat 64 (v.stream q i).ncell)) ∧
    op (.hdone t b) 0xEC b (opRange 0 2 b) false 2 none True
      (onStream 0x59 (arg 0) fun q i v z exc =>
        let x := u.stream q i
        (x.state ≠ 3 → refused 0x5A v z exc) ∧
        (x.state = 3 → exc = none ∧ z = x.step + 1 ∧ became q i v { x with
          state := if b = 2 then 5 else if x.ppend then 4 else if b = 0 then 2 else 1
          ppend := false, step := x.step + 1, pos := arg 1 })) ∧
    op (.hbeat t b) 0xED b (opNone b) false 2
      (if (arg 1).toNat < 1 ∨ 4096 < (arg 1).toNat then some (arg 1) else if (arg 0).toNat % 64 ≠ 0 then some (arg 0) else none)
      True (fun v z exc =>
        let q := quarterOf t
        let beat := (u.hive q p).beatno + 1
        (u.hiveOpen q p = false → refused 0x59 v z exc) ∧
        (u.hiveOpen q p = true → u.hiveMap q p (arg 0).toNat kStore y.user = none → refused 0x5B v z exc) ∧
        ∀ a k, u.hiveOpen q p = true → u.hiveMap q p (arg 0).toNat kStore y.user = some a → regionOf a = .store k →
          (k / 64 ≠ q → refused 0x5B v z exc) ∧
          (k / 64 = q → exc = none ∧ (v.hive q p).beatno = beat ∧ fld z 32 32 = beat.toNat ∧
            (u.readyOrder q p = [] → fld z 0 32 = 0) ∧
            ∀ i, u.readyOrder q p = [i] →
              ((u.stream q i).nout = 0 → fld z 0 16 = 1 ∧ fld z 16 16 = 0 ∧ (v.stream q i).state = 3 ∧
                (v.stream q i).lastsel = beat ∧ (v.stream q i).defer = 0) ∧
              ((u.stream q i).nout ≠ 0 → fld z 0 16 = 0 ∧ fld z 16 16 = 1 ∧ (v.stream q i).state = (u.stream q i).state ∧
                (v.stream q i).defer = satInc (u.stream q i).defer))) ∧
    op (.hfree t b) 0xEE b (opNone b) false 1 none True
      (onStream 0x59 (arg 0) fun q i v z exc =>
        let x := u.stream q i
        (x.state = 3 → refused 0x5A v z exc) ∧
        (x.state ≠ 3 → exc = none ∧ z = BitVec.ofNat 64 x.ncell ∧ (v.stream q i).state = 0 ∧
          (v.stream q i).gen = nextGen x.gen ∧ (v.stream q i).ncell = 0)) ∧
    op (.hadopt t b) 0xEF b (opNone b) true 2
      (if fld (arg 0) 5 59 ≠ 0 then some (arg 0) else if (arg 1).toNat % 64 ≠ 0 then some (arg 1)
        else if 19 < fld (arg 0) 0 5 then some (arg 0) else none)
      (∀ k < 2, ∀ a, u.hiveCity (fld (arg 0) 0 5) p ((arg 1).toNat + 64 * k) kLoad false = some a → u.isLocal a = true)
      (fun v z exc =>
        let q := fld (arg 0) 0 5
        let half (k : Nat) : Option Nat := u.hiveCity q p ((arg 1).toNat + 64 * k) kLoad false
        (u.hiveOpen q p = false → refused 0x59 v z exc) ∧
        (u.hiveOpen q p = true → half 0 = none ∨ half 1 = none → refused 0x5B v z exc) ∧
        ∀ a0 a1, u.hiveOpen q p = true → half 0 = some a0 → half 1 = some a1 → exc = none ∧
          ((∀ i < 16384, (u.stream q i).state ≠ 0) → z = 0) ∧
          ((∃ i < 16384, (u.stream q i).state = 0) → u.clean → (∀ a, a = devAddr a0 ∨ a = devAddr a1 → a % 64 = 0 ∧
              ∀ i < 64, u.access (whoHive q p) (a + i) = .serve) →
            let w (k : Nat) : Word := u.wordAt (if k < 8 then devAddr a0 + 8 * k else devAddr a1 + 8 * (k - 8))
            ∃ i < 16384, (u.stream q i).state = 0 ∧ z = v.handle q i ∧ v.mem = u.mem ∧
              (∀ j, j ≠ i → v.stream q j = u.stream q j) ∧ v.stream q i = { Stream.reset with
                state := 4, prio := (w 0).extractLsb' 4 3, mirc := bit (w 0) 7, part := p, gen := nextGen (u.stream q i).gen
                deadline := w 1, step := w 2, pos := w 3, user := #v[w 8, w 9, w 10, w 11] }))

/-- What the Hive does by itself (R317, R318, R323, R331 to R334): HCTL and the building of the free stacks; the completion of a
cell's move; intake, whose watch starts a round, whose entries act on streams as instructions do and leave a RESULT, whose CONS
advances, and whose round ends at PROD; and the header of a mirror image. A change of state may let the mover start, which writes
cell entries (R322). -/
def Obligations.HiveEvents : Prop :=
  ∀ (w : Writer) (q : QuarterNo) (p : PartNo) (v : Word) (s : State),
    let h := s.hive q p
    let k := h.intake
    let allowed := s.mayHive w q p = true
    (¬allowed → ∃ s', exec (.hiveEnable w q p v) s = .next s' ∧ s'.quarters = s.quarters ∧ s'.mem = s.mem) ∧
    (allowed → h.en = true → bit v 0 = false → s.streamsOf q p ≠ [] → exec (.hiveEnable w q p v) s = .next s) ∧
    (allowed → h.en = false ∨ bit v 0 = true ∨ s.streamsOf q p = [] → ∃ s', exec (.hiveEnable w q p v) s = .next s' ∧
      s'.hive q p = { h with en := bit v 0, miren := bit v 1, jrnen := bit v 2, bsfirst := bit v 3
                             rdy := h.rdy && h.en && bit v 0 } ∧ s'.mem = s.mem) ∧
    (h.en = true → h.rdy = false → s.curfew = false → ∃ s', exec (.hiveReady q p) s = .next s' ∧ (s'.hive q p).rdy = true ∧
      (s'.hive q p).resv = 0 ∧ (s'.hive q p).promq = [] ∧ (s'.hive q p).hbmFree = h.hbmCells ∧
      (s'.hive q p).bsFree = h.bsCells ∧ (s'.hive q p).ddrFree = h.ddrCells ∧ (s'.hive q p).listFree = h.listPages) ∧
    (∀ n m, s.curfew = false → (s.quarter q).moves[n]? = some m →
      let g := s.hive q m.part
      let maps := s.moveMaps q m = true
      (maps → m.freed = false → ∃ s', exec (.cellMoveComplete q n) s = .next s' ∧
        (m.up = true → (s'.hive q m.part).promoted = satInc g.promoted ∧ (s'.hive q m.part).demoted = g.demoted) ∧
        (m.up = false → (s'.hive q m.part).demoted = satInc g.demoted ∧ (s'.hive q m.part).promoted = g.promoted)) ∧
      (¬maps → ∃ s', exec (.cellMoveComplete q n) s = .next s' ∧ .toSquare 5 q m.stream ∈ s'.out)) ∧
    (∀ x, s.watches.find? (fun x => x.who = Watcher.intake q p.toNat) = some x → s.curfew = false → h.intakeEn = true →
      k.active = false → k.dead = false →
      (x.x.toNat ≤ s.valueAt x.addr 8 → ∃ s', exec (.intakeWatchFires q p) s = .next s' ∧
        (s'.hive q p).intake = { k with active := true, applied := false, count := 0 } ∧ s'.mem = s.mem ∧
        ∀ z ∈ s'.watches, z.who ≠ Watcher.intake q p.toNat) ∧
      (s.valueAt x.addr 8 < x.x.toNat → exec (.intakeWatchFires q p) s = .next s)) ∧
    (∀ ws c, s.curfew = false → k.active = true → k.applied = false → (s.ringLook q p).2 = .words ws → s.clean → s.memOk →
      let va := s.ringEntry q p k.cons.toNat (fld (bytesWord ws 2) 0 5)
      let a := devAddr c
      s.hiveCity q p va kLoad false = some c → (∀ j < 8, s.hiveCity q p (va + 8 * j) kStore false = some (c + 8 * j)) →
      s.isLocal c = true → c % 64 = 0 → (∀ i < 64, s.access (whoHive q p) (a + i) = .serve) →
        let word (j : Nat) : Word := s.wordAt (a + 8 * j)
        let o := fld (word 0) 0 4
        let reserved := o = 0 ∨ 6 < o ∨ fld (word 0) 8 24 ≠ 0
        let still : Prop := ∀ x g, (s.hive x g).promq = [] ∧ (s.hive x g).demoting = false ∧
          (s.hive x g).resv.toNat + (s.hive x g).low.toNat ≤ (s.hive x g).hbmFree.toNat
        let answers (c : Instr) (code : Nat) (is : State → Prop) : Prop := ∃ s', exec c s = .next s' ∧ is s' ∧
          (s'.hive q p).intake = { k with applied := true } ∧
          (still → (s'.wordAt (a + 0x38)).toNat = code ∧ ∀ d, d < a + 0x38 ∨ a + 0x40 ≤ d → s'.byteAt d = s.byteAt d)
        let commands : List Instr :=
          [.intakeNew q p, .intakeReady q p, .intakePause q p, .intakeFinish q p, .intakeFree q p, .intakeDeadline q p]
        let sets (c : Instr) (to_ : BitVec 3) (from_ : BitVec 3 → Prop) (after : Stream) : Prop :=
          (s.named p (word 1) = none → answers c 3 fun s' => ∀ j, s'.stream q j = s.stream q j) ∧
          ∀ x i, s.named p (word 1) = some (x, i) →
            (from_ (s.stream x i).state → answers c 1 fun s' => ∃ prom demo nout, s'.stream x i =
              { s.stream x i with state := after.state, ppend := after.ppend, prom, demo, nout }) ∧
            ((s.stream x i).state = to_ → answers c 1 fun s' => ∃ prom demo nout, s'.stream x i =
              { s.stream x i with prom, demo, nout }) ∧
            ((s.stream x i).state = 5 → to_ ≠ 5 → answers c 4 fun s' => s'.stream x i = s.stream x i)
        let goes (x : BitVec 3) (ppend : Bool) : Stream := { Stream.reset with state := x, ppend }
        (reserved → ∀ c ∈ commands, answers c 5 fun s' => ∀ x j, s'.stream x j = s.stream x j) ∧
        (¬reserved →
          (o = 1 → s.hiveOpen q p = false → answers (.intakeNew q p) 3 fun s' => ∀ j, s'.stream q j = s.stream q j) ∧
          (o = 1 → s.hiveOpen q p = true → (∃ i < 16384, (s.stream q i).state = 0) → ∃ s' i,
            exec (.intakeNew q p) s = .next s' ∧ i < 16384 ∧
            (s.stream q i).state = 0 ∧ (s'.hive q p).intake = { k with applied := true } ∧
            s'.stream q i = { Stream.reset with
              state := if bit (word 0) 7 then 2 else 1, prio := (word 0).extractLsb' 4 3, part := p
              gen := nextGen (s.stream q i).gen, deadline := word 2, user := #v[word 3, word 4, word 5, 0] }) ∧
          (o = 1 → s.hiveOpen q p = true → (∀ i < 16384, (s.stream q i).state ≠ 0) →
            answers (.intakeNew q p) 2 fun s' => ∀ j, s'.stream q j = s.stream q j) ∧
          (o = 2 → sets (.intakeReady q p) 2 (fun x => x = 1 ∨ x = 3 ∨ x = 4) (goes 2 false)) ∧
          (o = 3 → sets (.intakePause q p) 4 (fun x => x = 1 ∨ x = 2) (goes 4 false)) ∧
          (o = 3 → sets (.intakePause q p) 4 (fun x => x = 3) (goes 3 true)) ∧
          (o = 4 → sets (.intakeFinish q p) 5 (fun x => x = 1 ∨ x = 2 ∨ x = 4) (goes 5 false)) ∧
          (o = 4 → ∀ x i, s.named p (word 1) = some (x, i) → (s.stream x i).state = 3 →
            answers (.intakeFinish q p) 4 fun s' => s'.stream x i = s.stream x i) ∧
          (o = 5 → ∀ x i, s.named p (word 1) = some (x, i) →
            ((s.stream x i).state = 3 → answers (.intakeFree q p) 4 fun s' => s'.stream x i = s.stream x i) ∧
            ((s.stream x i).state ≠ 3 → ∃ s', exec (.intakeFree q p) s = .next s' ∧ (s'.stream x i).state = 0 ∧
              (s'.stream x i).gen = nextGen (s.stream x i).gen ∧ (s'.hive q p).intake = { k with applied := true })) ∧
          (o = 6 → ∀ x i, s.named p (word 1) = some (x, i) →
            answers (.intakeDeadline q p) 1 fun s' => s'.stream x i = { s.stream x i with deadline := word 2 }))) ∧
    (∀ ws, s.curfew = false → k.active = true → k.applied = true → s.ringOwes q p = false → (s.ringLook q p).2 = .words ws →
      let cons := k.cons + 1
      ∃ s', exec (.intakeConsAdvance q p) s = .next s' ∧
        (cons.toNat < (bytesWord ws 0).toNat → (s'.hive q p).intake = { k with cons, applied := false, count := k.count + 1 } ∧
          ∀ c, s.hiveCity q p (h.intakeBase.toNat + 8) kStore false = some c → s.isLocal c = true → c % 8 = 0 → s.clean → s.memOk →
            (∀ i < 8, s.access (whoHive q p) (devAddr c + i) = .serve) → s'.wordAt (devAddr c) = cons ∧
            ∀ d, d < devAddr c ∨ devAddr c + 8 ≤ d → s'.byteAt d = s.byteAt d) ∧
        ((bytesWord ws 0).toNat ≤ cons.toNat → (s'.hive q p).intake.active = false ∧ (s'.hive q p).intake.applied = false ∧
          (s'.hive q p).intake.count = 0)) ∧
    (k.active = true → (s.ringLook q p).2 = .unfit → s.curfew = false → k.applied = true → s.ringOwes q p = false →
      ∃ s', exec (.intakeConsAdvance q p) s = .next s' ∧ .toSquare 6 q p.toNat ∈ s'.out ∧
        (s'.hive q p).intake = { active := false, cons := 0, applied := false, count := 0, dead := true }) ∧
    ∀ beat, s.curfew = false → h.mirroring = some beat → s.owes (.mirror q p.toNat) = false →
      h.jrnen = false → h.jcells = [] →
      (h.mirBad = true → ∃ s', exec (.mirrorHeaderWrite q p) s = .next s' ∧ (s'.hive q p).mirroring = none ∧
        (s'.hive q p).mirlost = satInc h.mirlost ∧ (s'.hive q p).mseq = h.mseq ∧ s'.mem = s.mem ∧
        s'.out = .toSquare 7 q p.toNat :: s.out) ∧
      (h.mirBad = false →
        let a := h.miraddr.toNat + 0x5000000 + q * 64
        s.isLocal a = true → s.isLocal (a + 8) = true → isMemory (devAddr a) = true → devAddr (a + 8) = devAddr a + 8 →
        isMemory (devAddr (a + 8)) = true → s.clean → s.memOk → (∀ i < 16, s.access (whoHive q p) (devAddr a + i) = .serve) →
        ∃ s', exec (.mirrorHeaderWrite q p) s = .next s' ∧ (s'.hive q p).mirroring = none ∧ (s'.hive q p).mseq = beat ∧
          (s'.wordAt (devAddr a)).toNat = beat.toNat + beat.toNat / 16 % 2 * 2 ^ 32 ∧ s'.wordAt (devAddr a + 8) = s.time ∧
          ∀ d, d < devAddr a ∨ devAddr a + 16 ≤ d → s'.byteAt d = s.byteAt d)

/-! ## Fabric ports and the switch (R337 to R363, R400, R401, R413) -/

/-- A port's states (R338, R343, R351 to R353, R363, R400, R401, R413): training, the qualification count, the retrain that needs
its permit, BEAT, fencing and the return by ADMIT, and the three steps of the link session. Flits and control messages of a port
(R339 to R342, R344, R363): a data flit that fails a check or runs ahead is discarded and NAKed, a duplicate is discarded, and
the expected one is delivered; the flit that completes a packet gives it to the switch, and one that does not keeps its bytes;
ACKSEQ frees what it covers; a NAK resends in order, and the eighth in a row for one SEQ retrains; CREDIT carries the counters of
freed flits; and the messages of a control flit are read as they were packed. That a second's count comes with the command, and
that BEAT periods are those of the port's own BEATs, is the model's (log entries 150 and 153). -/
def Obligations.PortsAndFlits : Prop :=
  (∀ (p : PortNo) (h : Handshake) (m : BeatMsg) (w : Writer) (bits cw syms : Nat) (s : State),
    let x := s.port p
    let own := s.devnum
    let permit := portRetrain p
    let gives (c : Instr) (is : State → Port → Prop) : Prop := ∃ s', exec c s = .next s' ∧ is s' (s'.port p) ∧
      (((s'.port p).state = 4 ∨ (s'.port p).state = 0 → s.returns = []) → s'.mem = s.mem ∧ s'.tiles = s.tiles) ∧
      s'.inbox = s.inbox ∧ ∀ j, j ≠ p.val → s'.port j = s.port j
    let becomes (c : Instr) (y : Port) : Prop := gives c fun _ z => z = y
    let stays (c : Instr) : Prop := exec c s = .next s
    let fenced (z : State) (y : Port) : Prop := y.state = 4 ∧ y.session = false ∧ .toSquare 1 p.val 0 ∈ z.out ∧
      .toManager 2 p.val ∈ z.out ∧ ∀ n ∈ (z.edge (p.val / 6)).queue, n.via ≠ some p.val
    let violation : Port := { x with viol := satInc x.viol, violSec := x.violSec + 1 }
    let violates (c : Instr) : Prop := becomes c violation
    let ctl (m : CtlMsg) : Out := .ctl p.val (x.ctlCount.setWidth 12) (x.expect - 1) (packCtl [m])
    let sent (z : State) (o : Out) : Prop := z.out = o :: s.out
    let shakes (step : Byte) (z : State) (y : Port) : Prop := ∃ fs : List (List Byte),
      fs.flatten = Config.handshakeBytes p.val step.toNat s.fresh ∧ (∀ b ∈ fs, b.length ≤ 224) ∧
      y.ctlCount = x.ctlCount + BitVec.ofNat 63 fs.length ∧ z.out.length = s.out.length + fs.length ∧
      ∀ i (hi : i < fs.length), .ctl p.val ((x.ctlCount + BitVec.ofNat 63 i).setWidth 12) (x.expect - 1)
        (packCtl [.handshake step (BitVec.ofNat 8 i) (i + 1 == fs.length) fs[i]]) ∈ z.out
    let free := s.permitBlocked permit = false ∧ ∀ v ∈ s.sq.permits.wait, v.unit = permit.unit → actWaits v.act = false
    let retrains (c : Instr) (said : State → Prop) : Prop :=
      (free → gives c fun z y => said z ∧ y.state = 1 ∧ y.session = false ∧ y.counted = false ∧ permit ∈ z.sq.permits.held) ∧
      (¬free → gives c fun z y => said z ∧ y.state = 3 ∧ permit ∈ z.sq.permits.wait)
    let retired (l : Nat) : Prop := bit s.sq.fp.lane (4 * p.val + l) = true
    let noPair := (retired 0 ∨ retired 1) ∧ (retired 2 ∨ retired 3)
    let passes := bits * 1000000 ≤ x.bitRate ∧ x.uncSec = 0
    let exceeds := x.bitRate < bits * 100000 ∨ 16 < x.uncSec
    let lower := s.devnum < Config.planPeer p.val
    let qualified := x.state = 2 ∧ x.counted = true
    let entry := Tab.read 0 s.dist.manager.toNat (s.edge (p.val / 6)).routes
    let leads := ∃ k < 4, bit entry (8 * k + 6) = true ∧ fld entry (8 * k) 5 = p.val
    let theirs : Int := m.tsend.toNat + (((s.time.toNat : Int) - m.techo.toNat) - ((m.tsend.toNat : Int) - m.tback.toNat)) / 2
    (x.state = 1 → ¬noPair → gives (.portTrainingDone p) fun _ y =>
      y = { x with state := 2, counted := false, session := false, hsStep := 0, uncSec := 0, lanes := y.lanes } ∧
      (¬retired 0 → ¬retired 1 → ¬retired 2 → ¬retired 3 → y.lanes = 3) ∧
      (retired 0 ∨ retired 1 → y.lanes = 2) ∧ (retired 2 ∨ retired 3 → y.lanes = 1)) ∧
    (x.state = 1 → noPair → gives (.portTrainingDone p) fun z y => y.state = 0 ∧ bit z.sq.fp.port p.val = true) ∧
    (x.state ≠ 1 → stays (.portTrainingDone p) ∧ stays (.noSignalTimeout p)) ∧
    (x.state = 1 → becomes (.noSignalTimeout p) { x with measured := true }) ∧
    (x.state ≠ 2 ∨ x.counted = true → stays (.qualifyCountEnd p ⟨bits, cw, syms⟩)) ∧
    (x.state = 2 → x.counted = false →
      (passes → gives (.qualifyCountEnd p ⟨bits, cw, syms⟩) fun z y =>
        y = { x with counted := true, measured := true, failedCounts := 0, hsStep := if lower then 1 else 0
                     cwcorr := satAdd x.cwcorr cw, symerr := satAdd x.symerr syms, ctlCount := y.ctlCount } ∧
        (lower → shakes 1 z y) ∧ (¬lower → z.out = s.out ∧ y.ctlCount = x.ctlCount)) ∧
      (¬passes → gives (.qualifyCountEnd p ⟨bits, cw, syms⟩) fun z y => y.state = 1 ∧ y.failedCounts = x.failedCounts + 1 ∧
        (x.failedCounts = 2 → y.measured = true ∧ sent z (.toManager 3 p.val)) ∧
        (x.failedCounts ≠ 2 → y.measured = x.measured ∧ z.out = s.out))) ∧
    (x.state ≠ 3 ∨ ¬exceeds → becomes (.errorCountEnd p ⟨bits, cw, syms⟩)
      { x with violSec := 0, uncSec := 0, cwcorr := satAdd x.cwcorr cw, symerr := satAdd x.symerr syms }) ∧
    (x.state = 3 → exceeds → retrains (.errorCountEnd p ⟨bits, cw, syms⟩) fun z => ctl .retrain ∈ z.out) ∧
    (x.state = 3 → retrains (.retrain p) fun z => z.out = s.out) ∧
    (x.state ≠ 3 → stays (.retrain p) ∧ stays (.beatTimeout p)) ∧
    (x.state = 3 → gives (.beatTimeout p) fun z y => fenced z y ∧ y.beatmiss = satAdd x.beatmiss (3 - x.missRun)) ∧
    (x.violSec ≤ 1000 ∨ x.state = 4 → stays (.violationRateFence p)) ∧
    (1000 < x.violSec → x.state ≠ 4 → gives (.violationRateFence p) fenced) ∧
    (mayEdge w = true → x.state = 4 → gives (.admitPort w p) fun _ y => y.state = 1 ∧ y.session = false) ∧
    (mayEdge w = true → x.state ≠ 4 → stays (.admitPort w p)) ∧
    (mayEdge w = false → becomes (.admitPort w p) x) ∧
    (x.state = 3 ∨ x.state = 2 ∧ x.session = true → gives (.beatSend p) fun z y =>
      (x.state = 3 → x.heard = false →
        y = { x with ctlCount := x.ctlCount + 1, beatmiss := satInc x.beatmiss, missRun := x.missRun + 1 }) ∧
      (x.state = 2 ∨ x.heard = true → y = { x with ctlCount := x.ctlCount + 1, heard := false }) ∧
      sent z (ctl (.beat { sport := BitVec.ofNat 8 p.val, devnum := own, role := s.dist.role, curfew := s.curfew
                           mepoch := s.dist.mepoch, tsend := s.time, techo := x.beatPeer, tback := x.beatHere, authOk := true }))) ∧
    (x.state ≠ 3 → ¬(x.state = 2 ∧ x.session = true) → stays (.beatSend p) ∧ stays (.beat p m)) ∧
    (x.state = 3 ∨ x.state = 2 ∧ x.session = true →
      (m.authOk = false → x.state = 2 → becomes (.beat p m) { x with authfail := satInc x.authfail }) ∧
      (m.authOk = false → x.state = 3 → gives (.beat p m) fun z y => y.authfail = satInc x.authfail ∧ y.naks = satInc x.naks ∧
        y.waitSeq = true ∧ ctl (.nak x.expect) ∈ z.out) ∧
      (m.authOk = true → m.devnum = x.peer → gives (.beat p m) fun z y =>
        y = { x with state := 3, beatPeer := m.tsend, beatHere := s.time, heard := true, missRun := 0 } ∧
        (x.state = 2 → permit ∉ z.sq.permits.held) ∧
        (s.sq.ready = true ∨ m.techo = 0 ∨ s.dist.role = 2 ∧ s.dist.manager = own ∧ own.toNat < 64 → z.time = s.time) ∧
        (leads → ¬(s.dist.role = 2 ∧ s.dist.manager = own) → m.techo ≠ 0 →
          (s.sq.ready = true → m.techo.toNat ≥ (s.dist.timeSet.getD 0).toNat → z.dist.behind = theirs - s.time.toNat) ∧
          (s.sq.ready = false → s.dist.timeSet = none → theirs < 2 ^ 64 →
            (z.time.toNat : Int) = max theirs s.time.toNat ∧ z.dist.behind = theirs - z.time.toNat ∧
            z.dist.timeSet = some z.time))) ∧
      (m.authOk = true → m.devnum ≠ x.peer → x.state = 2 → violates (.beat p m)) ∧
      (m.authOk = true → m.devnum ≠ x.peer → x.state = 3 → gives (.beat p m) fun z y => fenced z y ∧ y.viol = satInc x.viol)) ∧
    (x.state = 3 → violates (.hello p h) ∧ violates (.reply p h) ∧ violates (.fin p h)) ∧
    (x.state ≠ 3 → ¬qualified → stays (.hello p h) ∧ stays (.reply p h) ∧ stays (.fin p h)) ∧
    (qualified → x.session = false →
      (h.chainOk = true → h.allowed = true → h.devnum < own → gives (.hello p h) fun z y =>
        y = { x with hsStep := 2, peer := h.devnum, ctlCount := y.ctlCount } ∧ shakes 2 z y) ∧
      (h.chainOk = false ∨ h.allowed = false ∨ own ≤ h.devnum → gives (.hello p h) fenced) ∧
      (x.hsStep = 2 → stays (.reply p h)) ∧
      (x.hsStep ≠ 2 → h.sigOk = true → h.chainOk = true → h.allowed = true → own < h.devnum → gives (.reply p h) fun z y =>
        y = { x with hsStep := 3, session := true, peer := h.devnum, ctlCount := y.ctlCount } ∧ shakes 3 z y) ∧
      (x.hsStep ≠ 2 → h.sigOk = false ∨ h.chainOk = false ∨ h.allowed = false ∨ h.devnum ≤ own →
        gives (.reply p h) fenced)) ∧
    (qualified → x.hsStep ≠ 2 → stays (.fin p h)) ∧
    (qualified → x.hsStep = 2 →
      (h.sigOk = true → h.devnum = x.peer → becomes (.fin p h) { x with hsStep := 3, session := true }) ∧
      (h.sigOk = false ∨ h.devnum ≠ x.peer → gives (.fin p h) fenced))) ∧
  (∀ ms : List CtlMsg,
    (∀ m ∈ ms, m ≠ .bad ∧ (∀ b, m = .beat b → b.authOk = true) ∧ (∀ l, m = .credit l → l.length = 18) ∧
      ∀ st fr la bs, m = .handshake st fr la bs → bs.length ≤ 224) →
    ((ms.map fun m => (m.bytes.length + 7) / 8 * 8).sum ≤ 242) → (packCtl ms).length = 242 ∧ readCtl 31 (packCtl ms) = ms) ∧
  (∀ (p : PortNo) (f : Flit) (s : State),
    let x := s.port p
    let key := 6 * f.cls.toNat + f.vc.toNat
    let held (y : Port) : List Byte := Tab.read [] key y.rx
    let flits (y : Port) : Nat := Tab.read 0 key y.rxFlits
    let queue (z : State) : List Queued := (z.edge (p.val / 6)).queue
    let acks := (f.ackseq + 1 - x.acked).toNat ≤ (x.nextSeq - x.acked).toNat
    let sound := f.fecOk = true ∧ f.type ≠ 0 ∧ f.authOk = true
    let bad := f.type = 3 ∨ f.rsv ≠ 0 ∨ f.type = 1 ∧ (f.cls = 3 ∨ 6 ≤ f.vc.toNat)
    let gives (c : Instr) (is : State → Port → Prop) : Prop := ∃ s', exec c s = .next s' ∧ is s' (s'.port p) ∧
      s'.mem = s.mem ∧ s'.tiles = s.tiles ∧ s'.inbox = s.inbox ∧ ∀ j, j ≠ p.val → s'.port j = s.port j
    let dropped (z : State) (y : Port) : Prop := y.expect = x.expect ∧ y.rx = x.rx ∧ y.rxFlits = x.rxFlits ∧ queue z = queue s
    let ctl (m : CtlMsg) : Out := .ctl p.val (x.ctlCount.setWidth 12) (x.expect - 1) (packCtl [m])
    let nakked (z : State) (y : Port) : Prop := dropped z y ∧ y.waitSeq = true ∧ y.naks = satInc x.naks ∧
      ctl (.nak x.expect) ∈ z.out
    let arrives (is : State → Port → Prop) : Prop := gives (.dataFlit p f) is
    let inOrder := x.state = 3 ∧ sound ∧ ¬bad ∧ f.type = 1 ∧ f.seq = x.expect
    let acked (y : Port) : Prop := y.acked = f.ackseq + 1 ∧
      y.replay = x.replay.filter fun g => decide ((x.nextSeq - g.seq).toNat ≤ (x.nextSeq - (f.ackseq + 1)).toNat)
    (x.state ≠ 2 → x.state ≠ 3 ∨ f.fecOk = true ∧ f.type = 0 → exec (.dataFlit p f) s = .next s) ∧
    (x.state = 2 →
      (f.fecOk = false → arrives fun _ y => y = { x with cwunc := satInc x.cwunc, uncSec := x.uncSec + 1 }) ∧
      (f.fecOk = true → f.type ≠ 2 ∨ x.counted = false ∨ f.payload = [] → x.session = false → exec (.dataFlit p f) s = .next s) ∧
      (f.fecOk = true → f.type = 2 → x.counted = true → x.session = true → f.authOk = false →
        arrives fun _ y => y = { x with authfail := satInc x.authfail })) ∧
    (x.state = 3 → f.fecOk = false → arrives fun z y => nakked z y ∧ y.cwunc = satInc x.cwunc) ∧
    (x.state = 3 → f.fecOk = true → f.type ≠ 0 → f.authOk = false →
      arrives fun z y => nakked z y ∧ y.authfail = satInc x.authfail) ∧
    (x.state = 3 → sound → bad → arrives fun z y => nakked z y ∧ y.viol = satInc x.viol ∧ .toSquare 2 p.val 0 ∈ z.out) ∧
    (x.state = 3 → sound → ¬bad → f.type ≠ 1 →
      (acks → f.payload.headD 0 = 0 → arrives fun z y => dropped z y ∧ z.out = s.out ∧ acked y) ∧
      (acks → ∀ freed : List Byte, freed.length = 18 → f.payload = packCtl [.credit freed] → arrives fun z y => dropped z y ∧
        z.out = s.out ∧ acked y ∧ ∀ k (hk : k < freed.length), Tab.read 0 k y.peerFreed = freed[k]) ∧
      (¬acks → f.payload.headD 0 = 0 → arrives fun z y => dropped z y ∧ y.viol = satInc x.viol ∧ y.acked = x.acked ∧
        y.replay = x.replay ∧ .toSquare 2 p.val 0 ∈ z.out)) ∧
    (x.state = 3 → sound → ¬bad → f.type = 1 → f.seq ≠ x.expect →
      ((x.expect - f.seq).toNat ≤ 2048 ∨ x.waitSeq = true → arrives fun z y => dropped z y ∧ y.naks = x.naks) ∧
      (2048 < (x.expect - f.seq).toNat → x.waitSeq = false → arrives nakked)) ∧
    (inOrder → 32 ≤ flits x → arrives fun z y => dropped z y ∧ y.owedNak = true ∧ y.waitSeq = true ∧ y.naks = x.naks ∧
      .toSquare 2 p.val 0 ∈ z.out) ∧
    (inOrder → flits x < 32 → f.payload.length = 242 → f.fpo = (if held x = [] then 0 else 127) → ∀ k : Packet,
      k.rsv = false → k.len.toNat = k.data.length → opKnown k.op = true → lengthOk k = true → opClass k.op = f.cls →
      (∀ z, z % 2 = 0 → z ≤ 240 → held x ++ f.payload = packetBytes k ++ List.replicate z 0 → arrives fun v y =>
        y.expect = x.expect + 1 ∧ y.waitSeq = false ∧ held y = [] ∧ flits y = flits x + 1 ∧
        queue v = queue s ++ [{ inPort := some p.val, via := none, cls := f.cls, vc := f.vc
                                flits := Tab.read 0 key x.rxOpen + 1, pkt := k }]) ∧
      ((held x ++ f.payload).length < (packetBytes k).length →
        held x ++ f.payload = (packetBytes k).take (held x ++ f.payload).length → arrives fun v y =>
          y.expect = x.expect + 1 ∧ y.waitSeq = false ∧ held y = held x ++ f.payload ∧ flits y = flits x + 1 ∧
          Tab.read 0 key y.rxOpen = Tab.read 0 key x.rxOpen + 1 ∧ queue v = queue s)) ∧
    (∀ seq : BitVec 12,
      (x.state ≠ 3 → exec (.nak p seq) s = .next s) ∧
      (x.state = 3 → x.replay.length < (x.nextSeq - seq).toNat →
        gives (.nak p seq) fun _ y => y = { x with viol := satInc x.viol, violSec := x.violSec + 1 }) ∧
      (x.state = 3 → (x.nextSeq - seq).toNat ≤ x.replay.length →
        let l := x.replay.filter fun g => decide ((x.nextSeq - g.seq).toNat ≤ (x.nextSeq - seq).toNat)
        let run := if x.nakGot ≠ 0 ∧ x.nakGotSeq = seq then x.nakGot + 1 else 1
        let resent := (l.map fun g => Out.flit p.val g.seq (x.expect - 1) g.fpo g.cls g.vc g.bytes).reverse ++ s.out
        (run ≠ 8 → gives (.nak p seq) fun z y =>
          y = { x with replays := satAdd x.replays l.length, nakGot := run, nakGotSeq := seq } ∧ z.out = resent) ∧
        (run = 8 → gives (.nak p seq) fun z y => y.replays = satAdd x.replays l.length ∧ z.out = ctl .retrain :: resent))) ∧
    ∀ freed : List Byte,
      (x.state ≠ 3 → exec (.credit p freed) s = .next s ∧ exec (.creditSend p) s = .next s) ∧
      (x.state = 3 → freed.length ≠ 18 → gives (.credit p freed) fun _ y =>
        y = { x with viol := satInc x.viol, violSec := x.violSec + 1 }) ∧
      (x.state = 3 → freed.length = 18 → gives (.credit p freed) fun _ y => y = { x with peerFreed := y.peerFreed } ∧
        ∀ k (hk : k < freed.length), Tab.read 0 k y.peerFreed = freed[k]) ∧
      (x.state = 3 → gives (.creditSend p) fun z y => y = { x with freedNew := 0, ctlCount := x.ctlCount + 1 } ∧
        z.out = ctl (.credit ((List.range 18).map fun k => Tab.read 0 k x.freed)) :: s.out))

/-- The switch (R341, R347 to R349, R352, R360, R363): a packet moves when it heads its input and no other input comes before it in
the rotating priority of its output; one at its device leaves by the internal port; any other leaves by the port that its route
names where that port has credit, with HOPS one lower and its VC one higher over a dateline; one whose HOPS runs out or whose
route is gone is discarded, and a request answered NOROUTE; one bound for a fenced port takes its other ways. Whatever leaves
frees its buffer, and the last RETURN packet of this device's own lets the word at RETNOTE advance. -/
def Obligations.TheSwitchForwards : Prop :=
  ∀ (e : EdgeNo) (n : Nat) (x : Queued) (s : State), (s.edge e).queue[n]? = some x → x.pkt.data.length ≤ 256 →
    let k := x.pkt
    let c : Instr := .switchForward e n
    let turn := s.switchTurn e n x = true
    let buffer (z : State) (p : Nat) : Byte := Tab.read 0 (6 * x.cls.toNat + x.vc.toNat) (z.port p).freed
    let returning := x.inPort = none ∧ k.op = 0x0A ∧ k.sdev = s.devnum
    let note (z : State) : Prop := returning → ∀ r : Returning, s.returns = [r] → r.group = k.oparg.extractLsb' 16 16 → r.part = k.part →
      (1 < r.left → z.returns = [{ r with left := r.left - 1 }] ∧ z.mem = s.mem) ∧
      (r.left ≤ 1 → z.returns = [] ∧ (r.note = 0 → z.mem = s.mem) ∧
        let a := r.note / 8 * 8
        (r.note ≠ 0 → s.clean → s.memOk → (∀ i < 8, isMemory (a + i) = true ∧
            s.access { src := 7, num := 0, part := some r.part, user := false } (a + i) = .serve) →
          s.wordAt a ≠ BitVec.allOnes 64 → z.wordAt a = s.wordAt a + 1))
    let leaves (is : State → Prop) : Prop := turn → ∃ s', exec c s = .next s' ∧ is s' ∧ note s' ∧
      (¬returning → s'.mem = s.mem ∧ s'.tiles = s.tiles) ∧
      ∀ p, x.inPort = some p → buffer s' p = buffer s p + BitVec.ofNat 8 x.flits
    let rest (z : State) : Prop := ¬returning → (z.edge e).queue = (s.edge e).queue.eraseIdx n
    let turned (z : State) (o : Nat) : Prop := Tab.read 0 o (z.edge e).rot = (x.input + 1) % 19
    let here := x.inPort.isSome = true ∧ (k.ddev = s.devnum ∨ opClass k.op = 2)
    let noroute (is : State → Prop) : Prop := leaves fun z => is z ∧ z.inbox = s.inbox ∧
      (wantsReply k.op = false → rest z) ∧
      (∀ p, x.inPort = some p → wantsReply k.op = true →
        ({ inPort := none, via := some p, cls := opClass (replyOp k.op), vc := 0, flits := 0
           pkt := replyTo s.devnum k.sdev k.part k.epoch k.txid k.addr (replyOp k.op) 2 [] } : Queued)
          ∈ (z.edge (p / 6)).queue) ∧
      (x.inPort = none → wantsReply k.op = true → s.txWait = [] → ∀ t ∈ z.txs, t.txid ≠ k.txid)
    let forwards (q : Nat) (dateline : Bool) : Prop :=
      let bytes := packetBytes { k with hops := k.hops - 1 }
      let vc := if dateline then x.vc + 1 else x.vc
      let count := (bytes.length + 241) / 242
      let credit := (s.port q).maySend (6 * x.cls.toNat + vc.toNat) count = true
      (k.hops.toNat ≤ 1 → noroute fun z => .toManager 4 k.ddev.toNat ∈ z.out ∧
        ∀ p, x.inPort = some p → (z.port p).viol = satInc (s.port p).viol) ∧
      (1 < k.hops.toNat → ¬credit → exec c s = .next s) ∧
      (1 < k.hops.toNat → credit → leaves fun z => rest z ∧ z.inbox = s.inbox ∧ turned z q ∧
        ∃ l : List TxFlit, (z.port q).replay = (s.port q).replay ++ l ∧ l.length = count ∧ l.flatMap (·.bytes) = bytes ∧
          ∀ i (h : i < l.length), l[i].seq = (s.port q).nextSeq + BitVec.ofNat 12 i ∧ l[i].cls = x.cls ∧ l[i].vc = vc ∧
            l[i].fpo = (if i = 0 then 0 else 127) ∧
            .flit q l[i].seq ((s.port q).expect - 1) l[i].fpo l[i].cls l[i].vc l[i].bytes ∈ z.out)
    (¬turn → exec c s = .next s) ∧ ((s.edge e).queue = [x] → turn) ∧
    (∀ q, x.via = some q → q ≠ 18 →
      ((s.port q).state = 3 → forwards q false) ∧
      ((s.port q).state = 0 ∨ (s.port q).state = 4 →
        (opClass k.op = 2 → leaves rest) ∧
        (opClass k.op ≠ 2 → turn → ∃ s', exec c s = .next s' ∧ s'.mem = s.mem ∧ s'.inbox = s.inbox ∧
          (s'.edge e).queue = (s.edge e).queue.set n { x with via := none })) ∧
      ((s.port q).state ≠ 0 → (s.port q).state ≠ 4 → (s.port q).state ≠ 3 → exec c s = .next s)) ∧
    (x.via = none → here → leaves fun z => rest z ∧ z.inbox = s.inbox ++ [x] ∧ turned z 18) ∧
    (x.via = none → ¬here →
      (∀ q dl, s.route (s.edge e).routes x.vc.toNat k = some (q, dl) → forwards q dl) ∧
      (s.route (s.edge e).routes x.vc.toNat k = none → noroute fun _ => True))

/-- Requests of other devices at their home (R185, R187, R188, R311, R345, R346, R440): one whose way over avenues and streets
is closed, or whose word a spot test holds, waits (R309, R432, R459); one of an old epoch, or in curfew, is answered with zeros and
does nothing; READ, WRITE, the four operations, WATCH, COUNT, whose home reads its words one by one,
and UNWATCH have their effect and are answered; a READ that its home denies is answered with zeros and recorded. -/
def Obligations.RemoteRequestsAreServed : Prop :=
  ∀ (n words : Nat) (x : Queued) (s : State), s.inbox[n]? = some x →
    let p := x.pkt
    let a := pktAddr p
    let agent := whoRemote p
    let way := s.roadOpen (edgePath x.third (s.goalOf (s.cityOf a))) = true ∧ s.underTest a = false
    let size := fld p.oparg 0 9
    let value := s.wordAt a
    let takes (c : Instr) (is : State → Prop) : Prop := way → ∃ s', exec c s = .next s' ∧ s'.inbox = s.inbox.eraseIdx n ∧ is s'
    let answered (z : State) (op status : Byte) (data : List Byte) : Prop :=
      let k := replyTo s.devnum p.sdev p.part p.epoch p.txid p.addr op status data
      ∀ q dl, s.route s.avenue 0 k = some (q, dl) →
        ({ inPort := none, via := none, cls := opClass op, vc := 0, flits := 0, pkt := k } : Queued) ∈ (z.edge (q / 6)).queue
    let served (len : Nat) : Prop := s.absorbs p = false ∧ s.clean ∧ s.memOk ∧
      ∀ i < len, isMemory (a + i) = true ∧ s.access agent (a + i) = .serve
    let operation (c : Instr) (new : Word → Prop) : Prop := served 8 → a % 8 = 0 → takes c fun z =>
      answered z 0x12 0 (natBytes 8 value.toNat) ∧ new (z.wordAt a) ∧ ∀ d, d < a ∨ a + 8 ≤ d → z.byteAt d = s.byteAt d
    let swap (z : Word) : Prop := (value = pktWord p 1 → z = pktWord p 0) ∧ (value ≠ pktWord p 1 → z = value)
    (∀ c op zeros, (c, op, zeros) ∈ ([(.fabricRead n, 0x01, size), (.fabricWrite n, 0x02, 0), (.fabricAadd n, 0x03, 8),
        (.fabricAcas n, 0x04, 8), (.fabricMcmp n, 0x05, 8), (.fabricMcnt n, 0x06, 8), (.fabricCount ⟨n, words⟩, 0x08, 8)] :
          List (Instr × Byte × Nat)) → p.op = op →
      (¬way → exec c s = .next s) ∧ (
      s.absorbs p = true → takes c fun z => z.mem = s.mem ∧ answered z (replyOp op) 0 (List.replicate zeros 0))) ∧
    (p.op = 0x01 →
      (served size → takes (.fabricRead n) fun z => z.mem = s.mem ∧ answered z 0x10 0 (s.bytesAt a size)) ∧
      ∀ why, s.absorbs p = false → s.access agent a = .deny why → takes (.fabricRead n) fun z => z.mem = s.mem ∧
        answered z 0x10 0 (List.replicate size 0) ∧ z.sq.dlog.noted s.sq.dlog s.time) ∧
    (p.op = 0x02 → served p.data.length → takes (.fabricWrite n) fun z => answered z 0x11 0 [] ∧
      (∀ i (h : i < p.data.length), z.byteAt (a + i) = p.data[i]) ∧
      ∀ d, d < a ∨ a + p.data.length ≤ d → z.byteAt d = s.byteAt d) ∧
    (p.op = 0x03 → operation (.fabricAadd n) fun z => z.toNat = (value.toNat + (pktWord p 0).toNat) % 2 ^ 64) ∧
    (p.op = 0x04 → operation (.fabricAcas n) swap) ∧ (p.op = 0x05 → operation (.fabricMcmp n) swap) ∧
    (p.op = 0x06 → operation (.fabricMcnt n) fun z =>
      (z.toNat : Int) = max 0 (min (2 ^ 64 - 1) (value.toNat + (pktWord p 0).toInt))) ∧
    (p.op = 0x07 → served 8 → a % 8 = 0 →
      ((pktWord p 0).toNat ≤ value.toNat → takes (.fabricWatch n) fun z => z.mem = s.mem ∧ answered z 0x13 0 []) ∧
      (value.toNat < (pktWord p 0).toNat → s.watchFree a = true → takes (.fabricWatch n) fun z => z.mem = s.mem ∧
        z.watches = s.watches ++ [{ addr := a, x := pktWord p 0, who := .remote p.sdev p.txid, part := p.part, epoch := p.epoch }]) ∧
      (value.toNat < (pktWord p 0).toNat → s.watchFree a = false → way → exec (.fabricWatch n) s = .next s)) ∧
    (p.op = 0x08 → served 1024 → a % 1024 = 0 → x.run.bad = false → x.run.got ≤ 128 →
      let hits (m : Nat) : Nat := ((List.range m).drop x.run.got).countP fun i =>
        s.wordAt (a + 8 * i) &&& pktWord p 1 == pktWord p 0 &&& pktWord p 1
      (128 ≤ x.run.got + words → takes (.fabricCount ⟨n, words⟩) fun z => z.mem = s.mem ∧
        answered z 0x14 0 (natBytes 8 (x.run.sum + BitVec.ofNat 64 (hits 128)).toNat)) ∧
      (x.run.got + words < 128 → way → ∃ s', exec (.fabricCount ⟨n, words⟩) s = .next s' ∧ s'.mem = s.mem ∧
        s'.inbox = s.inbox.set n { x with run := { got := x.run.got + words, bad := false
                                                   sum := x.run.sum + BitVec.ofNat 64 (hits (x.run.got + words)) } })) ∧
    (p.op = 0x0B → way →
      let waits := ∃ y ∈ s.inbox.eraseIdx n, y.pkt.op = 0x07 ∧ y.pkt.sdev = p.sdev ∧ y.pkt.txid = p.txid
      let holds := ∃ w ∈ s.watches, w.who = .remote p.sdev p.txid
      (holds → ∃ s', exec (.fabricUnwatch n) s = .next s' ∧ s'.mem = s.mem ∧ answered s' 0x11 0 [] ∧
        ∀ w, w ∈ s'.watches ↔ w ∈ s.watches ∧ w.who ≠ .remote p.sdev p.txid) ∧
      (¬holds → ¬waits → exec (.fabricUnwatch n) s = .next { s with inbox := s.inbox.eraseIdx n }))

/-- Reductions across devices, and the ends of transactions (R242, R305, R346, R359 to R361, R363): a PARTIAL or RETURN of an unknown
group or an old generation is discarded and counted; a PARTIAL waits for UPPORT or, at the root, goes on to its home entry; a
RETURN is written, passed on along the CHILD ports and counted at RETNOTE; a reply ends its transaction, as 5 ms without one do,
and one that matches none is discarded. -/
def Obligations.GroupsAndRepliesComplete : Prop :=
  ∀ (n : Nat) (x : Queued) (s : State), s.inbox[n]? = some x →
    let p := x.pkt
    let third := x.third
    let gid : BitVec 16 := p.oparg.extractLsb' 16 16
    let g := s.rgroup third gid
    let a := g.retaddr.toNat + (pktAddr p + 2 ^ 44 - g.retaddr.toNat) % 2 ^ 44
    let takes (c : Instr) (is : State → Prop) : Prop := ∃ s', exec c s = .next s' ∧ s'.inbox = s.inbox.eraseIdx n ∧ is s'
    let known := g.v = true ∧ g.group = gid ∧ g.part = p.part
    let current := g.ggen = p.oparg.extractLsb' 32 8
    let discards (c : Instr) : Prop :=
      (¬known → takes c fun z => z.mem = s.mem ∧ z.rgroup third gid = { g with drops := satInc g.drops } ∧
        z.out = .toManager 1 gid.toNat :: s.out) ∧
      (known → ¬current → takes c fun z => z.mem = s.mem ∧ z.rgroup third gid = { g with drops := satInc g.drops } ∧
        z.out = s.out)
    let up := g.upport.toNat
    let meets (y : Queued) : Prop := y.via = some up ∧ y.pkt.op = 0x09 ∧ y.pkt.addr = p.addr ∧ y.pkt.part = p.part ∧
      y.pkt.epoch = p.epoch ∧ y.pkt.oparg.extractLsb' 16 24 = p.oparg.extractLsb' 16 24
    let leaving (c : Nat) : Queued := { inPort := none, via := some c, cls := opClass p.op, vc := 0, flits := 0, pkt := p }
    (p.op = 0x09 → (s.curfew = true → takes (.fabricPartial n) fun z => z.mem = s.mem ∧ z.edges = s.edges) ∧
      (s.curfew = false → discards (.fabricPartial n) ∧ (known → current →
        (g.root = true → takes (.fabricPartial n) fun z => z.mem = s.mem ∧ z.edges = s.edges ∧ ∃ r, z.rpackets = s.rpackets ++ [r] ∧
          r.tag = g.tag ∧ r.part = p.part ∧ r.epoch = p.epoch ∧ r.kind = g.kind ∧ r.home = s.homeQuarter p.addr.toNat 0 ∧
          r.mask = p.oparg.extractLsb' 0 16 ∧ r.cnt = fld p.oparg 40 24 ∧
          ∀ l < 16, (nth r.lanes l 0).toNat = leNat ((p.data.drop (4 * l)).take 4)) ∧
        (g.root = false → up < 18 → (∀ y ∈ (s.edge (up / 6)).queue, ¬meets y) → takes (.fabricPartial n) fun z =>
          z.mem = s.mem ∧ (z.edge (up / 6)).queue = (s.edge (up / 6)).queue ++ [leaving up]) ∧
        (∀ y, g.root = false → up < 18 → (s.edge (up / 6)).queue = [y] → meets y → g.kind = true → takes (.fabricPartial n) fun z =>
          ∃ k : Packet, (z.edge (up / 6)).queue = [{ y with pkt := k }] ∧ z.mem = s.mem ∧ k.addr = p.addr ∧
            fld k.oparg 40 24 = (fld y.pkt.oparg 40 24 + fld p.oparg 40 24) % 2 ^ 24 ∧
            fld k.oparg 0 16 = fld (y.pkt.oparg ||| p.oparg) 0 16 ∧
            ∀ l < 16, let lane (d : List Byte) : BitVec 32 := BitVec.ofNat 32 (leNat ((d.drop (4 * l)).take 4))
              (bit y.pkt.oparg l = true → bit p.oparg l = false → lane k.data = lane y.pkt.data) ∧
              (bit y.pkt.oparg l = false → bit p.oparg l = true → lane k.data = lane p.data) ∧
              (bit y.pkt.oparg l = true → bit p.oparg l = true → (lane k.data).toInt =
                max (-(2 ^ 31)) (min (2 ^ 31 - 1) ((lane y.pkt.data).toInt + (lane p.data).toInt))))))) ∧
    (p.op = 0x0A → (s.curfew = true → takes (.fabricReturn n) fun z => z.mem = s.mem ∧ z.edges = s.edges) ∧
      (s.curfew = false → discards (.fabricReturn n) ∧ (known → current →
        let agent : Who := { src := 7, num := 0, part := some p.part, user := false }
        let got := g.retgot + BitVec.ofNat 40 p.data.length
        let note := g.retnote.toNat / 8 * 8
        let counts := got.toNat = 4 * g.nelem.toNat ∧ g.retnote ≠ 0
        epochOld p.epoch (s.homeEpoch p.part a) = false → s.clean → s.memOk →
        (∀ i < p.data.length, isMemory (a + i) = true ∧ s.access agent (a + i) = .serve) →
        (counts → ∀ i < 8, isMemory (note + i) = true ∧ s.access agent (note + i) = .serve) →
        (note + 8 ≤ a ∨ a + p.data.length ≤ note) →
        takes (.fabricReturn n) fun z => (z.rgroup third gid).retgot = got ∧
          (∀ i (h : i < p.data.length), z.byteAt (a + i) = p.data[i]) ∧
          (counts → s.wordAt note ≠ BitVec.allOnes 64 → z.wordAt note = s.wordAt note + 1) ∧
          (∀ d, d < a ∨ a + p.data.length ≤ d → ¬counts ∨ d < note ∨ note + 8 ≤ d → z.byteAt d = s.byteAt d) ∧
          ∀ c < 18, bit g.child c = true → leaving c ∈ (z.edge (c / 6)).queue))) ∧
    (∀ (t : Transaction) (c : Instr) (op status : Byte) (data : List Byte),
      let replies : List (Instr × Byte) := [(.fabricData n, 0x10), (.fabricAck n, 0x11), (.fabricOld n, 0x12),
        (.fabricFired n, 0x13), (.fabricTotal n, 0x14)]
      let found := s.txs.find? (fun y => y.txid = p.txid && endsTx y op) = some t
      let failed := status ≠ 0
      ((c, op) ∈ replies ∧ p.op = op ∧ status = p.status ∧ data = p.data ∧ found) ∨
        (c = .transactionTimeout t.txid ∧ op = replyOp t.op ∧ status = 3 ∧ data = [] ∧
          s.txs.find? (fun y => y.txid = t.txid) = some t ∧ (t.op ≠ 0x07 ∨ t.unwatched = true)) →
      s.txWait = [] → (c = .fabricAck n → s.dist.change = none ∧ s.dist.vacant = none) →
      ∃ s', exec c s = .next s' ∧ s'.mem = s.mem ∧ s'.tiles = s.tiles ∧ s'.txs = s.txs.filter (fun y => y.txid ≠ t.txid) ∧
        (∀ id r, t.owner = .req id → s.req? id = some r → ¬(t.op = 0x07 ∧ op = 0x11) →
          (r.kind.isOp = true ∨ r.kind.writes = false →
            s'.req? id = some { r with st := .done (lineOf data) (decide failed) }) ∧
          (r.kind.isOp = false → r.kind.writes = true → (∀ y ∈ s'.txs, y.owner ≠ t.owner) →
            s'.req? id = some { r with st := .done (lineOf data) false } ∧
            (failed → (s'.quarter (quarterOf r.tile)).elog.noted (s.quarter (quarterOf r.tile)).elog s.time))) ∧
        (∀ id, t.owner = .req id → t.op = 0x07 → op = 0x11 → s'.req? id = none) ∧
        (∀ k id, t.owner = .dma k id → ∀ y ∈ (s.block k).dma.slots, y.id = id →
          (y.st = .reading → { y with data, st := .ready, err := if failed then some 0x07 else y.err } ∈ (s'.block k).dma.slots) ∧
          (y.st ≠ .reading → { y with st := .done, err := if failed then some 0x08 else y.err } ∈ (s'.block k).dma.slots)) ∧
        (∀ id dpa, t.owner = .host id dpa false → s'.out = .hostData dpa (lineOf data) (decide failed) :: s.out)) ∧
    (∀ q c op, (c, op) ∈ ([(.fabricData n, 0x10), (.fabricAck n, 0x11), (.fabricOld n, 0x12), (.fabricFired n, 0x13),
        (.fabricTotal n, 0x14)] : List (Instr × Byte)) → p.op = op → x.inPort = some q →
      s.txs.find? (fun y => y.txid = p.txid && endsTx y op) = none → s.dist.change = none → s.dist.vacant = none →
      takes c fun z => z.mem = s.mem ∧ z.reqs = s.reqs ∧ z.txs = s.txs ∧ (z.port q).viol = satInc (s.port q).viol) ∧
    ∀ (t : Transaction), s.txs.find? (fun y => y.txid = t.txid) = some t → t.op = 0x07 → t.unwatched = false →
      exec (.transactionTimeout t.txid) s = .next s

/-- The district (R352, R354 to R358, R363, R418): a message that does not come from the manager is discarded, counted and reported;
a command that names no such packet, or another sender than the packet's, does nothing;
the manager's are acknowledged, and set the membership, the routes and the group entries of all three thirds; a member's report is
noted; exclusion, where one of its grounds holds, reaches the standby before it takes effect, raises MEPOCH and is told to every
member; the heartbeats; and the standby that has missed 100 of them becomes manager and says so to every member. The bodies of
messages come with the command: the model's choice (log entry 149). -/
def Obligations.TheDistrictIsManaged : Prop :=
  ∀ (n links : Nat) (x : Queued) (dev : DevNo) (m : MgmtBody) (news : List (DevNo × MgmtBody)) (s : State),
    let d := s.dist
    let sdev := x.pkt.sdev
    let c : Instr := .mgmt n sdev m
    let came := s.inbox[n]? = some x ∧ x.pkt.op = 0x20
    let reports := came ∧ s.isManager = true ∧ d.manager ≠ sdev ∧ (∃ y ∈ d.members, y.1 = sdev.toNat) ∧ m.isReport = true
    let mine := came ∧ sdev = d.manager ∧ m.isReport = false
    let acked (z : State) : Prop :=
      let k := replyTo s.devnum sdev x.pkt.part x.pkt.epoch x.pkt.txid x.pkt.addr 0x11 0 []
      ∀ q dl, z.route z.avenue 0 k = some (q, dl) →
        ({ inPort := none, via := none, cls := 1, vc := 0, flits := 0, pkt := k } : Queued) ∈ (z.edge (q / 6)).queue
    let does (is : State → Prop) : Prop := ∃ s', exec c s = .next s' ∧ is s' ∧ acked s' ∧ s'.inbox = s.inbox.eraseIdx n ∧
      s'.mem = s.mem ∧ s'.tiles = s.tiles
    let routesStay (z : State) : Prop :=
      z.avenue = s.avenue ∧ ∀ e, (z.edge e).routes = (s.edge e).routes ∧ (z.edge e).groups = (s.edge e).groups
    let sets (d' : District) : Prop := does fun z => z.dist = d' ∧ routesStay z
    let told (z : State) (k : Nat) (b : MgmtBody) : Prop :=
      k < 4096 → k ≠ s.devnum.toNat → (∃ y ∈ d.members, y.1 = k ∧ y.2.state ≠ 3) → .mgmt (BitVec.ofNat 12 k) b ∈ z.out
    let report (k : DevNo) (t : Tab MemberReport) : MemberReport := Tab.read ⟨0, s.time, false⟩ k.toNat t
    let awaited (is : Nat × Member → Prop) : Prop := ∃ y ∈ d.members, is y ∧ y.1 < 4096 ∧ y.1 ≠ dev.toNat ∧ y.1 ≠ s.devnum.toNat ∧
      y.2.state ≠ 3 ∧ s.routable (y.1 * 0x100000000000) = true
    (∀ k, (∀ y, s.inbox[n]? = some y → y.pkt.op ≠ 0x20 ∨ y.pkt.sdev ≠ k) → exec (.mgmt n k m) s = .next s) ∧
    (came → sdev ≠ d.manager → s.announces sdev m = false → ¬reports → ∃ s', exec c s = .next s' ∧ s'.mem = s.mem ∧ s'.dist = d ∧
      s'.tiles = s.tiles ∧ s'.inbox = s.inbox.eraseIdx n ∧ s'.out = .toManager 7 sdev.toNat :: s.out ∧ routesStay s' ∧
      ∀ p, x.inPort = some p → (s'.port p).viol = satInc (s.port p).viol) ∧
    (mine → m = .other → sets d) ∧ (mine → m = .heartbeat → sets { d with missed := 0 }) ∧
    (∀ e, came → sdev = d.manager ∨ s.announces sdev m = true → m = .takeover dev e →
      sets { d with manager := dev, mepoch := e, missed := 0 }) ∧
    (∀ role rank st e, mine → m = .member dev role rank st e → does fun z => routesStay z ∧
      z.dist = { d with members := z.dist.members, mepoch := e } ∧
      Tab.read { role := 0, rank := 0, state := 0 } dev.toNat z.dist.members = { role, rank, state := st } ∧
      ∀ k y, k ≠ dev.toNat → Tab.read y k z.dist.members = Tab.read y k d.members) ∧
    (∀ entry, mine → m = .route dev entry → does fun z => z.dist = d ∧ Tab.read 0 dev.toNat z.avenue = entry &&& 0x7F7F7F7F ∧
      ∀ e < 3, Tab.read 0 dev.toNat (z.edge e).routes = entry &&& 0x7F7F7F7F ∧ (z.edge e).groups = (s.edge e).groups ∧
        ∀ k, k ≠ dev.toNat → Tab.read 0 k (z.edge e).routes = Tab.read 0 k (s.edge e).routes) ∧
    (∀ g v, mine → (∀ i : Fin 6, m = .group g i v → i.val = 3 → does fun z => ∀ e < 3,
        z.rgroup e g = { s.rgroup e g with nelem := v.setWidth 32, retgot := 0 }) ∧
      (∀ i : Fin 6, m = .group g i v → i.val = 0 → does fun z => ∀ e < 3,
        z.rgroup e g = { s.rgroup e g with v := bit v 0, kind := bit v 1, root := bit v 2, ret := bit v 3, part := v.extractLsb' 4 6
                                           group := v.extractLsb' 16 16, tag := v.extractLsb' 32 16, upport := v.extractLsb' 48 5
                                           ggen := v.extractLsb' 56 8 })) ∧
    (∀ desc r, mine → m = .partition desc → s.sq.record = some r →
      (s.sq.ready = true → s.curfew = false → bit r.permitted desc.part.toNat = true →
        does fun z => z.sq = { s.sq with descs := s.sq.descs ++ [desc] }) ∧
      (bit r.permitted desc.part.toNat = false → does fun z => z.sq = s.sq)) ∧
    (reports → m = .fenced dev → does fun z => z.dist = { d with reports := z.dist.reports } ∧
      report dev z.dist.reports = { report dev d.reports with fences := (report dev d.reports).fences + 1 }) ∧
    (reports → m = .curfewed → does fun z => z.dist = { d with reports := z.dist.reports } ∧
      report sdev z.dist.reports = { report sdev d.reports with curfew := true }) ∧
    (∀ y, d.members.find? (fun y => y.1 = dev.toNat) = some y → d.members.Pairwise (fun u v => u.1 < v.1) →
      let after : Tab Member := Tab.write dev.toNat { y.2 with state := 3 } d.members
      let stands (z : Nat × Member) : Prop := z.2.role = 3
      (s.isManager = false ∨ y.2.state = 3 ∨ s.mustExclude dev links = false ∨ d.change.isSome = true →
        exec (.managerExclude ⟨dev, links, news⟩) s = .next s) ∧
      (s.isManager = true → y.2.state ≠ 3 → s.mustExclude dev links = true → d.change = none →
        (awaited stands → ∃ s', exec (.managerExclude ⟨dev, links, news⟩) s = .next s' ∧ s'.mem = s.mem ∧
          s'.dist.mepoch = d.mepoch ∧ s'.dist.members = d.members ∧
          s'.dist.change = some { members := after, news, vacant := some y.2.rank } ∧
          ∀ k, k ≠ dev.toNat → (∃ z ∈ d.members, z.1 = k ∧ stands z) →
            told s' k (.member dev y.2.role y.2.rank 3 (d.mepoch + 1))) ∧
        ((∀ z ∈ d.members, stands z → z.1 = dev.toNat ∨ z.1 = s.devnum.toNat ∨ z.2.state = 3) → news = [] → awaited (fun _ => True) →
          ∃ s', exec (.managerExclude ⟨dev, links, news⟩) s = .next s' ∧ s'.mem = s.mem ∧ s'.dist.mepoch = d.mepoch + 1 ∧
            s'.dist.members = after ∧ s'.dist.change = none ∧ s'.dist.vacant = some y.2.rank ∧
            ∀ k, k ≠ dev.toNat → told s' k (.member dev y.2.role y.2.rank 3 (d.mepoch + 1))))) ∧
    (∀ t g, s.inbox[n]? = some x → x.pkt.op = 0x11 → x.pkt.status = 0 → s.isManager = true → d.change = some g → d.failed = false →
      g.news = [] → g.members = d.members → s.txs = [t] → s.txWait = [] → t.txid = x.pkt.txid → t.owner = .mgmt dev .change → t.op = 0x20 →
      awaited (fun _ => True) → ∃ s', exec (.fabricAck n) s = .next s' ∧ s'.mem = s.mem ∧ s'.dist.mepoch = d.mepoch + 1 ∧
        s'.dist.change = none ∧ s'.dist.vacant = g.vacant) ∧
    (s.isManager = true → ∃ s', exec .mgmtHeartbeat s = .next s' ∧
      (d.change = none → d.vacant = none → s'.mem = s.mem ∧ s'.dist = d) ∧
      (d.change = none → ∀ y ∈ d.members, y.2.role = 3 → y.2.state ≠ 3 → y.1 ≠ s.devnum.toNat →
        .mgmt (BitVec.ofNat 12 y.1) .heartbeat ∈ s'.out)) ∧
    (s.isManager = false → d.role = 3 → exec .mgmtHeartbeat s = .next { s with dist := { d with missed := d.missed + 1 } }) ∧
    (s.isManager = false → d.role ≠ 3 → exec .mgmtHeartbeat s = .next s) ∧
    (d.role = 3 → 100 ≤ d.missed ∨ s.managerOut = true → ∃ s', exec .managerTakeover s = .next s' ∧ s'.mem = s.mem ∧
      s'.dist = { d with role := 2, manager := s.devnum, mepoch := d.mepoch + 1, missed := 0 } ∧
      ∀ k, told s' k (.takeover s.devnum (d.mepoch + 1))) ∧
    (d.role ≠ 3 ∨ d.missed < 100 ∧ s.managerOut = false → exec .managerTakeover s = .next s)

/-! ## The host link (R364 to R378) and attestation (R390 to R395) -/

/-- Host accesses (R4, R366 to R376, R405, R427): a CXL.mem access of the host region or of an open window reads or writes the line
there, in an ADD window adds its words, waits where its way is closed, and one that is not permitted reads zeros or does nothing and
is counted; the locations of the BARs; MSI-X, whose HMSI waits for the ordering before it; the mailbox; and the modules that the link keeps. Which words the mailbox answers and which of three good modules
stays are free values (log entries 74 and 76). -/
def Obligations.HostAccessesAreAnswered : Prop :=
  ∀ (dpa : BitVec 43) (be : BitVec 64) (data : Line) (s : State), s.host.up = true →
    let d := dpa.toNat / 64 * 64
    let size := s.hostSize
    let slot := (d - 0x10000000000) / 0x400000000
    let p := slot / 4
    let w : Word × Word := nth (s.hreg p).hwin (slot % 4) (0, 0)
    let o := d % 0x400000000
    let reads (is : State → Prop) : Prop := ∃ s', exec (.cxlMemRead dpa) s = .next s' ∧ s'.mem = s.mem ∧ s'.tiles = s.tiles ∧ is s'
    let writes (is : State → Prop) : Prop := ∃ s', exec (.cxlMemWrite dpa be data) s = .next s' ∧ s'.tiles = s.tiles ∧
      s'.out = .hostDone :: s.out ∧ is s'
    let counted (z : State) : Prop := z.host.hostviol = satInc s.host.hostviol ∧ z.sq.dlog.noted s.sq.dlog s.time
    let refusedRead (also : State → Prop) : Prop := reads fun z => z.out = .hostData d 0 false :: s.out ∧ counted z ∧ also z
    let refusedWrite (also : State → Prop) : Prop := writes fun z => z.mem = s.mem ∧ counted z ∧ also z
    let named (dir : Bool) (z : State) : Prop := (z.hreg p).hviol = satInc (s.hreg p).hviol ∧
      (z.hreg p).hvaddr.toNat = d + (if dir then 2 ^ 63 else 0)
    let stored (a : Nat) (z : State) : Prop :=
      (∀ i < 64, z.byteAt (a + i) = if bit be i then data.extractLsb' (8 * i) 8 else s.byteAt (a + i)) ∧
      ∀ c, c < a ∨ a + 64 ≤ c → z.byteAt c = s.byteAt c
    let serves (who : Who) (a : Nat) : Prop := s.clean ∧ s.memOk ∧ a % 64 = 0 ∧
      ∀ i < 64, isMemory (a + i) = true ∧ s.access who (a + i) = .serve
    let inSlots := size ≤ d ∧ 0x10000000000 ≤ d ∧ d < 0x50000000000
    let shown := s.curfew = false ∧ (∀ y ∈ s.parts, y.1 = p → y.2.ending = none) ∧ bit w.1 0 = true ∧ o < (fld w.1 8 13 + 1) * 0x200000
    (size ≤ d → d < 0x10000000000 ∨ 0x50000000000 ≤ d → refusedRead (fun _ => True) ∧ refusedWrite fun _ => True) ∧
    (d < size → serves whoHost (s.hostBase + d) →
      reads (fun z => z.out = .hostData d (s.lineAt (s.hostBase + d)) false :: s.out) ∧ writes (stored (s.hostBase + d))) ∧
    (inSlots → ¬shown → refusedRead (named false) ∧ refusedWrite (named true)) ∧
    (inSlots → shown →
      (bit w.1 1 = false → refusedWrite (named true)) ∧
      ∀ e city, s.host.tlb.find? (fun e => e.covers (BitVec.ofNat 6 p) (w.2.toNat + o)) = some e →
        city = e.addr (w.2.toNat + o) →
        ((protFault e kLoad true).isSome = true → refusedRead (named false)) ∧
        (bit w.1 1 = true → (protFault e kStore true).isSome = true → refusedWrite (named true)) ∧
        (s.isLocal city = true → s.enters (devAddr city) = false →
          (protFault e kLoad true = none → exec (.cxlMemRead dpa) s = .next s) ∧
          (bit w.1 1 = true → protFault e kStore true = none → exec (.cxlMemWrite dpa be data) s = .next s)) ∧
        (s.isLocal city = true → s.enters (devAddr city) = true → serves (whoWindow p) (devAddr city) →
          let a := devAddr city
          (protFault e kLoad true = none → reads fun z => z.out = .hostData d (s.lineAt a) false :: s.out) ∧
          (bit w.1 1 = true → protFault e kStore true = none →
            (bit w.1 2 = false → writes (stored a)) ∧
            (bit w.1 2 = true → s.owes (.host s.nextId d true) = false → writes fun z =>
              (∀ i < 8, fld be (8 * i) 8 = 255 → ((z.wordAt (a + 8 * i)).toNat : Int) =
                max 0 (min (2 ^ 64 - 1) ((s.wordAt (a + 8 * i)).toNat + (lineWord data i).toInt))) ∧
              (∀ i < 8, fld be (8 * i) 8 ≠ 255 → z.wordAt (a + 8 * i) = s.wordAt (a + 8 * i)) ∧
              ((∃ i < 8, fld be (8 * i) 8 ≠ 0 ∧ fld be (8 * i) 8 ≠ 255 ∧
                  ∀ j < 8, j ≠ i → fld be (8 * j) 8 = 0 ∨ fld be (8 * j) 8 = 255) → counted z ∧ named true z) ∧
              ∀ c, c < a ∨ a + 64 ≤ c → z.byteAt c = s.byteAt c)))) ∧
    (∀ (fn : Fin 65) (off : BitVec 17) (v : Word),
      let at_ := off.toNat / 8 * 8
      let q := fn.val - 1
      let vf := fn.val ≠ 0 ∧ bit s.host.exposed q = true
      let gives (x : Word) : Prop := exec (.cxlIoRead fn off) s = .next { s with out := .hostWord x :: s.out }
      let refused : Prop := (∃ s', exec (.cxlIoRead fn off) s = .next s' ∧ s'.out = .hostWord 0 :: s.out ∧ counted s') ∧
        ∃ s', exec (.cxlIoWrite fn off v) s = .next s' ∧ s'.out = s.out ∧ counted s' ∧ s'.host.cxl = s.host.cxl ∧ s'.mem = s.mem
      (fn.val = 0 → at_ = 0x1C000 → gives (BitVec.ofNat 64 (size / gib))) ∧
      (fn.val = 0 → at_ = 0x1C008 → gives s.host.exposed) ∧ (fn.val = 0 → at_ = 0x1C010 → gives s.host.hostviol ∧
        exec (.cxlIoWrite fn off v) s = .next { s with host := { s.host with hostviol := 0 } }) ∧
      (fn.val = 0 → 0x18100 ≤ at_ → at_ ≠ 0x19000 → at_ ≠ 0x1C000 → at_ ≠ 0x1C008 → at_ ≠ 0x1C010 → refused) ∧
      (fn.val ≠ 0 → bit s.host.exposed q = false → refused) ∧
      (vf → at_ = 0 → gives (BitVec.ofNat 64 q)) ∧
      (∀ k < 4, vf → at_ = 0x10 + 8 * k → gives (BitVec.ofNat 64 (fld (nth (s.hreg q).hwin k (0, 0)).1 0 21))) ∧
      (vf → at_ = 0x2000 → gives (s.hreg q).pend) ∧
      (vf → at_ = 8 ∨ 0x30 ≤ at_ ∧ at_ < 0x1000 ∨ 0x1400 ≤ at_ ∧ at_ ≠ 0x2000 → refused) ∧
      (∀ n : BitVec 6, vf → at_ = 0x1008 + 16 * n.toNat → ∃ s', exec (.cxlIoWrite fn off v) s = .next s' ∧ s'.mem = s.mem ∧
        bit (s'.hreg q).mask n.toNat = bit v 32 ∧
        ∀ j < 64, j ≠ n.toNat → bit (s'.hreg q).mask j = bit (s.hreg q).mask j)) ∧
    (∀ (wr : Writer) (q : QuarterNo) (part : PartNo) (v : Word) (vec : BitVec 6) (vfen msixen : Bool) (fn : Fin 65),
      let n := fld v 0 6
      let h := s.hreg part.toNat
      let sends := h.msixen = true ∧ bit s.host.exposed part.toNat = true
      (s.writerFree wr = false → exec (.hmsi wr q part v) s = .next s) ∧
      (s.writerFree wr = true → s.mayHive wr q part = false → ∃ s', exec (.hmsi wr q part v) s = .next s' ∧ s'.out = s.out ∧
        (s'.hreg part.toNat).pend = h.pend ∧ s'.mem = s.mem) ∧
      (s.writerFree wr = true → s.mayHive wr q part = true → ∃ s', exec (.hmsi wr q part v) s = .next s' ∧ s'.mem = s.mem ∧ s'.tiles = s.tiles ∧
        (¬sends → s'.out = s.out ∧ s'.hreg part.toNat = { h with hmsidrop := satInc h.hmsidrop }) ∧
        (sends → bit h.mask n = false → s'.out = .msix (part.toNat + 1) n :: s.out ∧ s'.hreg part.toNat = h) ∧
        (sends → bit h.mask n = true → s'.out = s.out ∧ ∀ j < 64, bit (s'.hreg part.toNat).pend j = (bit h.pend j || j == n))) ∧
      (∃ s', exec (.vectorUnmask part vec) s = .next s' ∧ bit (s'.hreg part.toNat).mask vec.toNat = false ∧
        (sends → bit h.pend vec.toNat = true → s'.out = .msix (part.toNat + 1) vec.toNat :: s.out ∧
          bit (s'.hreg part.toNat).pend vec.toNat = false) ∧
        (bit h.pend vec.toNat = false → s'.out = s.out)) ∧
      (fn.val = 0 → exec (.configurationSpaceWrite fn vfen msixen) s = .next s) ∧
      (fn.val = part.toNat + 1 → ∃ s', exec (.configurationSpaceWrite fn vfen msixen) s = .next s' ∧ s'.mem = s.mem ∧
        (s'.hreg part.toNat).vfen = vfen ∧ (s'.hreg part.toNat).msixen = msixen ∧ (s'.hreg part.toNat).mask = h.mask ∧
        ∀ j < 64,
          let now := msixen = true ∧ bit s.host.exposed part.toNat = true ∧ bit h.pend j = true ∧ bit h.mask j = false
          (now → .msix (part.toNat + 1) j ∈ s'.out ∧ bit (s'.hreg part.toNat).pend j = false) ∧
          (¬now → bit (s'.hreg part.toNat).pend j = bit h.pend j))) ∧
    (∀ c n, (c, n) ∈ ([(.identifyMemoryDevice, 0), (.getSupportedLogs, 1), (.getLog, 2), (.getHealthInfo, 3),
        (.getEventRecords, 4)] : List (Instr × Nat)) → ∃ s' x, exec c s = .next s' ∧ s'.out = .mailbox n true [x] :: s.out ∧
      s'.mem = s.mem ∧ s'.host = s.host) ∧
    exec .clearEventRecords s = .next { s with out := .mailbox 5 true [] :: s.out } ∧
    (∀ op, exec (.unsupportedMailbox op) s = .next { s with out := .mailbox 6 false [op.setWidth 64] :: s.out }) ∧
    ∀ m : Fin 4, (bit s.sq.ucieBad m = true → exec (.ucieModuleFail m) s = .next s) ∧
      (bit s.sq.ucieBad m = false → ∃ s', exec (.ucieModuleFail m) s = .next s' ∧ s'.mem = s.mem ∧
        (∀ j < 4, bit s'.sq.ucieBad j = (bit s.sq.ucieBad j || j == m.val)) ∧
        let good (j : Nat) : Prop := j < 4 ∧ bit s.sq.fp.ucie j = false ∧ bit s'.sq.ucieBad j = false
        let two := ∃ i j, i ≠ j ∧ good i ∧ good j
        (¬two → s'.sq.ucie = 0 ∧ s'.host.up = false) ∧ (good 0 → good 3 → s'.sq.ucie = 9) ∧
        (two → s'.host.up = true ∧ ∃ i j, i < j ∧ good i ∧ good j ∧ ∀ k < 4, bit s'.sq.ucie k = (k == i || k == j)))

/-- SPDM (R391 to R395, R409): each request has its response; a slot without a chain and a block that is not there give ERROR;
a signed response carries the ML-DSA-65 signature in PQMODE 0, and GET_PQSIG gives the same one; PQMODE; and a KX exchange keys
its partition or is refused with its code. The words stand for bytes that the model keeps opaque (log entry 77). -/
def Obligations.AttestationAnswers : Prop :=
  ∀ (slot block mode : BitVec 8) (nonce : List Byte) (m : KxInit) (part : BitVec 8) (s : State), s.host.up = true →
    let answers (c : Instr) (r : SpdmReply) (is : List Word → Prop) : Prop :=
      ∃ ws, exec c s = .next { s with out := .spdm r ws :: s.out } ∧ is ws
    let fails (c : Instr) : Prop := answers c .error fun ws => ws = []
    let chain (k : Nat) : Prop := k = 0 ∧ s.sq.took = false ∨ k = 1 ∧ (s.sq.standby = true ∨ s.sq.took = true)
    let measured (b : Nat) : Prop := 1 ≤ b ∧ b ≤ 7 ∨ 0x10 ≤ b ∧ b < 0x50 ∧ Tab.has (b - 0x10) s.parts = true
    let signs (c : Instr) (r : SpdmReply) : Prop := ∃ s' body sig pq, exec c s = .next s' ∧
      s' = { s with out := s'.out, sec := { s.sec with signed := some body } } ∧
      (s.sec.pqmode = 0 → s'.out = .spdm r [body, sig, pq] :: s.out) ∧
      (s.sec.pqmode ≠ 0 → s'.out = .spdm r [body, sig] :: s.out) ∧
      exec .getPqsig s' = .next { s' with out := .spdm (.vendor 0x02) [pq] :: s'.out }
    let refuses (c : Instr) (code : Nat) : Prop := ∃ s', exec c s = .next s' ∧
      s'.out = .spdm (.vendor 0x7F) [BitVec.ofNat 64 code] :: s.out ∧ s'.mem = s.mem ∧ s'.rekeyed = s.rekeyed
    let x := s.part? m.part.toNat
    let keying (k : Keying) : Prop := ∃ y, x = some y ∧ y.keying = k
    answers .getVersion .version (fun ws => ws ≠ []) ∧ answers .getCapabilities .capabilities (fun ws => ws ≠ []) ∧
    answers .negotiateAlgorithms .algorithms (fun ws => ws ≠ []) ∧
    answers .getDigests .digests (fun ws => ws.length = ((List.range 2).filter fun k => s.slotHeld k).length) ∧
    (chain slot.toNat → answers (.getCertificate slot) .certificate (fun ws => ws = [s.chain slot.toNat]) ∧
      signs (.challenge slot nonce) .challengeAuth) ∧
    (¬chain slot.toNat → fails (.getCertificate slot) ∧ fails (.challenge slot nonce)) ∧
    (measured block.toNat → signs (.getMeasurements block nonce) .measurements) ∧
    (¬measured block.toNat → fails (.getMeasurements block nonce)) ∧
    (s.sec.signed = none → fails .getPqsig) ∧
    (mode.toNat ≤ 1 → exec (.pqmode mode) s = .next { s with sec := { s.sec with pqmode := mode } }) ∧
    (1 < mode.toNat → refuses (.pqmode mode) 7) ∧
    (s.sec.unlocked = true → refuses (.kxInit m) 4) ∧
    (s.sec.unlocked = false →
      (x = none → refuses (.kxInit m) 3) ∧ (keying .keyed → refuses (.kxInit m) 2) ∧
      (keying .exchanging → refuses (.kxInit m) 1) ∧ (keying .unkeyed → m.formOk = false → refuses (.kxInit m) 7) ∧
      (∀ y, x = some y → y.keying = .unkeyed → m.formOk = true → ∃ s' w, exec (.kxInit m) s = .next s' ∧
        s'.part? m.part.toNat = some { y with keying := .exchanging } ∧ s'.mem = s.mem ∧
        s'.out = .spdm (.vendor 0x11) [w] :: s.out)) ∧
    (part.toNat ∈ s.sec.zeroised → refuses (.kxFin part true) 6 ∧ refuses (.kxFin part false) 6) ∧
    (part.toNat ∉ s.sec.zeroised →
      (s.part? part.toNat = none → refuses (.kxFin part true) 3 ∧ refuses (.kxFin part false) 3) ∧
      ∀ y, s.part? part.toNat = some y →
        (y.keying = .keyed → refuses (.kxFin part true) 2) ∧
        (y.keying = .exchanging → refuses (.kxFin part false) 5 ∧ ∃ s', exec (.kxFin part false) s = .next s' ∧
          s'.part? part.toNat = some { y with keying := .unkeyed }) ∧
        (y.keying = .exchanging → ∃ s' z w, exec (.kxFin part true) s = .next s' ∧ .spdm (.vendor 0x13) [w] ∈ s'.out ∧
          s'.part? part.toNat = some z ∧ z.keying = .keyed ∧ z.inTables = true ∧ z.desc = y.desc))

/-! ## Bring-up, supply and resets (R381, R386, R410 to R416, R426, R473, R474, R482) -/

/-- Power and bring-up (R338, R381, R383 to R386, R410 to R414, R416, R426, R439, R441, R473, R474, R482): power good, shutdown and RESET# restart
the device, which keeps its device log and its flash; the six phases, each of which ends only where it is in progress, and the
failures that lead to curfew; of a signed object the header's conditions, its signatures and its signer. The voltage at power good
is a free value (log entry 96). -/
def Obligations.BringUpRunsItsPhases : Prop :=
  ∀ (f : BootFound) (g : MemFound) (mv : Nat) (tiles stags banks lanes : List Nat) (ucie : BitVec 4) (s : State),
    let x := s.sq
    let gives (c : Instr) (is : State → Prop) : Prop := ∃ s', exec c s = .next s' ∧ is s'
    let stays (c : Instr) : Prop := exec c s = .next s
    let curfew (z : State) (cause : Byte) : Prop := z.sq.phase = 7 ∧ z.sq.cause = cause ∧ .toManager 5 cause.toNat ∈ z.out
    let restarts (z : State) (phase : BitVec 3) : Prop := z.sq.phase = phase ∧ z.sq.ready = false ∧ z.sq.cause = 0 ∧ z.mem = [] ∧
      z.tiles = [] ∧ z.blocks = [] ∧ z.quarters = [] ∧ z.edges = [] ∧ z.ports = [] ∧ z.parts = [] ∧ z.reqs = [] ∧ z.txs = [] ∧
      z.host.up = false ∧ z.sec = State.reset.sec ∧ z.time = s.time ∧ z.sq.dlog = x.dlog ∧ z.sq.fp = z.sq.flash.fp
    let phase (k : BitVec 3) : Prop := x.phase = k ∧ x.ready = false
    (s.module.powerGood = true → stays .powerGood) ∧
    (s.module.powerGood = false → gives .powerGood fun z => restarts z (if s.module.resetLow then 0 else 1) ∧
      z.module.powerGood = true ∧ 40000 ≤ z.module.millivolt ∧ z.module.millivolt ≤ 60000 ∧ z.sq.flash = x.flash) ∧
    (36000 ≤ mv → mv ≤ 65000 → stays (.shutdown mv)) ∧
    (mv < 36000 ∨ 65000 < mv → gives (.shutdown mv) fun z => restarts z 0 ∧ z.module.powerGood = false ∧ z.sq.flash = x.flash) ∧
    (40000 ≤ mv ∧ mv ≤ 60000 ∨ s.module.powerGood = false → stays (.supplyExcursion mv)) ∧
    (mv < 40000 ∨ 60000 < mv → s.module.powerGood = true →
      (x.phase = 0 ∨ x.phase = 7 → exec (.supplyExcursion mv) s = .next { s with module := { s.module with millivolt := mv } }) ∧
      (x.phase ≠ 0 → x.phase ≠ 7 → gives (.supplyExcursion mv) fun z => curfew z 0x11 ∧ z.mem = s.mem)) ∧
    (s.module.powerGood = false → stays .resetPin) ∧
    (s.module.powerGood = true → gives .resetPin fun z => restarts z 0 ∧ z.module = { s.module with resetLow := true } ∧
      (s.mon.xfer = none → z.sq.flash = x.flash) ∧
      ∀ y, s.mon.xfer = some y → y.recover = true →
        (y.part = true → z.sq.flash = { x.flash with fwB := none }) ∧ (y.part = false → z.sq.flash = { x.flash with fwA := none })) ∧
    (s.module.resetLow = true → s.module.powerGood = true → exec .resetPinRises s =
      .next { s with module := { s.module with resetLow := false }, sq := { x with phase := 1 } }) ∧
    (s.module.resetLow = false ∨ s.module.powerGood = false → stays .resetPinRises) ∧
    (¬phase 1 → stays (.phaseSquareEnd f)) ∧ (¬phase 2 → stays .phaseClocksEnd) ∧ (¬phase 3 → stays (.phaseMemoryTrainingEnd g)) ∧
    (¬phase 4 → stays (.phaseTestEnd tiles stags banks)) ∧ (¬phase 5 → stays (.phaseLinksEnd ucie lanes)) ∧
    (¬phase 6 → stays (.phaseComputeEnd tiles stags)) ∧
    let good (type : Byte) (signer : Byte) (h : ObjHeader) : Prop := h.edOk = true ∧ h.pqOk = true ∧ h.rsv = false ∧
      h.magic = 0x20640B5C ∧ h.type = type ∧ h.hver = 1 ∧ h.keyid = signer ∧ h.bodylen.toNat % 8 = 0 ∧ h.bodylen.toNat ≤ 0xF0000 ∧
      (h.uid = f.uid ∨ type = 1 ∧ h.uid = 0) ∧ (type = 3 ∨ h.gen = 0)
    let image (i : FwImage) : Prop := good 1 0 i.hdr ∧ i.digestsOk = true
    let version (i : Option FwImage) (v : Option Word) : Prop := (i = none → v = none) ∧
      ∀ y, i = some y → (image y → v = some y.hdr.version) ∧ (¬image y → v = none)
    let records (y : CfgRecords) : Prop := good 2 0 y.owner ∧ good 2 1 y.oper
    let plan (y : PlanRecord) : Prop := good 3 2 y.hdr
    let newest (y : PlanRecord) : Prop :=
      f.fpA = some y ∧ plan y ∧ (∀ w, f.fpB = some w → plan w → ¬y.hdr.gen < w.hdr.gen) ∨
        f.fpB = some y ∧ plan y ∧ ∀ w, f.fpA = some w → plan w → w.hdr.gen < y.hdr.gen
    (phase 1 → gives (.phaseSquareEnd f) fun z =>
      (f.uds0 = false → f.uds1 = false → curfew z 0x01) ∧
      (f.uds0 = true ∨ f.uds1 = true →
        z.sq.active = some (!f.uds0) ∧ z.sq.standby = (f.uds0 && f.uds1) ∧ z.sq.running = true ∧ z.sq.uid = f.uid ∧
        version f.fwA z.sq.flash.fwA ∧ version f.fwB z.sq.flash.fwB ∧
        ((∀ i, f.fwA = some i ∨ f.fwB = some i → ¬image i) → curfew z 0x02) ∧
        ∀ i, f.fwA = some i ∨ f.fwB = some i → image i →
          ((∀ y, f.cfgA = some y ∨ f.cfgB = some y → ¬records y) → curfew z 0x03) ∧
          ∀ y, f.cfgA = some y ∧ records y ∨ f.cfgB = some y ∧ records y ∧ (∀ w, f.cfgA = some w → ¬records w) →
            let r := y.body
            z.sq.phase = 2 ∧ z.sq.record = some r ∧ z.dist.role = r.role ∧ z.mem = s.mem ∧
            (r.role = 2 → z.dist.manager = r.devnum) ∧
            (∀ k, newest k → z.sq.fp =
              { hbm := k.hbm, ddr := k.ddr, port := k.port, lane := k.lane, ucie := k.ucie, tiles := k.tiles, stags := k.stags
                banks := k.banks, gen := k.hdr.gen, time := k.time, retlog := k.retlog.take 256, dirty := false }) ∧
            ((∀ k, f.fpA = some k ∨ f.fpB = some k → ¬plan k) → z.sq.fp = FloorPlan.reset ∧ z.sq.dlog.noted x.dlog s.time))) ∧
    (∀ r, phase 2 → x.record = some r → gives .phaseClocksEnd fun z => z.sq = { x with phase := 3 } ∧ z.mem = s.mem ∧
      ∀ q < 20, (z.quarter q).devnum = r.devnum) ∧
    (phase 3 → gives (.phaseMemoryTrainingEnd g) fun z =>
      (∀ q < 20, bit z.sq.fp.hbm q = (bit x.fp.hbm q || bit g.stackFail q)) ∧
      (∀ c < 24, bit z.sq.fp.ddr c = (bit x.fp.ddr c || bit g.chanFail c)) ∧
      (∀ c < 24, bit z.pop.channels c = true → bit g.populated c = true ∧ bit z.sq.fp.ddr c = false) ∧
      ((∀ c < 24, bit g.populated c = true → bit z.sq.fp.ddr c = false) → z.pop.channels = g.populated) ∧
      ((∃ c < 24, bit g.populated c = true ∧ bit z.sq.fp.ddr c = true) → ∀ d < 3, ∀ e < 3,
        (dieChannels z.pop.channels d).length = (dieChannels z.pop.channels e).length) ∧
      (populationOk z.pop.channels g.uniform = false → curfew z 0x04) ∧
      (populationOk z.pop.channels g.uniform = true →
        (z.tierSize < z.hostSize → curfew z 0x03) ∧ (z.hostSize ≤ z.tierSize → z.sq.phase = 4))) ∧
    (phase 4 → gives (.phaseTestEnd tiles stags banks) fun z => z.sq.phase = 5 ∧ z.mem = [] ∧ z.marks = [] ∧ z.rekeyed = [] ∧
      (∀ t, t ∈ z.sq.fp.tiles ↔ t ∈ x.fp.tiles ∨ t ∈ tiles) ∧ (∀ k, k ∈ z.sq.fp.stags ↔ k ∈ x.fp.stags ∨ k ∈ stags) ∧
      (∀ n, n ∈ z.sq.fp.banks ↔ n ∈ x.fp.banks ∨ n ∈ banks) ∧
      ∀ p < 18, (s.port p).state = 0 → (z.port p).state = if bit x.fp.port p then 0 else 1) ∧
    (phase 5 → (∃ p < 18, bit x.fp.port p = false ∧ (s.port p).measured = false) → stays (.phaseLinksEnd ucie lanes)) ∧
    (phase 5 → (∀ p < 18, bit x.fp.port p = false → (s.port p).measured = true) →
      gives (.phaseLinksEnd ucie lanes) fun z => z.sq.phase = 6 ∧ (s.returns = [] → z.mem = s.mem) ∧
        (∀ l ∈ lanes, l < 72 → bit x.fp.lane l = false → (∃ j < 2, bit z.sq.fp.lane (l / 4 * 4 + j) = true) →
          (∃ j < 2, bit z.sq.fp.lane (l / 4 * 4 + 2 + j) = true) → bit z.sq.fp.port (l / 4) = true ∧ (z.port (l / 4)).state = 0) ∧
        (∀ l < 72, bit z.sq.fp.lane l = (bit x.fp.lane l || decide (l ∈ lanes))) ∧
        (∀ m < 4, bit z.sq.fp.ucie m = (bit x.fp.ucie m || !bit ucie m)) ∧
        (∀ m < 4, bit z.sq.ucie m = true → bit z.sq.fp.ucie m = false) ∧
        (z.host.up = true ↔ ∃ i < 4, ∃ j < 4, i ≠ j ∧ bit z.sq.fp.ucie i = false ∧ bit x.ucieBad i = false ∧
          bit z.sq.fp.ucie j = false ∧ bit x.ucieBad j = false)) ∧
    (phase 6 → gives (.phaseComputeEnd tiles stags) fun z => z.sq.ready = true ∧ z.sq.phase = 6 ∧ z.host.media = s.host.up ∧
      (∀ t, t ∈ z.sq.fp.tiles ↔ t ∈ x.fp.tiles ∨ t ∈ tiles) ∧ z.sq.fp.gen = x.fp.gen + 1 ∧ z.sq.fp.dirty = false ∧
      z.sq.flash.fp = z.sq.fp ∧ z.sq.tready.toNat = (s.time.toNat - x.pgTime.toNat) / 1000000 % 2 ^ 32 ∧ z.mem = s.mem ∧
      ∀ r, x.record = some r → z.sq.descs = x.descs ++ r.boot)

/-! ## Partitions and resets (R311, R418 to R427) -/

/-- The creation and the end of partitions, and their time slices (R311, R394, R403, R418 to R424, R426): a descriptor is refused in
the cases of step 1, else its grants are placed beside those that stand, its epoch rises everywhere and its id comes to the tiles
that no other partition runs; a destruction stops it and, once its last reply has come, it is gone and its share of the block
stores is zero; a time slice goes to the next partition in rotation, waits for quiet, saves the tiles of the one and starts the
other. Where a grant lies is a free value (log entry 83), and the rotation by number the model's choice (log entry 156). -/
def Obligations.PartitionsComeAndGo : Prop :=
  ∀ (d : PartDesc) (img : List Byte) (ok : Bool) (p r : PartNo) (s : State),
    let c : Instr := .partitionDescriptor d img ok
    let id := d.part.toNat
    let named (q : Nat) : Prop := q < 20 ∧ bit d.qmask q = true
    let taken := s.sq.ready = true ∧ s.sq.running = true ∧ s.curfew = false ∧ d ∈ s.sq.descs
    let refused : Prop := exec c s = .next { s with sq := { s.sq with descs := s.sq.descs.erase d } }
    let epoch (z : State) (p : PartNo) : Prop :=
      let e : BitVec 32 := Tab.read 0 p.toNat (s.quarter 0).pepoch + 1
      (∀ q < 20, Tab.read 0 p.toNat (z.quarter q).pepoch = e) ∧ ∀ k < 3, Tab.read 0 p.toNat (z.edge k).pepoch = e
    (¬taken → exec c s = .next s) ∧
    (taken → Tab.has id s.parts = true → refused) ∧
    (taken → ∀ q, named q → bit s.sq.fp.hbm q = true → refused) ∧
    (taken → ∀ q h x, named q → h ∈ s.holders q → s.part? h = some x → d.share = false ∨ x.desc.share = false → refused) ∧
    (taken → d.bssize.toNat < 1 ∨ 20 < d.bssize.toNat ∨ d.hbmgib.toNat < 1 ∨ 64 < d.hbmgib.toNat ∨ 6144 < d.ddrgib.toNat ∨
      d.imglen.toNat < 1 ∨ 0x4000000 < d.imglen.toNat ∨ bit d.entry 0 = true → refused) ∧
    (taken → s.plan d = none → refused) ∧
    (taken → s.plan d ≠ none → d.selfkey = false → ∃ s' x, exec c s = .next s' ∧ s'.part? id = some x ∧ x.desc = d ∧
      x.keying = .unkeyed ∧ x.released = false ∧ epoch s' d.part ∧ s'.sq.descs = s.sq.descs.erase d ∧
      (∀ q, named q → let g := Tab.read .reset id (s'.quarter q).grants
        g.bsSize = d.bssize ∧ g.hbSize = d.hbmgib ∧ g.ddSize = d.ddrgib ∧ g.bsBase.toNat + g.bsSize.toNat ≤ 20 ∧
        (g.hbBase.toNat + g.hbSize.toNat) * gib ≤ s.stackSize ∧
        ∀ e ∈ (s.quarter q).grants,
          (g.bsBase.toNat + g.bsSize.toNat ≤ e.2.bsBase.toNat ∨ e.2.bsBase.toNat + e.2.bsSize.toNat ≤ g.bsBase.toNat) ∧
          (g.hbBase.toNat + g.hbSize.toNat ≤ e.2.hbBase.toNat ∨ e.2.hbBase.toNat + e.2.hbSize.toNat ≤ g.hbBase.toNat)) ∧
      (∀ t < 20480, named (quarterOf t) → (s.quarter (quarterOf t)).running = none → (s'.tile t).part = d.part) ∧
      (s.tiles.Pairwise (fun a b => a.1 < b.1) → ∀ t < 20480, ¬named (quarterOf t) ∨ ((s.quarter (quarterOf t)).running ≠ none ∧ s.holders (quarterOf t) ≠ []) →
        s'.tile t = s.tile t)) ∧
    (s.curfew = true ∨ s.part? p.toNat = none → exec (.partitionDestroy p) s = .next s) ∧
    (∀ x, s.curfew = false → s.part? p.toNat = some x → x.ending = none → ∃ s' y, exec (.partitionDestroy p) s = .next s' ∧
      s'.part? p.toNat = some y ∧ y.ending = some true ∧ y.released = false ∧ y.keying = x.keying ∧ epoch s' p ∧
      s'.mem = s.mem ∧
      (∀ q k, bit x.desc.qmask q = true → q < 20 → (s.quarter q).running = some p → k < 1280 → k / 64 = q →
        (s'.block k).resetting = some false ∧ (s'.block k).stag.queue = [] ∧ (s'.block k).stag.run = none) ∧
      ∀ k, ¬(bit x.desc.qmask (k / 64) = true ∧ k / 64 < 20 ∧ (s.quarter (k / 64)).running = some p) →
        (s'.block k).resetting = (s.block k).resetting) ∧
    (∀ (q : QuarterNo) x, s.parts = [(p.toNat, x)] → x.ending = some true → bit x.desc.qmask q.val = true → (s.quarter q).rheld = [] →
      (s.partQuiet p.toNat = false → ∃ s' y, exec (.resetRepliesDrained q) s = .next s' ∧ s'.part? p.toNat = some y ∧
        y.ending = some true) ∧
      (s.partQuiet p.toNat = true → ∃ s', exec (.resetRepliesDrained q) s = .next s' ∧ s'.parts = [] ∧ epoch s' p ∧
        bit s'.host.exposed p.toNat = false ∧ (∀ w ∈ s'.watches, w.part ≠ p) ∧
        (∀ k a, k < 1280 → bit x.desc.qmask (k / 64) = true →
          let g := Tab.read .reset p.toNat (s.quarter (k / 64)).grants
          storeBase k + g.bsBase.toNat * 0x100000 ≤ a → a < storeBase k + (g.bsBase.toNat + g.bsSize.toNat) * 0x100000 →
          s'.byteAt a = 0) ∧
        ∀ k, bit x.desc.qmask k = true → k < 20 → (s'.quarter k).running ≠ some p)) ∧
    (∀ x, s.part? r.toNat = some x →
      let out := s.runsIn p
      let into := s.quartersOf r.toNat
      let may := s.sq.running = true ∧ s.curfew = false ∧ p ≠ r ∧ x.ending = none ∧
        (∀ y, s.part? p.toNat = some y → y.ending = none) ∧
        (∀ q ∈ into, (s.quarter q).running = none ∨ (s.quarter q).running = some p) ∧ (out = [] ∨ s.nextSlice p = some r)
      let z := s.stopTiles (s.tilesIn out)
      let quiet := (∀ t ∈ z.tilesIn out, z.sliceQuiet t = true) ∧ ∀ e ∈ z.blocks, out.contains (e.1 / 64) → e.2.sliceQuiet = true
      (¬may → exec (.timeSliceSwitch p r) s = .next s) ∧
      (may → ¬quiet → exec (.timeSliceSwitch p r) s = .next z) ∧
      (may → quiet → ∃ s', exec (.timeSliceSwitch p r) s = .next s' ∧ (∀ q ∈ into, (s'.quarter q).running = some r) ∧
        (∀ q ∈ out, q ∉ into → (s'.quarter q).running = none) ∧
        (∀ y, s.part? p.toNat = some y → ∃ y', s'.part? p.toNat = some y' ∧
          y'.saved = (z.tilesIn out).map fun t => (t, z.savedTile t)) ∧
        (x.saved = [] → ∀ t < 20480, quarterOf t ∈ into → (s'.tile t).part = r) ∧
        ∃ x', s'.part? r.toNat = some x' ∧ x'.saved = [] ∧ x'.savedMem = []))

/-- The reset registers (R425 to R427): TRESET, BRESET and PRESET start the reset of a tile, of a block or of the partition; one that
names a retired tile does nothing; one that finds BUSY set is held until it clears; and with the last reply a tile takes its reset
values, and runs at RELPC where REL asks for it. -/
def Obligations.ResetRegisters : Prop :=
  ∀ (w : Writer) (q : QuarterNo) (v : Word) (t : TileNo) (s : State),
    let may := s.mayCtl w q = true
    let x := s.tile t
    let mine := quarterOf t = q.val ∧ fld v 0 10 = t.val % 1024
    let stops (z : State) (t : Nat) (rel : Bool) : Prop := (z.tile t).resetting = some rel ∧ (z.tile t).gmem.mb = [] ∧
      (∀ n < 8, nth (z.tile t).queues n .reset = { RQueue.reset with drops := (nth (s.tile t).queues n .reset).drops
                                                                     stale := (nth (s.tile t).queues n .reset).stale }) ∧
      (z.tile t).core = (s.tile t).core ∧ (∀ a ∈ z.attempts, a.tile = t → ∃ y, a.st = .flying y) ∧
      ∀ r ∈ z.reqs, r.tile = t → r.st ≠ .held
    let gives (c : Instr) (is : State → Prop) : Prop := ∃ s', exec c s = .next s' ∧ s'.mem = s.mem ∧ is s'
    let held (c : Instr) (reg : Nat) : Prop := gives c fun z => z.tiles = s.tiles ∧ z.blocks = s.blocks ∧
      (z.quarter q).rheld = (s.quarter q).rheld ++ [(reg, v, s.resetter w)]
    let denied (c : Instr) : Prop := gives c fun z => z.tiles = s.tiles ∧ z.blocks = s.blocks ∧ z.quarters = s.quarters ∧
      z.sq.dlog.noted s.sq.dlog s.time
    (¬may → denied (.treset w q v) ∧ denied (.breset w q v) ∧ denied (.preset w q v)) ∧
    (may → s.tresetBusy q = true → held (.treset w q v) 0x00) ∧ (may → s.bresetBusy q = true → held (.breset w q v) 0x08) ∧
    (may → s.presetBusy q = true → held (.preset w q v) 0x18) ∧
    (may → s.tresetBusy q = false → mine →
      (t.val ∈ s.sq.fp.tiles → exec (.treset w q v) s = .next s) ∧
      (t.val ∉ s.sq.fp.tiles → gives (.treset w q v) fun z => stops z t (bit v 10) ∧ ∀ j, j ≠ t.val →
        (z.tile j).core = (s.tile j).core ∧ (z.tile j).resetting = (s.tile j).resetting)) ∧
    (may → s.bresetBusy q = false → gives (.breset w q v) fun z =>
      let k := q.val * 64 + fld v 0 6
      (z.block k).resetting = some (bit v 6) ∧ (z.block k).stag = Stag.reset ∧
      (∀ j, blockOf j = k → stops z j (bit v 6)) ∧ ∀ j, j ≠ k → (z.block j).resetting = (s.block j).resetting) ∧
    (may → s.presetBusy q = false → bit v 0 = false → exec (.preset w q v) s = .next s) ∧
    (∀ p y, may → s.presetBusy q = false → bit v 0 = true →
      (s.resetter w = some p ∨ s.resetter w = none ∧ (s.quarter q).running = some p) → s.part? p.toNat = some y → y.ending = none →
      gives (.preset w q v) fun z => ∃ y', z.part? p.toNat = some y' ∧ y'.ending = some false ∧ y'.released = false ∧
        y'.desc = y.desc ∧ ∀ k < 20, Tab.read 0 p.toNat (z.quarter k).pepoch = Tab.read 0 p.toNat (s.quarter 0).pepoch + 1) ∧
    (∀ rel, quarterOf t = q.val → x.resetting = some rel → s.tiles = [(t.val, x)] → s.tileQuiet t = true →
      (s.block (blockOf t)).resetting = none → s.presetBusy q = false → s.bresetBusy q = false → (s.quarter q).rheld = [] →
      gives (.resetRepliesDrained q) fun z => let y := z.tile t
        y.core.d = 0 ∧ y.core.rd = 0 ∧ y.ctl = Ctl.reset ∧ y.gmem = GMem.reset ∧ y.vec = Vec.reset ∧ y.tmu = Tmu.reset ∧
        y.part = x.part ∧ y.resetting = none ∧ y.core.flight = [] ∧ y.core.doing = .issue ∧ z.cycle t = 0 ∧
        (∀ n < 8, nth y.queues n .reset = { RQueue.reset with drops := (nth x.queues n .reset).drops
                                                              stale := (nth x.queues n .reset).stale }) ∧
        (rel = true → t.val ∉ s.sq.fp.tiles → s.curfew = false → y.core.run = .running ∧ y.core.pc = (s.quarter q).relpc) ∧
        (rel = false ∨ t.val ∈ s.sq.fp.tiles → y.core.run = .stopped) ∧ ∀ r ∈ z.reqs, r.tile ≠ t.val)

/-! ## Faults, permits and the Squares (R428 to R443) -/

/-- Spot tests (R431 to R434): a scheduled test starts once it holds its permit, and takes its unit out of use; a pass marks the
error as transient, a first failure is repeated, a passed repeat leaves one failure recorded, and a failed one, or a failure of a
unit with one recorded, retires the unit: the floor plan record, the SPOT field and the manager hear of it. -/
def Obligations.SpotTestsRetireUnits : Prop :=
  ∀ (u : SpotUnit) (pass : Bool) (x : Spot) (s : State),
    let g := unitGranter u
    let n := u.unit
    let permit := spotPermit u
    let held (z : State) : Prop := permit ∈ (z.permitsOf g).held
    let free := s.permitBlocked permit = false ∧ ∀ w ∈ (s.permitsOf g).wait, w.unit = u → actWaits w.act = false
    let may := x.running = false ∧ u.kind ≠ 12 ∧ s.granterActs g = true
    let starts (is : State → Prop) : Prop := ∃ s', exec (.spotTestStart u) s = .next s' ∧ s'.mem = s.mem ∧ is s'
    let ends (is : State → Prop) : Prop := ∃ s', exec (.spotTestEnd u pass) s = .next s' ∧
      (u.kind ≠ 7 ∨ s.returns = [] → s'.mem = s.mem) ∧ is s'
    let ended (z : State) (spot : Byte) : Prop := z.spotOf u = none ∧ ¬held z ∧
      (x.asked = true → .mon true 1 [spot.setWidth 64] ∈ z.out) ∧
      ∀ k q e, x.entry = some k → u.kind ≠ 7 → u.kind ≠ 10 → (unitQuarters u).head? = some q →
        k < (s.quarter q).elog.head.toNat → (s.quarter q).elog.head.toNat ≤ k + 512 →
        (k % 512, e) ∈ (s.quarter q).elog.entries → (k % 512, { e with spot }) ∈ (z.quarter q).elog.entries
    let testing := s.spotOf u = some x ∧ x.running = true ∧ s.sq.running = true
    let failed := pass = false ∨ x.storm = true
    let retires := x.again = true ∧ pass = false ∨ x.again = false ∧ failed ∧ s.failedBefore u = true
    (s.spotOf u = none → exec (.spotTestStart u) s = .next s ∧ exec (.spotTestEnd u pass) s = .next s) ∧
    (s.spotOf u = some x → ¬may → exec (.spotTestStart u) s = .next s) ∧
    (s.spotOf u = some x → may → ¬held s → ¬free → starts fun z => permit ∈ (z.permitsOf g).wait ∧ z.spotOf u = some x ∧
      z.tiles = s.tiles ∧ z.blocks = s.blocks) ∧
    (s.spotOf u = some x → may → held s ∨ free → (u.kind = 3 → (s.tile n).core.doing = .issue) → starts fun z =>
      ∃ y, z.spotOf u = some y ∧ y.running = true ∧ y.entry = x.entry ∧ held z ∧
        (u.kind = 3 → (z.tile n).core.run ≠ .running ∧ y.was = decide ((s.tile n).core.run = .running)) ∧
        (u.kind = 4 → (z.block n).stag.paused = true) ∧ (u.kind = 7 → (z.port n).state ≠ 3) ∧
        (u.kind = 8 → n < 4 → bit z.sq.ucieBad n = true)) ∧
    (s.spotOf u = some x → x.running = false ∨ s.sq.running = false → exec (.spotTestEnd u pass) s = .next s) ∧
    (testing → x.again = false → pass = true → x.storm = false → ends fun z => ended z 1 ∧ z.sq.fp = s.sq.fp ∧
      (u.kind = 3 → x.was = true → (s.tile n).core.run = .stopped → s.curfew = false → (z.tile n).core.run = .running) ∧
      (u.kind = 4 → x.was = true → s.curfew = false → (z.block n).stag.paused = false)) ∧
    (testing → x.again = false → failed → s.failedBefore u = false → ends fun z =>
      z.spotOf u = some { x with again := true, storm := false } ∧ z.sq.fp = s.sq.fp ∧ (held s → held z)) ∧
    (testing → x.again = true → pass = true → ends fun z => ended z 2 ∧ (u, s.time) ∈ z.sq.failures ∧ z.sq.fp.tiles = s.sq.fp.tiles) ∧
    (testing → retires → ends fun z => ended z 3 ∧ .toManager 8 n ∈ z.out ∧ (∀ f ∈ z.sq.failures, f.1 ≠ u) ∧
      (u.kind = 1 → n / 16 ∈ z.sq.fp.tiles) ∧ (u.kind = 2 → n ∈ z.sq.fp.banks) ∧
      (u.kind = 3 → n ∈ z.sq.fp.tiles ∧ (n ∉ s.sq.fp.tiles → (z.tile n).core.run ≠ .running)) ∧
      (u.kind = 4 → n ∈ z.sq.fp.stags ∧ ∀ c ∈ (z.block n).stag.queue, c.bad = true) ∧
      (u.kind = 7 → n < 18 → ∃ l < 4, bit z.sq.fp.lane (4 * n + l) = true) ∧
      (u.kind = 8 → n < 4 → bit z.sq.fp.ucie n = true) ∧
      (u.kind = 5 ∨ u.kind = 6 →
        let key := u.kind.toNat * 2 ^ 20 + n
        (key ∉ s.sq.badLinks → key ∈ z.sq.badLinks ∧ z.sq.phase = s.sq.phase) ∧
        (key ∈ s.sq.badLinks → s.curfew = false → z.sq.phase = 7 ∧ z.sq.cause = 0x13)) ∧
      (n ∉ s.sq.fp.tiles → u.kind = 3 → z.sq.fp.dirty = true ∧
        ∃ cause, z.sq.fp.retlog.head? = some (s.time, 3, n, cause)))

/-- Permits, the floor plan record and the measurement (R386, R429, R434 to R437, R439, R440): a waiting request is granted in
turn once nothing held conflicts; a recalibration or a retrain runs for its longest hold or waits; the record's write raises
GEN; a rewritten entry needs no test; a measurement that differs is curfew with every key gone, and curfew stops every agent.
The two Squares (R442, R443): heartbeats count the periods without quorum and the silence that the standby hears; an active
Square without quorum for 1 ms stops, and goes on at the next quorum (log entry 94); lack of it at both for 10 ms is curfew
QUORUM under the Square that hears more, E0 on a tie; the standby takes over after 1 ms of silence that its lamplighters
confirm, and a standby that is lost is reported. -/
def Obligations.PermitsCurfewAndQuorum : Prop :=
  (∀ (s : State),
    let blocked (p : Permit) : Prop := s.permitBlocked p = true
    let free (g : Granter) (p : Permit) : Prop := ¬blocked p ∧ ∀ w ∈ (s.permitsOf g).wait, w.unit = p.unit → actWaits w.act = false
    let curfew (z : State) (cause : Byte) : Prop := z.sq.phase = 7 ∧ z.sq.cause = cause ∧ .toManager 5 cause.toNat ∈ z.out ∧
      z.mem = s.mem ∧ (∀ e ∈ z.tiles, e.2.core.run ≠ .running) ∧
      (∀ k < 1280, (z.block k).gatedAt.isSome = true ∧ (z.block k).stag.paused = true) ∧
      ∀ q < 20, (z.clk q).op = 7 ∧ (z.clk q).step = none ∧ (z.clk q).plloff = false
    let timed (c : Instr) (g : Granter) (p : Permit) (ns : Nat) : Prop :=
      (free g p → ∃ s', exec c s = .next s' ∧ s'.mem = s.mem ∧ p ∈ (s'.permitsOf g).held ∧
        (p, s.time + BitVec.ofNat 64 ns) ∈ (s'.permitsOf g).till) ∧
      (¬free g p → ∃ s', exec c s = .next s' ∧ s'.mem = s.mem ∧ p ∈ (s'.permitsOf g).wait ∧
        (s'.permitsOf g).held = (s.permitsOf g).held)
    let fp := s.sq.fp
    let writes : Permit := { act := .flashw, unit := ⟨24, s.sq.flash.nextFp.toNat⟩ }
    let measures (k : Nat) : Permit := { act := .measure, unit := ⟨24, k⟩ }
    let has (p : Permit) : Prop := p ∈ s.sq.permits.held ∨ free none p
    (∀ (u : PermitUnit) (p : Permit) (older newer : List Permit),
      let g : Granter := u.quarter.map (·.val)
      let l := (s.permitsOf g).wait
      (s.granterActs g = false ∨ (∀ w ∈ l, w.unit.unit = u.unit → blocked w) → exec (.permitGrant u) s = .next s) ∧
      (s.granterActs g = true → l = older ++ p :: newer → p.unit.unit = u.unit → ¬blocked p →
        (∀ w ∈ older, w.unit.unit ≠ u.unit) → ∃ s', exec (.permitGrant u) s = .next s' ∧ s'.mem = s.mem ∧
          (s'.permitsOf g).wait = older ++ newer ∧
          (p.act = .spotM ∨ p.act = .spotL ∨ p.act = .spotT ∨ p.act = .hbmcal ∨ p.act = .measure ∨ p.act = .flashw →
            (s'.permitsOf g).held = (s.permitsOf g).held ++ [p]) ∧
          (p.act = .retrain → p.unit.kind = 7 →
            ((s.port p.unit.unit).state = 3 → (s'.port p.unit.unit).state = 1 ∧ p ∈ (s'.permitsOf g).held) ∧
            ((s.port p.unit.unit).state ≠ 3 → p ∉ (s'.permitsOf g).held)) ∧
          (p.act = .clock → (s.clk p.unit.unit).op < (s.clk p.unit.unit).ceil →
            (s'.clk p.unit.unit).step = some ((s.clk p.unit.unit).op + 1) ∧ p ∈ (s'.permitsOf g).held))) ∧
    (∀ q : QuarterNo, timed (.hbmRefreshRecalibration q) (some q.val) { act := .hbmcal, unit := ⟨20, q.val⟩ } 2000000 ∧
      ∀ k, timed (.memoryInterfaceRetrain (.hbm q k)) (some q.val) { act := .retrain, unit := ⟨21, q.val⟩ } 1000000) ∧
    (∀ c : Fin 24, (s.sq.running = true →
        timed (.memoryInterfaceRetrain (.ddr c)) none { act := .retrain, unit := ⟨22, c.val⟩ } 5000000) ∧
      (s.sq.running = false → exec (.memoryInterfaceRetrain (.ddr c)) s = .next s)) ∧
    (fp.dirty = false ∨ s.sq.running = false → exec .floorPlanWriteDone s = .next s) ∧
    (fp.dirty = true → s.sq.running = true → has writes → ∃ s', exec .floorPlanWriteDone s = .next s' ∧ s'.mem = s.mem ∧
      s'.sq.fp = { fp with gen := fp.gen + 1, dirty := false } ∧ s'.sq.flash.fp = s'.sq.fp ∧
      s'.sq.flash.nextFp = !s.sq.flash.nextFp ∧ writes ∉ s'.sq.permits.held) ∧
    (fp.dirty = true → s.sq.running = true → ¬has writes → ∃ s', exec .floorPlanWriteDone s = .next s' ∧ s'.sq.fp = fp ∧
      s'.sq.flash = s.sq.flash ∧ writes ∈ s'.sq.permits.wait) ∧
    (∀ n, (s.sq.running = true → ∃ s', exec (.controlEntryRewrite n) s = .next s' ∧ s'.mem = s.mem ∧ s'.spotOf ⟨12, n⟩ = none ∧
        (∀ u, u ≠ ⟨12, n⟩ → s'.spotOf u = s.spotOf u) ∧ s' = { s with sq := { s.sq with spots := s'.sq.spots } }) ∧
      (s.sq.running = false → exec (.controlEntryRewrite n) s = .next s)) ∧
    (∀ same, s.sq.running = false → exec (.measureCheck same) s = .next s) ∧
    (s.sq.running = true → has (measures 0) → has (measures 1) →
      (∃ s', exec (.measureCheck true) s = .next s' ∧ s'.mem = s.mem ∧ s'.sq.phase = s.sq.phase ∧ s'.parts = s.parts ∧
        measures 0 ∉ s'.sq.permits.held ∧ measures 1 ∉ s'.sq.permits.held) ∧
      (s.curfew = false → ∃ s', exec (.measureCheck false) s = .next s' ∧ curfew s' 0x12 ∧
        ∀ e ∈ s'.parts, e.2.keying = .unkeyed ∧ e.2.inTables = false)) ∧
    (∀ same, s.sq.running = true → ¬has (measures 0) → ∃ s', exec (.measureCheck same) s = .next s' ∧ s'.sq.phase = s.sq.phase ∧
      measures 0 ∈ s'.sq.permits.wait) ∧
    ∀ e, (s.curfew = false → ∃ s', exec (.edgeDieThermalLimit e) s = .next s' ∧ curfew s' 0x10 ∧ s'.parts = s.parts) ∧
      (s.curfew = true → exec (.edgeDieThermalLimit e) s = .next s)) ∧
  (∀ (h0 h1 : BitVec 20) (hears : Bool) (s : State),
    let x := s.sq
    let works0 := x.uds0 = true ∧ x.active ≠ some true
    let works1 := x.uds1 = true ∧ (x.standby = true ∨ x.active = some true)
    let many (w : BitVec 20) : Nat := ((List.range 20).filter fun q => bit w q).length
    let gone := x.standby = true ∧ hears = false ∧ (h1 = 0 ∨ ¬works1)
    (∃ s', exec (.squareHeartbeat h0 h1 hears) s = .next s' ∧ s'.mem = s.mem ∧ s'.tiles = s.tiles ∧
      s'.sq.active = x.active ∧ s'.sq.permits = x.permits ∧
      (works0 → s'.sq.heard0 = h0 ∧ s'.sq.lost0 = if 11 ≤ many h0 then 0 else x.lost0 + 1) ∧
      (¬works0 → s'.sq.heard0 = 0 ∧ s'.sq.lost0 = x.lost0 + 1) ∧
      (works1 → s'.sq.heard1 = h1 ∧ s'.sq.lost1 = if 11 ≤ many h1 then 0 else x.lost1 + 1) ∧
      (¬works1 → s'.sq.heard1 = 0 ∧ s'.sq.lost1 = x.lost1 + 1) ∧
      (hears = false → x.standby = true → s'.sq.silent = x.silent + 1) ∧ (hears = true ∨ x.standby = false → s'.sq.silent = 0) ∧
      (s'.sq.running = true ↔ x.running = true ∨ x.active = some false ∧ x.uds0 = true ∧ 11 ≤ many h0 ∨
        x.active = some true ∧ x.uds1 = true ∧ 11 ≤ many h1) ∧
      (gone → s'.sq.standby = false ∧ (s'.sq.running = true → s'.out = .toManager 9 0 :: s.out)) ∧
      (¬gone → s'.sq.standby = x.standby ∧ s'.out = s.out)) ∧
    (x.active = none ∨ s.curfew = true → exec .quorumLoss s = .next s) ∧
    (x.active ≠ none → s.curfew = false →
      (100 ≤ x.lost0 → 100 ≤ x.lost1 → ∃ s', exec .quorumLoss s = .next s' ∧ s'.mem = s.mem ∧ s'.sq.phase = 7 ∧
        s'.sq.cause = 0x14 ∧ s'.sq.running = true ∧ .toManager 5 0x14 ∈ s'.out ∧
        (many x.heard0 < many x.heard1 → s'.sq.active = some true) ∧
        (many x.heard1 < many x.heard0 → s'.sq.active = some false) ∧
        (many x.heard1 = many x.heard0 → works0 → s'.sq.active = some false)) ∧
      (x.lost0 < 100 ∨ x.lost1 < 100 →
        let lost := if x.active = some true then x.lost1 else x.lost0
        (10 ≤ lost → exec .quorumLoss s = .next { s with sq := { x with running := false } }) ∧
        (lost < 10 → exec .quorumLoss s = .next s))) ∧
    let takes := x.standby = true ∧ x.active = some false ∧ 10 ≤ x.silent ∧ 11 ≤ many x.heard1 ∧
      ∀ q < 20, bit x.heard1 q = true → bit x.heard0 q = false
    (takes → ∃ s', exec .squareTakeover s = .next s' ∧ s'.out = .toManager 10 0 :: s.out ∧ s'.mem = s.mem ∧
      s'.tiles = s.tiles ∧ s'.sq = { x with active := some true, standby := false, running := true, silent := 0 }) ∧
    (¬takes → exec .squareTakeover s = .next s))

/-- Which permits conflict (R435 to R437): one with itself, and two of the table's pairs on related units; a request conflicts
where the Square or a lamplighter holds one that does. -/
def Obligations.PermitsConflictAsTheTableSays : Prop :=
  ∀ (a b : Permit) (s : State),
    let same (x y : Permit) : Prop := x.unit = y.unit
    let sameStack (x y : Permit) : Prop := x.unit.kind = 9 ∧ x.unit.unit / 64 = y.unit.unit
    let quarterOfBoth (x y : Permit) : Prop := ∃ q, q ∈ unitQuarters x.unit ∧ q ∈ unitQuarters y.unit
    let row (x y : Permit) : Prop :=
      (x.act = .spotM ∧ (y.act = .sweep ∨ y.act = .patrol) ∧ same x y) ∨
      ((x.act = .patrol ∨ x.act = .spotM) ∧ y.act = .hbmcal ∧ sameStack x y) ∨
      (x.act = .spotM ∧ y.act = .retrain ∧ (y.unit.kind = 21 ∧ sameStack x y ∨
        x.unit.kind = 10 ∧ y.unit.kind = 22 ∧ x.unit.unit = y.unit.unit)) ∨
      (x.act = .spotL ∧ y.act = .retrain ∧ same x y) ∨
      ((x.act = .spotM ∨ x.act = .spotL ∨ x.act = .spotT) ∧ y.act = .clock ∧ quarterOfBoth x y) ∨
      (x.act = .hbmcal ∧ y.act = .retrain ∧ y.unit.kind = 21 ∧ x.unit.unit = y.unit.unit) ∨
      (x.act = .hbmcal ∧ y.act = .clock ∧ x.unit.unit = y.unit.unit) ∨
      (x.act = .retrain ∧ y.act = .clock ∧ (x.unit.kind = 21 ∨ x.unit.kind = 8) ∧ quarterOfBoth x y) ∨
      (x.act = .measure ∧ y.act = .flashw ∧ same x y)
    (conflict a b = true ↔ a = b ∨ row a b ∨ row b a) ∧
    (s.permitBlocked a = true ↔ ∃ h, (h ∈ s.sq.permits.held ∨ ∃ e ∈ s.quarters, h ∈ e.2.permits.held) ∧ conflict a h = true)

/-! ## Clocks, power, temperature and the module (R189 to R192, R200, R428, R447 to R460, R477, R480) -/

/-- Operating points (R16, R448 to R454): the thermal ceiling follows the sensors and the power ceilings the input power, of which the
power stages let in at most 17.5 kW and which the running Square samples; 105 °C and 10 ms above 16.5 kW are curfew, a ceiling above the operating point starts a step at once where no supply limit forbids it, a step
ends at its point, and a quarter steps up one point at a time. Periods are counted in samples (log entry 97). -/
def Obligations.OperatingPointsFollowCeilings : Prop :=
  ∀ (q : QuarterNo) (tj thbm : Byte) (watt : Nat) (w : Writer) (v : Word) (s : State),
    let c := s.clk q
    let m := s.module
    let permit := clockPermit q
    let gives (k : Instr) (is : State → Prop) : Prop := ∃ s', exec k s = .next s' ∧ s'.mem = s.mem ∧ is s'
    let curfew (z : State) (cause : Byte) : Prop := z.sq.phase = 7 ∧ z.sq.cause = cause ∧ .toManager 5 cause.toNat ∈ z.out
    let free := s.permitBlocked permit = false ∧ ∀ x ∈ (s.permitsOf (some q.val)).wait, x.unit = permit.unit → actWaits x.act = false
    let drawn := min watt 17500
    let samples := s.sq.running = true
    let held (z : State) : Prop := permit ∈ (z.permitsOf (some q.val)).held
    let steps (z : State) (op : BitVec 3) : Prop := (z.clk q).step = some op ∧ held z
    let hot := 95 ≤ tj.toNat ∨ 95 ≤ thbm.toNat
    let cool := tj.toNat ≤ 90 ∧ thbm.toNat ≤ 90
    let apart := ∃ n ∈ adjacent q, (s.clk n).tj.toNat + 25 < tj.toNat
    let rises := hot ∧ c.hotN % 50 = 0 ∨ apart ∧ c.diffN % 50 = 0
    let falls := cool ∧ c.coolN = 500
    (s.curfew = false → 105 ≤ tj.toNat → gives (.thermalSample q tj thbm) fun z => curfew z 0x10 ∧ (z.clk q).tj = tj) ∧
    (tj.toNat < 105 → gives (.thermalSample q tj thbm) fun z => let d := z.clk q
      d.tj = tj ∧ d.thbm = thbm ∧ d.tpeak.toNat = max c.tpeak.toNat tj.toNat ∧ d.op = c.op ∧ z.sq.phase = s.sq.phase ∧
      (rises → d.thermal.toNat = min 7 (c.thermal.toNat + 1)) ∧ (¬rises → falls → d.thermal.toNat = c.thermal.toNat - 1) ∧
      (¬rises → ¬falls → d.thermal = c.thermal) ∧
      (c.op < d.thermal → s.curfew = false → c.step = none → free → (∀ n ∈ adjacent q, leastOp (c.op.toNat + 1) ≤ (s.clk n).op.toNat) →
        steps z (c.op + 1))) ∧
    (s.sq.running = false → exec (.powerSample watt) s = .next { s with module := { m with watt := drawn } }) ∧
    (samples → 16500 < watt → m.overCnt = 100 → s.curfew = false → gives (.powerSample watt) fun z => curfew z 0x11) ∧
    (samples → 16500 < watt → m.overCnt ≠ 100 → (∀ r < 20, (s.clk r).stepped < 2 ^ 64) → gives (.powerSample watt) fun z =>
      z.module.overCnt = m.overCnt + 1 ∧ z.module.watt = drawn ∧ z.sq.phase = s.sq.phase ∧
      ∃ l : List Nat, l.Perm (List.range 20) ∧
        l.Pairwise (fun a b => (s.clk a).op < (s.clk b).op ∨ (s.clk a).op = (s.clk b).op ∧
          ((s.clk a).stepped < (s.clk b).stepped ∨ (s.clk a).stepped = (s.clk b).stepped ∧ a < b)) ∧
        let two := (l.filter fun r => s.clockFree r && (s.clk r).op ≠ 7).take 2
        (∀ r ∈ two, (z.clk r).power.toNat = min 7 ((s.clk r).power.toNat + 1)) ∧
        ∀ r < 20, r ∉ two → (z.clk r).power = (s.clk r).power) ∧
    (samples → 15500 ≤ watt → watt ≤ 16500 → exec (.powerSample watt) s = .next { s with module := { m with watt, overCnt := 0, underCnt := 0 } }) ∧
    (samples → watt < 15500 → m.underCnt ≠ 100 → exec (.powerSample watt) s =
      .next { s with module := { m with watt, overCnt := 0, underCnt := m.underCnt + 1 } }) ∧
    (samples → watt < 15500 → m.underCnt = 100 → gives (.powerSample watt) fun z => z.module.underCnt = 1 ∧
      ((∀ r < 20, (s.clk r).power = 0) → z.quarters = s.quarters) ∧
      ((∃ r < 20, (s.clk r).power ≠ 0) → ∃ r < 20, (s.clk r).power ≠ 0 ∧ (z.clk r).power = (s.clk r).power - 1 ∧
        (∀ k < 20, (s.clk k).power ≠ 0 → (s.clk k).op ≤ (s.clk r).op ∨ 2 ^ 64 ≤ (s.clk k).stepped ∨ 2 ^ 64 ≤ (s.clk r).stepped) ∧
        ∀ k, k ≠ r → z.clk k = s.clk k)) ∧
    (c.step = none → exec (.opStepEnd q) s = .next s) ∧
    (∀ op, c.step = some op → gives (.opStepEnd q) fun z => (z.clk q).op = op ∧ (z.clk q).vq.toNat = opSupply op.toNat ∧
      (∀ r, r ≠ q.val → (z.clk r).op = (s.clk r).op) ∧
      (c.ceil ≤ op → (∀ r < 20, r ≠ q.val → (s.clk r).ceil ≤ (s.clk r).op) → (z.clk q).step = none ∧ ¬held z)) ∧
    (c.ceil < c.op → s.mayRise q = true → c.step = none → s.curfew = false → free →
      gives (.opStepUpTimer q) fun z => steps z (c.op - 1) ∧ (z.clk q).op = c.op) ∧
    (c.op ≤ c.ceil ∨ s.mayRise q = false → exec (.opStepUpTimer q) s = .next s) ∧
    (s.mayCtl w q = true → gives (.qclkReq w q v) fun z =>
      let key := match s.resetter w with | some p => p.toNat | none => 64
      Tab.read 0 key (z.clk q).reqs = v.extractLsb' 8 3 ∧ v.extractLsb' 8 3 ≤ (z.clk q).ceil ∧ (z.clk q).op = c.op ∧
      (∀ k, k ≠ key → Tab.read 0 k (z.clk q).reqs = Tab.read 0 k c.reqs) ∧
      ((c.op < v.extractLsb' 8 3) → s.curfew = false → c.step = none → free →
        (∀ n ∈ adjacent q, leastOp (c.op.toNat + 1) ≤ (s.clk n).op.toNat) → steps z (c.op + 1))) ∧
    (s.mayCtl w q = false → gives (.qclkReq w q v) fun z => z.quarters = s.quarters ∧ z.sq.dlog.noted s.sq.dlog s.time)

/-- Gating, parking, self-refresh and the readers of memory (R182, R189 to R192, R200, R428, R435, R456 to R460): an idle block's
clock stops and CYCLE with it, a wake event starts it; a tile parks at a boundary and wakes on what it asked for; patrols and the
sweeper read their next place under its permit, correct what can be corrected and log it, and skip what is held, to which they
return when it is free again. -/
def Obligations.BlocksSleepAndMemoryIsSwept : Prop :=
  ∀ (k : BlockNo) (t : TileNo) (q : QuarterNo) (u : OpUnit) (ch : Fin 24) (w : Writer) (v : Word) (s : State),
    let b := s.block k
    let x := s.tile t
    let y := s.quarter q
    let gives (c : Instr) (is : State → Prop) : Prop := ∃ s', exec c s = .next s' ∧ s'.mem = s.mem ∧ is s'
    let stays (c : Instr) : Prop := exec c s = .next s
    let idle := b.gatedAt = none ∧ b.waking = false ∧ (∀ j, blockOf j = k.val → s.runnable j = false) ∧ b.stag.queue = [] ∧
      ∀ i (h : i < 16), b.dma.chans[i].chains = []
    let cycles (z : State) : Prop := ∀ j, blockOf j = k.val → z.cycle j = s.cycle j
    let hbm (n : Nat) : Nat := q.val * 0x1000000000 + n * 64
    let line (n : Nat) : SpotUnit := ⟨9, q.val * 64 + pseudoChannel (n * 64)⟩
    let patrols (p : SpotUnit) : Prop := s.permitBlocked { act := .patrol, unit := p } = false
    let caught := ∀ n ∈ y.patrolSkip, ¬patrols (line n)
    let ddrCaught := ∀ e ∈ s.pop.ddrSkip, e.1 = ch.val → ¬patrols ⟨10, ch.val⟩
    let meets (z : State) (a : Nat) (log : State → ErrLog) : Prop :=
      (s.dramBad a = true → (log z).unc = satInc (log s).unc ∧ z.marks = s.marks) ∧
      (s.dramBad a = false → Tab.has (a / 64 * 64) s.marks = true → (log z).corr = satInc (log s).corr ∧
        z.marks = Tab.erase (a / 64 * 64) s.marks) ∧
      (s.dramBad a = false → Tab.has (a / 64 * 64) s.marks = false → log z = log s ∧ z.marks = s.marks)
    let place := sweepAt k b.sweep
    let words := unitsOf 8 place.1 place.2
    let held (a : Nat) : Prop := s.permitBlocked { act := .sweep, unit := sramUnit a } = true
    let fixes (z : State) (out : Nat → Prop) : Prop := s.marks.Pairwise (fun m n => m.1 < n.1) → ∀ a, a % 8 = 0 →
      (out a → Tab.has a s.marks = true → Tab.read true a s.marks = false → Tab.has a z.marks = false) ∧
      (¬out a → Tab.has a z.marks = Tab.has a s.marks)
    (idle → gives (.blockGate k) fun z => (z.block k).gatedAt.isSome = true ∧ cycles z ∧ z.tiles = s.tiles) ∧
    (¬idle → stays (.blockGate k)) ∧
    (∀ g, b.gatedAt = some g → g ≤ (s.quarter (k.val / 64)).cycles →
      (b.waking = true → (s.quarter (k.val / 64)).clk.plloff = false → s.curfew = false → gives (.blockWake k) fun z =>
        (z.block k).gatedAt = none ∧ (z.block k).waking = false ∧ cycles z ∧ z.tiles = s.tiles) ∧
      (b.waking = false ∨ (s.quarter (k.val / 64)).clk.plloff = true ∨ s.curfew = true → stays (.blockWake k))) ∧
    (let gated := ∀ j, j / 64 = q.val → (s.block j).gatedAt.isSome = true ∧ (s.block j).waking = false
     let permitted := clockPermit q ∉ (s.permitsOf (some q.val)).held ∧ s.curfew = false
     (gated → permitted → gives (.pllOff q) fun z => z.clk q = { s.clk q with plloff := true }) ∧
     (¬(gated ∧ permitted) → stays (.pllOff q))) ∧
    gives (.pllLock q) (fun z => z.clk q = { s.clk q with plloff := false } ∧ z.tiles = s.tiles) ∧
    (s.mayCtl w (quarterOf t) = true → gives (.tpark w t v) fun z =>
      z.tile t = { x with park := bit v 0, parked := x.parked && bit v 0, wake := v.extractLsb' 8 6, lslot := bit v 14 } ∧
      (z.block (blockOf t)).waking = ((s.block (blockOf t)).waking || (s.block (blockOf t)).gatedAt.isSome)) ∧
    (s.mayCtl w (quarterOf t) = false → gives (.tpark w t v) fun z => z.tiles = s.tiles ∧ z.blocks = s.blocks) ∧
    (x.park = false ∨ x.parked = true ∨ x.alive = false ∨ x.boundary = false → stays (.tilePark t)) ∧
    (x.park = true → x.parked = false → x.alive = true → x.core.doing = .issue → x.core.flight = [] → x.core.branch = none →
      (s.ipend t &&& x.wake.setWidth 64 = 0 → gives (.tilePark t) fun z => z.tile t = { x with parked := true, came := false }) ∧
      (s.ipend t &&& x.wake.setWidth 64 ≠ 0 → gives (.tilePark t) fun z => z.tile t = { x with park := false })) ∧
    (let due := s.ipend t &&& x.wake.setWidth 64 ≠ 0 ∨ x.lslot = true ∧ x.came = true
     let able := x.parked = true ∧ (s.block (blockOf t)).gatedAt = none
     (able → due → gives (.tileWake t) fun z => z.tile t = { x with parked := false, park := false, came := false }) ∧
     (¬(able ∧ due) → stays (.tileWake t))) ∧
    (∀ j, u = .hbm q j → gives (.selfRefreshEntry u) (fun z => (z.quarter q).selfRef = true) ∧
      (y.selfRef = false → stays (.patrolBurst u)) ∧
      (y.selfRef = true → bit s.sq.fp.hbm q = true → stays (.patrolBurst u)) ∧
      (y.selfRef = true → bit s.sq.fp.hbm q = false → caught → gives (.patrolBurst u) fun z =>
        (z.quarter q).patrol = (y.patrol + 64) % (s.stackSize / 64))) ∧
    (u = .ddr ch → gives (.selfRefreshEntry u) (fun z => bit z.pop.ddrSelf ch = true) ∧
      (bit s.pop.ddrSelf ch = false → stays (.patrolBurst u)) ∧
      (bit s.pop.ddrSelf ch = true → bit s.pop.channels ch = false → stays (.patrolBurst u)) ∧
      (bit s.pop.ddrSelf ch = true → bit s.pop.channels ch = true → ddrCaught → gives (.patrolBurst u) fun z =>
        Tab.read 0 ch z.pop.ddrPatrol = (Tab.read 0 ch s.pop.ddrPatrol + 256) % s.channelLines)) ∧
    (y.selfRef = true ∨ bit s.sq.fp.hbm q = true → stays (.hbmPatrol q)) ∧
    (y.selfRef = false → bit s.sq.fp.hbm q = false → caught → gives (.hbmPatrol q) fun z =>
      (z.quarter q).patrol = (y.patrol + 1) % (s.stackSize / 64) ∧
      (patrols (line y.patrol) → (z.quarter q).patrolSkip = y.patrolSkip ∧
        (y.patrol < 2 ^ 30 → meets z (hbm y.patrol) fun r => (r.quarter q).elog)) ∧
      (¬patrols (line y.patrol) → z.marks = s.marks ∧ (z.quarter q).patrolSkip = y.patrolSkip ++ [y.patrol] ∧
        (z.quarter q).permits.skips = satInc y.permits.skips)) ∧
    (∀ older n newer, y.selfRef = false → bit s.sq.fp.hbm q = false → y.patrolSkip = older ++ n :: newer →
      (∀ m ∈ older, ¬patrols (line m)) → patrols (line n) → gives (.hbmPatrol q) fun z =>
        (z.quarter q).patrol = y.patrol ∧ (z.quarter q).patrolSkip = older ++ newer ∧
        (n < 2 ^ 30 → meets z (hbm n) fun r => (r.quarter q).elog)) ∧
    (bit s.pop.ddrSelf ch = true ∨ bit s.pop.channels ch = false → stays (.ddr5Patrol ch)) ∧
    (bit s.pop.ddrSelf ch = false → bit s.pop.channels ch = true → ddrCaught → gives (.ddr5Patrol ch) fun z =>
      let n : Nat := Tab.read 0 ch s.pop.ddrPatrol
      let a := s.channelLine ch n
      Tab.read 0 ch z.pop.ddrPatrol = (n + 1) % s.channelLines ∧
      (patrols ⟨10, ch.val⟩ → a < 0x80000000000 → meets z a fun r => (r.edge (s.ddrChannel a / 8)).elog) ∧
      (¬patrols ⟨10, ch.val⟩ → z.marks = s.marks ∧ z.pop.ddrSkip = s.pop.ddrSkip ++ [(ch.val, n)] ∧
        z.sq.permits.skips = satInc s.sq.permits.skips)) ∧
    (∀ older n newer, bit s.pop.ddrSelf ch = false → bit s.pop.channels ch = true →
      s.pop.ddrSkip = older ++ (ch.val, n) :: newer → (∀ e ∈ older, e.1 ≠ ch.val) → patrols ⟨10, ch.val⟩ →
      gives (.ddr5Patrol ch) fun z => let a := s.channelLine ch n
        Tab.read 0 ch z.pop.ddrPatrol = Tab.read 0 ch s.pop.ddrPatrol ∧ z.pop.ddrSkip = older ++ newer ∧
        (a < 0x80000000000 → meets z a fun r => (r.edge (s.ddrChannel a / 8)).elog)) ∧
    (b.gatedAt = none → exec (.sweeperForcedAccess k) s = exec (.sweeperAccess k) s) ∧
    (b.gatedAt ≠ none → stays (.sweeperForcedAccess k)) ∧
    ((∀ a ∈ b.skipped, held a) →
      (s.sweepRetired place.1 = true → gives (.sweeperAccess k) fun z => (z.block k).sweep = (b.sweep + 1) % 720896 ∧
        z.marks = s.marks ∧ (z.block k).skipped = b.skipped) ∧
      (∀ left : List Nat, s.sweepRetired place.1 = false → left.Sublist words → (∀ a ∈ words, a ∈ left ↔ held a) →
        gives (.sweeperAccess k) fun z => (z.block k).sweep = (b.sweep + 1) % 720896 ∧ (z.block k).skipped = b.skipped ++ left ∧
          fixes z (fun a => a ∈ words ∧ ¬held a) ∧ (z.quarter (k.val / 64)).permits.skips =
            satAdd (s.quarter (k.val / 64)).permits.skips (left.map sramUnit).eraseDups.length)) ∧
    (∀ older a newer, b.skipped = older ++ a :: newer → (∀ c ∈ older, held c) → ¬held a → gives (.sweeperAccess k) fun z =>
      let mine (c : Nat) : Prop := c ∈ b.skipped ∧ sweepLine c = sweepLine a ∧ ¬held c
      (z.block k).sweep = b.sweep ∧ (∀ c, c ∈ (z.block k).skipped ↔ c ∈ b.skipped ∧ ¬mine c) ∧
      ((∀ c ∈ b.skipped, c % 8 = 0) → fixes z mine))

/-- The module's coolant and cages (R343, R352, R477, R480): a low flow or a warm inlet is recorded; a module that comes has its
FENCED ports admitted, and one that leaves has its ports fenced. SMBus and PMBus (R483): each command reads its registers, a
read in phase 0 has no answer but the FRU's, and every PMBus write is refused with a NACK. The units of PMBus's words and
STATUS_WORD are the model's (log entry 108). -/
def Obligations.TheModuleAndItsBuses : Prop :=
  (∀ (flow inlet outlet : Nat) (cage : Fin 9) (s : State),
    let m := s.module
    let gives (c : Instr) (is : State → Prop) : Prop := ∃ s', exec c s = .next s' ∧ s'.mem = s.mem ∧ s'.tiles = s.tiles ∧ is s'
    let ports (p : Nat) : Prop := p = 2 * cage.val ∨ p = 2 * cage.val + 1
    gives (.coolantSample flow inlet outlet) (fun z => z.module = { m with flow, inlet, outlet } ∧ z.quarters = s.quarters ∧
      (flow < 20 ∨ 40 < inlet → s.sq.phase ≠ 0 → z.sq.dlog.noted s.sq.dlog s.time) ∧
      (20 ≤ flow ∧ inlet ≤ 40 ∨ s.sq.phase = 0 → z.sq = s.sq)) ∧
    (bit m.cages cage = true → exec (.moduleInsertion cage) s = .next s) ∧
    (bit m.cages cage = false → gives (.moduleInsertion cage) fun z => bit z.module.cages cage = true ∧
      (∀ j < 9, j ≠ cage.val → bit z.module.cages j = bit m.cages j) ∧
      (∀ p, ports p → s.sq.running = true → (s.port p).state = 4 → (z.port p).state = 1) ∧
      ∀ p, ¬(ports p ∧ s.sq.running = true ∧ (s.port p).state = 4) → z.port p = s.port p) ∧
    (∃ z, exec (.moduleRemoval cage) s = .next z ∧ bit z.module.cages cage = false ∧
      (∀ p, ports p → (s.port p).state = 3 → (z.port p).state = 4 ∧ .toManager 2 p ∈ z.out) ∧
      (s.returns = [] → z.mem = s.mem ∧ z.tiles = s.tiles) ∧
      ∀ p, ¬(ports p ∧ (s.port p).state = 3) → z.port p = s.port p)) ∧
  (∀ (a cmd : Byte) (hot : Nat) (s : State),
    let m := s.module
    let tells (z : State) (words : List Nat) : State := { z with out := .smbus (words.map (BitVec.ofNat 64)) :: z.out }
    let most (f : QClk → Byte) (h : Nat) : Prop := (∀ q < 20, (f (s.clk q)).toNat ≤ h) ∧ ∃ q < 20, (f (s.clk q)).toNat = h
    (∃ b : Byte, exec (.fruRead a) s = .next { s with out := .smbus [b.setWidth 64] :: s.out }) ∧
    (s.sq.phase = 0 → ∀ c ∈ [Instr.smbBootstat, .smbUid, .smbTemperatures, .smbInputPower, .smbCoolant, .readVin, .readIin, .readPin,
      .readTemperature1, .pmbusWrite cmd], exec c s = .next s) ∧
    (s.sq.phase ≠ 0 →
      exec .smbBootstat s = .next { s with out := .smbus [s.bootstat] :: s.out } ∧
      exec .smbUid s = .next { s with out := .smbus [s.sq.uid] :: s.out } ∧
      (∀ h, most QClk.tj hot → most QClk.thbm h → exec .smbTemperatures s = .next (tells s [hot, h])) ∧
      exec .smbInputPower s = .next (tells s [m.watt % 65536]) ∧
      exec .smbCoolant s = .next (tells s [m.flow, m.inlet, m.outlet]) ∧
      exec .readVin s = .next (tells s [m.millivolt]) ∧
      exec .readIin s = .next (tells s [m.watt * 1000000 / m.millivolt]) ∧
      exec .readPin s = .next (tells s [m.watt]) ∧
      (most QClk.tj hot → exec .readTemperature1 s = .next (tells s [hot])) ∧
      (∃ v < 65536, exec .statusWord s = .next { tells s [v] with fresh := s.fresh + 1 }) ∧
      exec (.pmbusWrite cmd) s = .next { s with out := .nack :: s.out }))

/-! ## The serial monitor and the module's buses (R384, R386, R408, R409, R461 to R468, R481 to R483) -/

/-- The monitor's commands (R462 to R464, R467, R468): nothing answers before phase 1; a line in a transfer is no command; the ROM's
monitor has a few commands only; each report gives its registers' words; and peek, poke, dump, spot and tally's clr need their
scope, a unit that can be reached and an aligned address. The order of a report's words, the opaque ones and the scope TRACE for
trace buffers are the model's (log entries 106 and 107). -/
def Obligations.TheMonitorRunsItsCommands : Prop :=
  ∀ (l : LogName) (n : Nat) (q : QuarterNo) (g : Option QuarterNo) (t : TileNo) (k : Fin 8) (b : BlockNo) (i : Fin 64) (a : BitVec 44)
    (size len : Nat) (v : Word) (u : SpotUnit) (s : State),
    let rom : List Instr := [.info, .log l n, .unlock, .recoverReset, .unknownCommand]
    let full : List Instr := [.floor g, .links, .temps, .permits g, .queue t k, .tally b i, .tallyClr b i, .peek a size, .poke a size v,
      .dump a len, .spot u]
    let tells (z : State) (output ok : Bool) (code : Nat) (words : List Word) : State :=
      { z with mon := { z.mon with output }, out := .mon ok code words :: z.out }
    let up := s.sq.phase ≠ 0
    let able := up ∧ s.mon.xfer = none ∧ s.romMonitor = false
    let quiet (c : Instr) (ok : Bool) (code : Nat) (words : List Word) : Prop := exec c s = .next (tells s false ok code words)
    let lines (c : Instr) (words : List Word) : Prop := exec c s = .next (tells s true true 1 words)
    let gives (c : Instr) (ok : Bool) (code : Nat) (words : List Word) (is : State → Prop) : Prop :=
      ∃ s', exec c s = .next s' ∧ s'.out = .mon ok code words :: s.out ∧ s'.tiles = s.tiles ∧ is s'
    let scope (x : Bool) : Prop := s.sec.unlocked = true ∧ x = true
    let retired (p : SpotUnit) : Prop := s.retiredUnit p = true
    let w (o : Nat) : Word := (s.tile t).queueWord k o
    let at_ := a.toNat
    let reach := scope (monScope at_ s.sec) ∧ s.unreachable at_ size = false
    let memory := isMemory at_ = true ∧ s.access whoSquare at_ = .serve
    (∀ c ∈ rom ++ full, s.sq.phase = 0 → exec c s = .next s) ∧
    (∀ c ∈ rom ++ full, up → s.mon.xfer.isSome = true → exec c s = .next { s with out := .mon false 10 [] :: s.out }) ∧
    (∀ c ∈ full, up → s.mon.xfer = none → s.romMonitor = true → exec c s = .next { s with out := .mon false 1 [] :: s.out }) ∧
    (up → s.mon.xfer = none → quiet .unknownCommand false 1 []) ∧
    (exec .overlongLine s = .next (if s.sq.phase = 0 then s else { s with out := .mon false 7 [] :: s.out })) ∧
    (exec .abortCharacter s = .next (if up ∧ s.mon.output = true then tells s false false 12 [] else s)) ∧
    (up → s.mon.xfer = none → ∃ part records, quiet .info true 1 [part, s.sq.uid, s.devnum.setWidth 64, s.dist.role.setWidth 64,
      s.bootstat, BitVec.ofNat 64 s.sq.which, s.sq.flash.fwA.getD 0, s.sq.flash.fwB.getD 0, records,
      if s.sec.unlocked then 0 else 2]) ∧
    (up → s.mon.xfer = none → ∃ words, lines (.log l n) words ∧
      (∀ e, l = .square → words.length = 3 * min n (min s.sq.dlog.head.toNat 4096) ∧ ∀ j < min n (min s.sq.dlog.head.toNat 4096),
        Tab.has ((s.sq.dlog.head.toNat - 1 - j) % 4096) s.sq.dlog.entries = true →
        Tab.read e ((s.sq.dlog.head.toNat - 1 - j) % 4096) s.sq.dlog.entries = e → words[3 * j]? = some e.time ∧
          words[3 * j + 1]? = some (e.addr.setWidth 64)) ∧
      ∀ x, (∃ q, l = .quarter q ∧ x = (s.quarter q).elog) ∨ (∃ e, l = .edge e ∧ x = (s.edge e).elog) →
        words.length = 4 * min n (min x.head.toNat 512) ∧ ∀ j < min n (min x.head.toNat 512), ∀ o < 4,
          words[4 * j + o]? = some (s.logWord x none (0x1000 + 32 * ((x.head.toNat - 1 - j) % 512) + 8 * o))) ∧
    (able →
      (∃ words, quiet (.floor none) true 1 words ∧ words.length = 60 ∧ ∀ r < 20,
        words[3 * r]? = some (BitVec.ofNat 64 (1024 - s.sq.fp.tiles.countP fun x => x / 1024 == r)) ∧
        words[3 * r + 1]? = some (BitVec.ofNat 64 (64 - s.sq.fp.stags.countP fun x => x / 64 == r)) ∧
        words[3 * r + 2]? = some (BitVec.ofNat 64 (5120 - s.sq.fp.banks.countP fun x => x / 5120 == r))) ∧
      (let tiles := s.sq.fp.tiles.filter fun x => x / 1024 == q.val
       let stags := s.sq.fp.stags.filter fun x => x / 64 == q.val
       let banks := s.sq.fp.banks.filter fun x => x / 5120 == q.val
       quiet (.floor (some q)) true 1 ((([tiles.length] ++ tiles) ++ ([stags.length] ++ stags) ++ ([banks.length] ++ banks)).map
         (BitVec.ofNat 64))) ∧
      (∃ words, quiet .links true 1 words ∧ words.length = 163 ∧ words[162]? = some (s.sq.ucie.setWidth 64) ∧
        ∀ p < 18, ∀ j < 9, words[9 * p + j]? = some ((s.port p).word (8 * j))) ∧
      (∃ words, quiet .temps true 1 words ∧ words.length = 42 ∧ words[40]? = some (BitVec.ofNat 64 s.module.millivolt) ∧
        words[41]? = some (BitVec.ofNat 64 s.module.watt) ∧
        ∀ r < 20, words[2 * r]? = some (s.qclkWord r 0) ∧ words[2 * r + 1]? = some (s.qclkWord r 8)) ∧
      (let x := match g with | some r => (s.quarter r).permits | none => s.sq.permits
       quiet (.permits g) true 1 [x.stat, x.waits, x.skips]) ∧
      (s.sq.fp.tiles.contains t.val = true → quiet (.queue t k) false 5 []) ∧
      (s.sq.fp.tiles.contains t.val = false → s.clean → quiet (.queue t k) true 1 ([w 0, w 8, w 16] ++
        if s.sec.unlocked && s.sec.ctl then [w 0x40, w 0x48, w 0x50, w 0x58, w 0x60, w 0x68, w 0x70, w 0x78] else [])) ∧
      (s.clean → quiet (.tally b i) true 1 [(s.tally b i).word 0, (s.tally b i).word 8, (s.tally b i).word 16, (s.tally b i).word 24,
        (s.tally b i).word 32])) ∧
    (able → s.sec.unlocked = false → ∀ c ∈ [Instr.tallyClr b i, .peek a size, .poke a size v, .dump a len, .spot u], quiet c false 3 []) ∧
    (able → s.sec.unlocked = true → s.sec.ctl = false → quiet (.tallyClr b i) false 4 [] ∧ quiet (.spot u) false 4 []) ∧
    (able → s.sec.unlocked = true → monScope at_ s.sec = false → quiet (.peek a size) false 4 [] ∧ quiet (.poke a size v) false 4 [] ∧
      quiet (.dump a len) false 4 []) ∧
    (able → scope s.sec.ctl → s.clean → gives (.tallyClr b i) true 0 [] fun z =>
      z.tally b i = { s.tally b i with ovf := false, unf := false } ∧ z.mem = s.mem) ∧
    (able → scope (monScope at_ s.sec) → s.unreachable at_ size = true → quiet (.peek a size) false 5 [] ∧
      quiet (.poke a size v) false 5 []) ∧
    (able → reach → memory →
      (s.clean → gives (.peek a size) true 1 [BitVec.ofNat 64 (leNat (s.bytesAt at_ size))] fun z => z.mem = s.mem) ∧
      (at_ < 0x80000000000 → s.dramBad at_ = true → gives (.peek a size) false 6 [] fun z => z.mem = s.mem) ∧
      (s.clean → s.memOk → gives (.poke a size v) true 0 [] fun z =>
        (∀ j < size, z.byteAt (at_ + j) = v.extractLsb' (8 * j) 8) ∧ ∀ c, c < at_ ∨ at_ + size ≤ c → z.byteAt c = s.byteAt c)) ∧
    (able → reach → isMemory at_ = false → s.clean → (∀ r o, locOf at_ ≠ .qclk r o) → quiet (.peek a size) true 1
      [BitVec.ofNat 64 (fld (s.regValue none (locOf at_)) (8 * (at_ % 8)) (8 * size))]) ∧
    (able → scope s.sec.mem → at_ = qclkAddr q + 8 → gives (.peek a 8) true 1 [s.qclkWord q 8] fun z =>
      z.clk q = { s.clk q with tpeak := 0 }) ∧
    (able → scope (monScope at_ s.sec) →
      (0x1000000 < len → quiet (.dump a len) false 2 []) ∧
      (len ≤ 0x1000000 → at_ % 16 ≠ 0 ∨ s.retiredAt at_ = true → quiet (.dump a len) false 5 []) ∧
      (len ≤ 0x1000000 → at_ % 16 = 0 → s.retiredAt at_ = false → s.clean → isMemory at_ = true →
        (∀ j < len, s.access whoSquare (at_ + j) = .serve) →
        gives (.dump a len) true 1 (wordsOf (s.bytesAt at_ len)) fun z => z.mon.output = true ∧ z.mem = s.mem)) ∧
    (able → scope s.sec.ctl →
      (spotExists u.kind.toNat u.unit = false → quiet (.spot u) false 2 []) ∧
      (spotExists u.kind.toNat u.unit = true → retired u → quiet (.spot u) false 5 []) ∧
      (spotExists u.kind.toNat u.unit = true → ¬retired u → ∃ s', exec (.spot u) s = .next s' ∧ s'.out = s.out ∧
        (∃ x ∈ s'.sq.spots, x.unit = u ∧ x.asked = true) ∧
        ((∃ x ∈ s.sq.spots, x.unit = u) → s'.sq.spots.length = s.sq.spots.length) ∧
        ∀ x ∈ s.sq.spots, x.unit ≠ u → x ∈ s'.sq.spots))

/-- The debug unlock and the transfers (R384, R386, R408, R409, R441, R465 to R467): a challenge; a transfer of data lines, each with
its byte sum; a token refused, or one that destroys every partition and opens its scope; an image that verifies or leaves its
part invalid, and no other part; and the device reset. Which refusal comes first, the line `.` and the version of an image are
the model's (log entries 105 and 106). -/
def Obligations.UnlockAndRecoveryByTransfer : Prop :=
  ∀ (n : Nat) (tok : Token) (part : Option Bool) (bytes : List Byte) (sum : Byte) (imageOk : Bool) (s : State),
    let tells (z : State) (ok : Bool) (code : Nat) (words : List Word) : State :=
      { z with mon := { z.mon with output := false }, out := .mon ok code words :: z.out }
    let quiet (c : Instr) (ok : Bool) (code : Nat) (words : List Word) : Prop := exec c s = .next (tells s ok code words)
    let able := s.sq.phase ≠ 0 ∧ s.mon.xfer = none
    let puf := s.curfew = true ∧ s.sq.cause = 1
    let starts (c : Instr) (x : Xfer) : Prop :=
      exec c s = .next { s with mon := { xfer := some x, output := false }, out := .mon true 2 [] :: s.out }
    let line : Instr := .dataLine bytes sum imageOk
    let answers (ok : Bool) (code : Nat) (is : State → Prop) : Prop :=
      ∃ s', exec line s = .next s' ∧ s'.mem = s.mem ∧ (∃ rest, s'.out = .mon ok code [] :: rest) ∧ is s'
    let flash (z : State) (p : Bool) : Option Word := if p then z.sq.flash.fwB else z.sq.flash.fwA
    let recovers : List Instr := [.recover part n, .recoverReset]
    (∀ c ∈ [Instr.unlockToken n tok, .recover part n, .recoverReset, .unlock], able → puf → quiet c false 3 []) ∧
    (∀ c ∈ [Instr.unlockToken n tok, .recover part n], s.sq.phase = 0 → exec c s = .next s) ∧
    (∀ c ∈ [Instr.unlockToken n tok, .recover part n], s.sq.phase ≠ 0 → s.mon.xfer.isSome = true →
      exec c s = .next { s with out := .mon false 10 [] :: s.out }) ∧
    (able → ¬puf → ∃ c : Word, exec .unlock s = .next { tells s true 1 [c] with
      fresh := s.fresh + 1, sec := { s.sec with challenge := some c } }) ∧
    (able → ¬puf → (n = 0 → quiet (.unlockToken n tok) false 2 []) ∧
      (0 < n → starts (.unlockToken n tok) { recover := false, part := false, total := n, got := 0, tok := some tok })) ∧
    (∀ c ∈ recovers, able → ¬puf → (s.sec.unlocked = false → quiet c false 3 []) ∧
      (s.sec.unlocked = true → s.sec.fw = false → quiet c false 4 [])) ∧
    (able → ¬puf → s.sec.unlocked = true → s.sec.fw = true →
      (n = 0 ∨ 0x3DF0000 < n → quiet (.recover part n) false 2 []) ∧
      (0 < n → n ≤ 0x3DF0000 → ∀ p, part = some p ∨ (part = none ∧ p = s.sq.flash.target) →
        starts (.recover part n) { recover := true, part := p, total := n, got := 0, tok := none }) ∧
      ∃ s', exec .recoverReset s = .next s' ∧ s' = (tells s true 0 []).deviceReset ∧ s'.mem = [] ∧ s'.pending = s.pending ∧
        s'.sq.phase = if s.module.resetLow || !s.module.powerGood then 0 else 1) ∧
    (s.sq.phase = 0 → exec line s = .next s) ∧
    (s.sq.phase ≠ 0 → s.mon.xfer = none → exec line s = .next { s with out := .mon false 1 [] :: s.out }) ∧
    (∀ x, s.sq.phase ≠ 0 → s.mon.xfer = some x →
      let want := min 32 (x.total - x.got)
      let good := bytes ≠ [] ∧ bytes.length = want ∧ lineSum bytes = sum
      let permit := flashPermit .flashw x.part.toNat
      let held := x.recover = true ∧ permit ∉ s.sq.permits.held ∧ (s.permitBlocked permit = true ∨
        ∃ p ∈ s.sq.permits.wait, p.unit = permit.unit ∧ actWaits p.act = true)
      let returned (z : State) : Prop := x.recover = true → permit ∉ z.sq.permits.held
      let more := x.got + want ≠ x.total
      (bytes = [] → answers false 10 fun z => z.mon.xfer = none ∧ (x.recover = true → flash z x.part = none) ∧
        returned z ∧ flash z (!x.part) = flash s (!x.part)) ∧
      (bytes ≠ [] → ¬good → exec line s = .next { s with out := .mon false 10 [] :: s.out }) ∧
      (good → held → ∃ s', exec line s = .next s' ∧ s'.out = s.out ∧ s'.mon = s.mon ∧ s'.sq.flash = s.sq.flash ∧ s'.mem = s.mem ∧
        permit ∈ s'.sq.permits.wait ∧ s'.sq.permits.held = s.sq.permits.held) ∧
      (good → ¬held → more → answers true 0 fun z => z.mon.xfer = some { x with got := x.got + want } ∧
        (x.recover = true → flash z x.part = none ∧ (permit ∈ z.sq.permits.held ↔ (x.got + want) % 0x10000 ≠ 0)) ∧
        (x.recover = false → z.sq = s.sq) ∧
        flash z (!x.part) = flash s (!x.part) ∧ z.sec = s.sec ∧ z.parts = s.parts) ∧
      (good → ¬held → ¬more → x.tok = none →
        (imageOk = true → answers true 0 fun z => z.mon.xfer = none ∧ (flash z x.part).isSome = true ∧ returned z ∧
          flash z (!x.part) = flash s (!x.part)) ∧
        (imageOk = false → answers false 11 fun z => z.mon.xfer = none ∧ flash z x.part = none ∧ returned z ∧
          flash z (!x.part) = flash s (!x.part))) ∧
      (∀ k, good → ¬held → ¬more → x.tok = some k →
        let owner := ∃ r, s.sq.record = some r ∧ r.ownerDebug = true
        let h := k.hdr
        let valid := (h.edOk = true ∧ h.pqOk = true ∧ h.rsv = false ∧ h.magic = 0x20640B5C ∧ h.type = 4 ∧ h.hver = 1 ∧
          (h.keyid = 0 ∨ owner ∧ h.keyid = 1) ∧ h.bodylen.toNat % 8 = 0 ∧ h.bodylen.toNat ≤ 0xF0000 ∧ h.uid = s.sq.uid ∧ h.gen = 0) ∧
          k.reserved = false ∧ k.uid = s.sq.uid
        (¬valid → answers false 8 fun z => z.sec = { s.sec with challenge := none } ∧ z.parts = s.parts ∧ z.mon.xfer = none) ∧
        (valid → s.sec.challenge ≠ some k.nonce → answers false 9 fun z => z.sec = { s.sec with challenge := none } ∧
          z.parts = s.parts ∧ z.mon.xfer = none) ∧
        (valid → s.sec.challenge = some k.nonce → answers true 0 fun z => z.mon.xfer = none ∧ z.sec.challenge = none ∧
          z.sec.unlocked = true ∧ z.sec.mem = k.mem ∧ z.sec.ctl = k.ctl ∧ z.sec.trace = k.trace ∧ z.sec.fw = k.fw ∧
          ∀ p y, s.part? p = some y → ∃ y', z.part? p = some y' ∧ y'.keying = .unkeyed ∧ y'.ending = some true)))

/-! ## Registers of the control spaces and the trace buffers (R4, R195, R197, R470, R471) -/

/-- A write to a register acts by its fields' types (R4): an RW field takes its bytes, a 1 clears a W1C field, a touched SAT counter
goes to 0, as PMWAITS and PMSKIPS do (R438), an RO field stays; a write that R197 does not let reach its register is ignored and recorded. TRCTL's EN rising clears
NEXT and FULL, and an issue sample records the PC of tile T, or counts as lost in a full buffer that does not wrap (R470, R471). -/
def Obligations.RegisterWritesActByFieldType : Prop :=
  ∀ (w : Writer) (q : QuarterNo) (t : TileNo) (k : BlockNo) (i : Fin 64) (n : Fin 8) (p : PartNo) (port : PortNo) (e : EdgeNo)
    (d : Fin 4096) (a : BitVec 44) (size : Nat) (v : Word) (s : State),
    let at_ := a.toNat
    let gives (c : Instr) (is : State → Prop) : Prop := ∃ s', exec c s = .next s' ∧ s'.mem = s.mem ∧ is s'
    let machine := w = .square ∨ w = .monitor
    let holder (r : Nat) : Prop := ∃ j, w = .tile j ∧ (s.tile j).user = false ∧ s.holds (s.tile j).part r = true
    let may (r : Nat) : Prop := machine ∨ holder r
    let recorded (c : Instr) : Prop := gives c fun z => z.tiles = s.tiles ∧ z.blocks = s.blocks ∧ z.quarters = s.quarters ∧
      z.edges = s.edges ∧ z.ports = s.ports ∧ z.sq.dlog.noted s.sq.dlog s.time
    let wellFormed := size ∈ [1, 2, 4, 8] ∧ at_ % size = 0 ∧ isMemory at_ = false
    let base (r : Nat) : Nat := 0xF0000000000 + r * 0x100000000
    let edge := 0xFF000000000 + e.val * 0x100000000
    let whole (addr : Nat) (able : Prop) (is : State → Prop) : Prop := at_ = addr → able → gives (.registerWrite w a 8 v) is
    let x := s.quarter q
    let tally := base (k.val / 64) + 0x41000000 + k.val % 64 * 0x1000 + i.val * 0x40
    let old := s.tally k i
    let counts (f : Nat) (y : Tally) : Prop := s.clean → whole (tally + f) (may (k.val / 64)) fun z => z.tally k i = y ∧ z.tiles = s.tiles ∧
      ∀ j, j ≠ k.val → z.block j = s.block j
    let window := base (quarterOf t) + t.val % 1024 * 0x100000
    let tile (addr : Nat) (y : Tile) : Prop := whole (window + addr) (may (quarterOf t)) fun z => z.tile t = y ∧ z.quarters = s.quarters ∧
      ∀ j, j ≠ t.val → z.tile j = s.tile j
    let cleared : RQueue := { (s.tile t).queue n.val with drops := 0, stale := 0 }
    let b := s.block k
    let r := b.trace
    (isMemory at_ = true ∨ size = 0 ∨ 8 < size ∨ at_ % size ≠ 0 → exec (.registerWrite w a size v) s = .next s) ∧
    (wellFormed → w = .host → recorded (.registerWrite w a size v)) ∧
    (∀ j, wellFormed → w = .tile j → (s.tile j).user = true ∨ (∀ r, regionOf at_ ≠ .qctl r) ∨
      (∃ r, regionOf at_ = .qctl r ∧ s.holds (s.tile j).part r = false) → recorded (.registerWrite w a size v)) ∧
    whole (base q + 0x40000000 + p.toNat * 8) (machine ∨ ∃ j, w = .tile j ∧ (s.tile j).part = p ∧ holder q) (fun z =>
      Tab.read 0 p.toNat (z.quarter q).ptroot = v &&& 0xFFFFFFFF001 ∧
      ∀ j, j ≠ p.toNat → Tab.read 0 j (z.quarter q).ptroot = Tab.read 0 j x.ptroot) ∧
    whole (base q + 0x40000208) machine (fun z => z.quarter q = { x with devnum := v.setWidth 12 }) ∧
    (∀ j, at_ = base q + 0x40000208 → w = .tile j → recorded (.registerWrite w a 8 v)) ∧
    whole (base q + 0x40000210) (may q) (fun z => z.quarter q = { x with nwalks := 0 }) ∧
    whole (base q + 0x40000218) (may q) (fun z => z.quarter q = { x with wcmiss := 0 }) ∧
    whole (base q + 0x42000000) (may q) (fun z =>
      z.quarter q = { x with gridEn := bit v 0, gridFired := x.gridFired && !bit v 1 }) ∧
    whole (base q + 0x43001000 + p.toNat * 8) machine (fun z => Tab.read 0 p.toNat (z.quarter q).pepoch = v.setWidth 32 ∧
      ∀ j, j ≠ p.toNat → Tab.read 0 j (z.quarter q).pepoch = Tab.read 0 j x.pepoch) ∧
    counts 0 { old with value := v.setWidth 32 } ∧ counts 8 { old with limit := v.setWidth 32 } ∧
    counts 16 { old with thresh := v.setWidth 32 } ∧ counts 32 { old with ign := 0 } ∧
    counts 24 { old with note := v.setWidth 4, even := bit v 4, ovf := old.ovf && !bit v 5, unf := old.unf && !bit v 6 } ∧
    (∀ j < 4, at_ = tally + 8 + j → may (k.val / 64) → s.clean → gives (.registerWrite w a 1 v) fun z =>
      (z.tally k i).limit.extractLsb' (8 * j) 8 = v.extractLsb' 0 8 ∧
      (∀ m < 4, m ≠ j → (z.tally k i).limit.extractLsb' (8 * m) 8 = old.limit.extractLsb' (8 * m) 8) ∧
      (z.tally k i).value = old.value ∧ (z.tally k i).thresh = old.thresh) ∧
    tile (0xA0000 + 8 * n.val) { s.tile t with pcsel := (s.tile t).pcsel.setIfInBounds n.val (v.setWidth 6) } ∧
    tile (0xA0040 + 8 * n.val) { s.tile t with pcnt := (s.tile t).pcnt.setIfInBounds n.val 0 } ∧
    tile (0x80008 + 0x100 * n.val) { s.tile t with queues := (s.tile t).queues.setIfInBounds n.val cleared } ∧
    (port.val / 6 = e.val → ∀ j, 1 ≤ j → j ≤ 8 → whole (edge + 0x01000000 + port.val % 6 * 0x1000 + 8 * j) machine fun z =>
      (z.port port).word (8 * j) = 0 ∧ (∀ m ≤ 8, m ≠ j → (z.port port).word (8 * m) = (s.port port).word (8 * m)) ∧
      ∀ m, m ≠ port.val → z.port m = s.port m) ∧
    whole (edge + 0x02000000 + 8 * d.val) machine (fun z => Tab.read 0 d.val (z.edge e).routes = v &&& 0x7F7F7F7F ∧
      (∀ j, j ≠ d.val → Tab.read 0 j (z.edge e).routes = Tab.read 0 j (s.edge e).routes) ∧
      ∀ j, j ≠ e.val → (z.edge j).routes = (s.edge j).routes) ∧
    whole (base q + 0x56008008) machine (fun z => z.quarter q = { x with permits := { x.permits with waits := 0 } }) ∧
    whole (base q + 0x56008010) machine (fun z => z.quarter q = { x with permits := { x.permits with skips := 0 } }) ∧
    whole 0xFF800000208 machine (fun z => z.sq = { s.sq with permits := { s.sq.permits with waits := 0 } }) ∧
    whole 0xFF800000210 machine (fun z => z.sq = { s.sq with permits := { s.sq.permits with skips := 0 } }) ∧
    (machine → (∃ j < 16, at_ = base q + 0x42000040 + 8 * j) ∨ at_ = base q + 0x56008000 ∨ at_ = 0xFF800000200 ∨
      (∃ j < 256, at_ = base q + 0x54001000 + 8 * j) ∨ at_ = 0xFF800000100 →
      exec (.registerWrite w a 8 v) s = .next s) ∧
    (s.mayCtl w (k.val / 64) = true → gives (.trctlWrite w k v) fun z =>
      let up := bit v 0 = true ∧ bit r.ctl 0 = false
      (∃ next full, (z.block k) = { b with trace := { r with ctl := v &&& 0xFF3F03, next, full } } ∧
        (up → next = 0 ∧ full = false) ∧ (¬up → next = r.next ∧ full = r.full)) ∧
      (∀ j, j ≠ k.val → z.block j = s.block j) ∧ z.tiles = s.tiles) ∧
    (s.mayCtl w (k.val / 64) = false → recorded (.trctlWrite w k v)) ∧
    (b.gatedAt.isSome = true ∨ bit r.ctl 0 = false ∨ bit r.ctl 8 = false → gives (.traceIssueSample k) fun z =>
      z.tiles = s.tiles ∧ ∀ j, z.block j = s.block j) ∧
    (b.gatedAt = none → bit r.ctl 0 = true → bit r.ctl 8 = true → gives (.traceIssueSample k) fun z =>
      let tt := fld r.ctl 16 4
      let pc := (s.tile (k.val * 16 + tt)).core.pc
      z.tiles = s.tiles ∧ (∀ j, j ≠ k.val → z.block j = s.block j) ∧
      (r.full = true → bit r.ctl 1 = false → z.block k = { b with trace := { r with lost := satInc r.lost } }) ∧
      (r.full = false ∨ bit r.ctl 1 = true → ∃ entries, Tab.read (0, 0) r.next.toNat entries =
          (s.time, BitVec.ofNat 64 (1 + 16 * tt + 256 * pc.toNat)) ∧
        (∀ j, j ≠ r.next.toNat → Tab.read (0, 0) j entries = Tab.read (0, 0) j r.entries) ∧
        z.block k = { b with trace := { r with entries, next := r.next + 1, full := r.full || r.next == 0xFFF } }))

/-! ## Every command and the state after reset -/

/-- Every command completes, and its effect is on everything but the queue of the commands that wait. -/
def Obligations.CommandsCompleteAndKeepTheQueue : Prop :=
  ∀ (c : Instr) (s : State), ∃ s', exec c s = .next s' ∧ s'.pending = s.pending

/-- Every step keeps the memory, and the memory saved for each partition that does not run, in canonical form: equal memories are
equal data. -/
def Obligations.MemoryStaysCanonical : Prop :=
  ∀ s s' : State, s.memOk → step s = .next s' → s'.memOk

/-- After reset the device is before phase 1, with no command waiting, its memory in canonical form with nothing listed, and every
tile, tally, stream record, port and reset register at the value that R17, R54, R61, R114, R128, R268, R282, R314, R343 and R452 give. -/
def Obligations.ResetState : Prop :=
  let s := State.reset
  s.pending = [] ∧ s.memOk ∧ (∀ a, s.byteAt a = 0) ∧ s.sq.phase = 0 ∧ s.sq.cause = 0 ∧ s.parts = [] ∧ s.sec.unlocked = false ∧
  (∀ t, let x := s.tile t
    x.core.d = 0 ∧ x.core.rd = 0 ∧ x.vec.vd = 0 ∧ x.core.run = .unreleased ∧ x.ctl.status = 1 ∧ x.ctl.stklim = 0xE1C ∧
    x.ctl.waitlim = 0x1000000 ∧ x.ctl.holdlim = 128 ∧ x.ctl.tcmp = 0xFFFFFFFFFFFFFFFF ∧ x.ctl.ecause = 0 ∧ x.ctl.epc = 0 ∧
    x.ctl.fcsr = 0 ∧ x.ctl.ien = 0 ∧ x.gmem.slots = [] ∧ x.gmem.mb = [] ∧ x.gmem.tlb = [] ∧ x.tmu.tcfg = 0x40F03F0 ∧ x.tmu.queue = [] ∧
    (∀ k < 8, (x.queue k).isOpen = false ∧ (x.queue k).msgs = []) ∧ x.qimask = 0xFF ∧ x.park = false ∧ x.wake = 0x3F ∧ x.lslot = true) ∧
  (∀ k i, s.tally k i = ⟨0, 0xFFFFFFFF, 0xFFFFFFFF, 0, false, false, false, 0⟩) ∧
  (∀ k, (s.block k).stag.queue = [] ∧ (s.block k).trace.ctl = 0 ∧ (s.block k).gatedAt = none) ∧
  (∀ q i, (s.stream q i).state = 0) ∧ (∀ q p, (s.hive q p).en = false) ∧
  (∀ q, (s.clk q).op = 0 ∧ (s.clk q).reqs = [] ∧ (s.quarter q).ptroot = [] ∧ (s.quarter q).running = none) ∧
  (∀ p, (s.port p).state = 0 ∧ (s.port p).lanes = 0 ∧ (s.port p).viol = 0) ∧
  (∀ e, (s.edge e).routes = [] ∧ (s.edge e).groups = [] ∧ (s.edge e).queue = []) ∧
  s.txs = [] ∧ s.txWait = [] ∧ s.far = [] ∧ s.rpackets = [] ∧ s.returns = [] ∧ s.watches = [] ∧ s.avenue = []
end

