-- ==== Sys2Proof/Laws/Bits.lean ====
section
/-! SUPPORT. Tables: reading after writing, erasing and clearing, and the ascending order that they keep. -/

namespace Sys2Proof.Machine

theorem Tab.read_write_self {α : Type} (d v : α) (n : Nat) (m : Tab α) : Tab.read d n (Tab.write n v m) = v := by
  induction m with
  | nil => simp [Tab.write, Tab.read]
  | cons e r ih =>
    obtain ⟨k, w⟩ := e
    simp only [Tab.write]
    split
    · simp [Tab.read]
    · split
      · simp [Tab.read]
      · simp only [Tab.read, if_neg ‹¬k = n›, if_neg ‹¬n < k›, ih]

theorem Tab.read_write_other {α : Type} (d v : α) {n k : Nat} (h : k ≠ n) (m : Tab α) :
    Tab.read d k (Tab.write n v m) = Tab.read d k m := by
  induction m with
  | nil => simp only [Tab.write, Tab.read]; split <;> simp_all
  | cons e r ih =>
    obtain ⟨j, w⟩ := e
    simp only [Tab.write]
    split
    · subst_vars; simp only [Tab.read]; split
      · exact absurd (by assumption) h.symm
      · rfl
    · split
      · simp only [Tab.read]
        split
        · exact absurd (by assumption) h.symm
        · split
          · rw [if_neg (by omega), if_pos (by omega)]
          · rfl
      · simp only [Tab.read, ih]

theorem Tab.write_write {α : Type} (n : Nat) (v w : α) (m : Tab α) : Tab.write n v (Tab.write n w m) = Tab.write n v m := by
  induction m with
  | nil => simp [Tab.write]
  | cons e r ih =>
    obtain ⟨j, u⟩ := e
    simp only [Tab.write]
    split
    · simp [Tab.write]
    · split
      · simp [Tab.write]
      · simp only [Tab.write, if_neg ‹¬j = n›, if_neg ‹¬n < j›, ih]

/-- Addresses or unit numbers that rise strictly. -/
def Tab.rising {α : Type} (m : Tab α) : Prop := m.Pairwise fun a b => a.1 < b.1

theorem Tab.rising_cons {α : Type} {k : Nat} {w : α} {r : Tab α} :
    Tab.rising ((k, w) :: r) ↔ (∀ e ∈ r, k < e.1) ∧ Tab.rising r := by
  simp [Tab.rising, List.pairwise_cons]

theorem Tab.mem_write {α : Type} {n : Nat} {v : α} {m : Tab α} {e : Nat × α} (h : e ∈ Tab.write n v m) :
    e = (n, v) ∨ e ∈ m := by
  induction m with
  | nil => simpa [Tab.write] using h
  | cons a r ih =>
    obtain ⟨k, w⟩ := a
    simp only [Tab.write] at h
    split at h
    · simp only [List.mem_cons] at h ⊢
      rcases h with h | h
      · exact .inl h
      · exact .inr (.inr h)
    · split at h
      · simpa using h
      · simp only [List.mem_cons] at h ⊢
        rcases h with h | h
        · exact .inr (.inl h)
        · rcases ih h with h | h
          · exact .inl h
          · exact .inr (.inr h)

theorem Tab.mem_erase {α : Type} {n : Nat} {m : Tab α} {e : Nat × α} (h : e ∈ Tab.erase n m) : e ∈ m := by
  induction m with
  | nil => simp [Tab.erase] at h
  | cons a r ih =>
    obtain ⟨k, w⟩ := a
    simp only [Tab.erase] at h
    split at h
    · exact List.mem_cons_of_mem _ h
    · split at h
      · exact h
      · simp only [List.mem_cons] at h ⊢
        rcases h with h | h
        · exact .inl h
        · exact .inr (ih h)

theorem Tab.rising_write {α : Type} (n : Nat) (v : α) {m : Tab α} (h : Tab.rising m) : Tab.rising (Tab.write n v m) := by
  induction m with
  | nil => simp [Tab.write, Tab.rising]
  | cons a r ih =>
    obtain ⟨k, w⟩ := a
    rw [Tab.rising_cons] at h
    simp only [Tab.write]
    split
    · subst_vars; exact Tab.rising_cons.2 h
    · split
      · refine Tab.rising_cons.2 ⟨fun e he => ?_, Tab.rising_cons.2 h⟩
        simp only [List.mem_cons] at he
        rcases he with rfl | he
        · assumption
        · exact Nat.lt_trans (by assumption) (h.1 e he)
      · refine Tab.rising_cons.2 ⟨fun e he => ?_, ih h.2⟩
        rcases Tab.mem_write he with rfl | he
        · show k < n; omega
        · exact h.1 e he

theorem Tab.rising_erase {α : Type} (n : Nat) {m : Tab α} (h : Tab.rising m) : Tab.rising (Tab.erase n m) := by
  induction m with
  | nil => simp [Tab.erase, Tab.rising]
  | cons a r ih =>
    obtain ⟨k, w⟩ := a
    have h' := Tab.rising_cons.1 h
    simp only [Tab.erase]
    split
    · exact h'.2
    · split
      · exact h
      · exact Tab.rising_cons.2 ⟨fun e he => h'.1 e (Tab.mem_erase he), ih h'.2⟩

theorem Tab.rising_clear {α : Type} (lo hi : Nat) {m : Tab α} (h : Tab.rising m) : Tab.rising (Tab.clear lo hi m) :=
  List.Pairwise.filter _ h

theorem Tab.read_erase_self {α : Type} (d : α) (n : Nat) {m : Tab α} (h : Tab.rising m) :
    Tab.read d n (Tab.erase n m) = d := by
  induction m with
  | nil => rfl
  | cons a r ih =>
    obtain ⟨k, w⟩ := a
    have h' := Tab.rising_cons.1 h
    simp only [Tab.erase]
    split
    · subst_vars
      cases r with
      | nil => rfl
      | cons e r =>
        obtain ⟨j, u⟩ := e
        have := h'.1 (j, u) (by simp)
        simp only [Tab.read]
        rw [if_neg (by simp at this; omega), if_pos (by simpa using this)]
    · split
      · simp only [Tab.read]; rw [if_neg (by assumption), if_pos (by assumption)]
      · simp only [Tab.read]; rw [if_neg (by assumption), if_neg (by assumption)]; exact ih h'.2

theorem Tab.read_erase_other {α : Type} (d : α) {n k : Nat} (hk : k ≠ n) {m : Tab α} (h : Tab.rising m) :
    Tab.read d k (Tab.erase n m) = Tab.read d k m := by
  induction m with
  | nil => rfl
  | cons a r ih =>
    obtain ⟨j, w⟩ := a
    have h' := Tab.rising_cons.1 h
    simp only [Tab.erase]
    split
    · subst_vars
      simp only [Tab.read]
      rw [if_neg (fun e => hk e.symm)]
      split
      · cases r with
        | nil => rfl
        | cons e r =>
          obtain ⟨i, u⟩ := e
          have := h'.1 (i, u) (by simp)
          simp only [Tab.read]
          rw [if_neg (by simp at this; omega), if_pos (by simp at this; omega)]
      · rfl
    · split
      · rfl
      · simp only [Tab.read, ih h'.2]

end Sys2Proof.Machine
end

