-- ==== Sys2Proof/Laws/Memory.lean ====
section
/-! SUPPORT. The device's memory: its canonical form is kept by every memory operation, and reading after writing. -/

namespace Sys2Proof.Machine

theorem Memory.wf_iff (m : List Host.Cell) : Memory.wf m = true ↔ Tab.rising m ∧ ∀ e ∈ m, e.2 ≠ 0 := by
  induction m with
  | nil => simp [Memory.wf, Tab.rising]
  | cons a r ih =>
    obtain ⟨k, b⟩ := a
    cases r with
    | nil => simp [Memory.wf, Tab.rising]
    | cons c r =>
      obtain ⟨j, c⟩ := c
      have step : Memory.wf ((k, b) :: (j, c) :: r) = (b != 0 && decide (k < j) && Memory.wf ((j, c) :: r)) := rfl
      rw [step, Bool.and_eq_true, ih, Tab.rising_cons (k := k)]
      simp only [Bool.and_eq_true, bne_iff_ne, decide_eq_true_eq, List.mem_cons, forall_eq_or_imp]
      constructor
      · rintro ⟨⟨hb, hk⟩, hr, hc, hz⟩
        refine ⟨⟨⟨hk, fun e he => Nat.lt_trans hk ((Tab.rising_cons.1 hr).1 e he)⟩, hr⟩, hb, hc, hz⟩
      · rintro ⟨⟨⟨hk, _⟩, hr⟩, hb, hc, hz⟩
        exact ⟨⟨hb, hk⟩, hr, hc, hz⟩

theorem Memory.wf_nil : Memory.wf [] = true := rfl

theorem Memory.wf_write (a : Nat) (b : Byte) {m : List Host.Cell} (h : Memory.wf m = true) :
    Memory.wf (Memory.write a b m) = true := by
  rw [Memory.wf_iff] at h ⊢
  unfold Memory.write
  split
  · exact ⟨Tab.rising_erase a h.1, fun e he => h.2 e (Tab.mem_erase he)⟩
  · refine ⟨Tab.rising_write a b h.1, fun e he => ?_⟩
    rcases Tab.mem_write he with rfl | he
    · assumption
    · exact h.2 e he

theorem Memory.wf_writeAll (bs : List Byte) : ∀ (a : Nat) {m : List Host.Cell}, Memory.wf m = true →
    Memory.wf (Memory.writeAll a bs m) = true := by
  induction bs with
  | nil => intro a m h; exact h
  | cons b r ih => intro a m h; exact ih (a + 1) (Memory.wf_write a b h)

theorem Memory.wf_clear (lo hi : Nat) {m : List Host.Cell} (h : Memory.wf m = true) :
    Memory.wf (Memory.clear lo hi m) = true := by
  rw [Memory.wf_iff] at h ⊢
  exact ⟨Tab.rising_clear lo hi h.1, fun e he => h.2 e (List.mem_of_mem_filter he)⟩

theorem Memory.wf_filter (p : Host.Cell → Bool) {m : List Host.Cell} (h : Memory.wf m = true) :
    Memory.wf (m.filter p) = true := by
  rw [Memory.wf_iff] at h ⊢
  exact ⟨List.Pairwise.filter _ h.1, fun e he => h.2 e (List.mem_of_mem_filter he)⟩

theorem Memory.read_write_self (a : Nat) (b : Byte) {m : List Host.Cell} (h : Memory.wf m = true) :
    Memory.read (Memory.write a b m) a = b := by
  unfold Memory.write Memory.read
  split
  · subst_vars; exact Tab.read_erase_self 0 a ((Memory.wf_iff m).1 h).1
  · exact Tab.read_write_self 0 b a m

theorem Memory.read_write_other {a k : Nat} (hk : k ≠ a) (b : Byte) {m : List Host.Cell} (h : Memory.wf m = true) :
    Memory.read (Memory.write a b m) k = Memory.read m k := by
  unfold Memory.write Memory.read
  split
  · exact Tab.read_erase_other 0 hk ((Memory.wf_iff m).1 h).1
  · exact Tab.read_write_other 0 b hk m

theorem Memory.read_writeAll_outside (bs : List Byte) : ∀ (a : Nat) {k : Nat} {m : List Host.Cell},
    Memory.wf m = true → (k < a ∨ a + bs.length ≤ k) → Memory.read (Memory.writeAll a bs m) k = Memory.read m k := by
  induction bs with
  | nil => intro a k m _ _; rfl
  | cons b r ih =>
    intro a k m h hk
    simp only [List.length_cons] at hk
    show Memory.read (Memory.writeAll (a + 1) r (Memory.write a b m)) k = _
    rw [ih (a + 1) (Memory.wf_write a b h) (by omega), Memory.read_write_other (by omega) b h]

theorem Memory.read_writeAll_inside (bs : List Byte) : ∀ (a i : Nat) {m : List Host.Cell},
    Memory.wf m = true → ∀ h : i < bs.length, Memory.read (Memory.writeAll a bs m) (a + i) = bs[i] := by
  induction bs with
  | nil => intro a i m _ h; simp at h
  | cons b r ih =>
    intro a i m hm h
    show Memory.read (Memory.writeAll (a + 1) r (Memory.write a b m)) (a + i) = _
    cases i with
    | zero =>
      rw [Memory.read_writeAll_outside r (a + 1) (Memory.wf_write a b hm) (by omega), Nat.add_zero,
        Memory.read_write_self a b hm]
      rfl
    | succ i =>
      have := ih (a + 1) i (Memory.wf_write a b hm) (by simpa using h)
      rw [show a + (i + 1) = a + 1 + i by omega, this]
      rfl

end Sys2Proof.Machine
end

