-- ==== Sys2Proof/Laws/State.lean ====
section
/-! SUPPORT. What each update of a unit leaves in every field of the state, and reading a unit after writing it. -/

namespace Sys2Proof.Machine

@[simp] theorem State.setTile_pending (s : State) (t : Nat) (x : Tile) : (s.setTile t x).pending = s.pending := rfl
@[simp] theorem State.setTile_time (s : State) (t : Nat) (x : Tile) : (s.setTile t x).time = s.time := rfl
@[simp] theorem State.setTile_ticks (s : State) (t : Nat) (x : Tile) : (s.setTile t x).ticks = s.ticks := rfl
@[simp] theorem State.setTile_mem (s : State) (t : Nat) (x : Tile) : (s.setTile t x).mem = s.mem := rfl
@[simp] theorem State.setTile_marks (s : State) (t : Nat) (x : Tile) : (s.setTile t x).marks = s.marks := rfl
@[simp] theorem State.setTile_rekeyed (s : State) (t : Nat) (x : Tile) : (s.setTile t x).rekeyed = s.rekeyed := rfl
@[simp] theorem State.setTile_fresh (s : State) (t : Nat) (x : Tile) : (s.setTile t x).fresh = s.fresh := rfl
@[simp] theorem State.setTile_nextId (s : State) (t : Nat) (x : Tile) : (s.setTile t x).nextId = s.nextId := rfl
@[simp] theorem State.setTile_blocks (s : State) (t : Nat) (x : Tile) : (s.setTile t x).blocks = s.blocks := rfl
@[simp] theorem State.setTile_quarters (s : State) (t : Nat) (x : Tile) : (s.setTile t x).quarters = s.quarters := rfl
@[simp] theorem State.setTile_reqs (s : State) (t : Nat) (x : Tile) : (s.setTile t x).reqs = s.reqs := rfl
@[simp] theorem State.setTile_attempts (s : State) (t : Nat) (x : Tile) : (s.setTile t x).attempts = s.attempts := rfl
@[simp] theorem State.setTile_watches (s : State) (t : Nat) (x : Tile) : (s.setTile t x).watches = s.watches := rfl
@[simp] theorem State.setTile_oplines (s : State) (t : Nat) (x : Tile) : (s.setTile t x).oplines = s.oplines := rfl
@[simp] theorem State.setTile_rpackets (s : State) (t : Nat) (x : Tile) : (s.setTile t x).rpackets = s.rpackets := rfl
@[simp] theorem State.setTile_returns (s : State) (t : Nat) (x : Tile) : (s.setTile t x).returns = s.returns := rfl
@[simp] theorem State.setTile_ports (s : State) (t : Nat) (x : Tile) : (s.setTile t x).ports = s.ports := rfl
@[simp] theorem State.setTile_edges (s : State) (t : Nat) (x : Tile) : (s.setTile t x).edges = s.edges := rfl
@[simp] theorem State.setTile_avenue (s : State) (t : Nat) (x : Tile) : (s.setTile t x).avenue = s.avenue := rfl
@[simp] theorem State.setTile_txs (s : State) (t : Nat) (x : Tile) : (s.setTile t x).txs = s.txs := rfl
@[simp] theorem State.setTile_nextTx (s : State) (t : Nat) (x : Tile) : (s.setTile t x).nextTx = s.nextTx := rfl
@[simp] theorem State.setTile_txWait (s : State) (t : Nat) (x : Tile) : (s.setTile t x).txWait = s.txWait := rfl
@[simp] theorem State.setTile_far (s : State) (t : Nat) (x : Tile) : (s.setTile t x).far = s.far := rfl
@[simp] theorem State.setTile_inbox (s : State) (t : Nat) (x : Tile) : (s.setTile t x).inbox = s.inbox := rfl
@[simp] theorem State.setTile_dist (s : State) (t : Nat) (x : Tile) : (s.setTile t x).dist = s.dist := rfl
@[simp] theorem State.setTile_hregs (s : State) (t : Nat) (x : Tile) : (s.setTile t x).hregs = s.hregs := rfl
@[simp] theorem State.setTile_host (s : State) (t : Nat) (x : Tile) : (s.setTile t x).host = s.host := rfl
@[simp] theorem State.setTile_parts (s : State) (t : Nat) (x : Tile) : (s.setTile t x).parts = s.parts := rfl
@[simp] theorem State.setTile_sec (s : State) (t : Nat) (x : Tile) : (s.setTile t x).sec = s.sec := rfl
@[simp] theorem State.setTile_sq (s : State) (t : Nat) (x : Tile) : (s.setTile t x).sq = s.sq := rfl
@[simp] theorem State.setTile_mon (s : State) (t : Nat) (x : Tile) : (s.setTile t x).mon = s.mon := rfl
@[simp] theorem State.setTile_module (s : State) (t : Nat) (x : Tile) : (s.setTile t x).module = s.module := rfl
@[simp] theorem State.setTile_pop (s : State) (t : Nat) (x : Tile) : (s.setTile t x).pop = s.pop := rfl
@[simp] theorem State.setTile_linkFails (s : State) (t : Nat) (x : Tile) : (s.setTile t x).linkFails = s.linkFails := rfl
@[simp] theorem State.setTile_out (s : State) (t : Nat) (x : Tile) : (s.setTile t x).out = s.out := rfl
@[simp] theorem State.setTile_block (s : State) (t : Nat) (x : Tile) (n : Nat) : (s.setTile t x).block n = s.block n := rfl
@[simp] theorem State.setTile_quarter (s : State) (t : Nat) (x : Tile) (n : Nat) : (s.setTile t x).quarter n = s.quarter n := rfl
@[simp] theorem State.setTile_edge (s : State) (t : Nat) (x : Tile) (n : Nat) : (s.setTile t x).edge n = s.edge n := rfl
@[simp] theorem State.setTile_port (s : State) (t : Nat) (x : Tile) (n : Nat) : (s.setTile t x).port n = s.port n := rfl
@[simp] theorem State.setTile_hreg (s : State) (t : Nat) (x : Tile) (n : Nat) : (s.setTile t x).hreg n = s.hreg n := rfl
@[simp] theorem State.setTile_byteAt (s : State) (t : Nat) (x : Tile) (n : Nat) : (s.setTile t x).byteAt n = s.byteAt n := rfl
@[simp] theorem State.modTile_pending (s : State) (t : Nat) (f : Tile → Tile) : (s.modTile t f).pending = s.pending := rfl
@[simp] theorem State.modTile_time (s : State) (t : Nat) (f : Tile → Tile) : (s.modTile t f).time = s.time := rfl
@[simp] theorem State.modTile_ticks (s : State) (t : Nat) (f : Tile → Tile) : (s.modTile t f).ticks = s.ticks := rfl
@[simp] theorem State.modTile_mem (s : State) (t : Nat) (f : Tile → Tile) : (s.modTile t f).mem = s.mem := rfl
@[simp] theorem State.modTile_marks (s : State) (t : Nat) (f : Tile → Tile) : (s.modTile t f).marks = s.marks := rfl
@[simp] theorem State.modTile_rekeyed (s : State) (t : Nat) (f : Tile → Tile) : (s.modTile t f).rekeyed = s.rekeyed := rfl
@[simp] theorem State.modTile_fresh (s : State) (t : Nat) (f : Tile → Tile) : (s.modTile t f).fresh = s.fresh := rfl
@[simp] theorem State.modTile_nextId (s : State) (t : Nat) (f : Tile → Tile) : (s.modTile t f).nextId = s.nextId := rfl
@[simp] theorem State.modTile_blocks (s : State) (t : Nat) (f : Tile → Tile) : (s.modTile t f).blocks = s.blocks := rfl
@[simp] theorem State.modTile_quarters (s : State) (t : Nat) (f : Tile → Tile) : (s.modTile t f).quarters = s.quarters := rfl
@[simp] theorem State.modTile_reqs (s : State) (t : Nat) (f : Tile → Tile) : (s.modTile t f).reqs = s.reqs := rfl
@[simp] theorem State.modTile_attempts (s : State) (t : Nat) (f : Tile → Tile) : (s.modTile t f).attempts = s.attempts := rfl
@[simp] theorem State.modTile_watches (s : State) (t : Nat) (f : Tile → Tile) : (s.modTile t f).watches = s.watches := rfl
@[simp] theorem State.modTile_oplines (s : State) (t : Nat) (f : Tile → Tile) : (s.modTile t f).oplines = s.oplines := rfl
@[simp] theorem State.modTile_rpackets (s : State) (t : Nat) (f : Tile → Tile) : (s.modTile t f).rpackets = s.rpackets := rfl
@[simp] theorem State.modTile_returns (s : State) (t : Nat) (f : Tile → Tile) : (s.modTile t f).returns = s.returns := rfl
@[simp] theorem State.modTile_ports (s : State) (t : Nat) (f : Tile → Tile) : (s.modTile t f).ports = s.ports := rfl
@[simp] theorem State.modTile_edges (s : State) (t : Nat) (f : Tile → Tile) : (s.modTile t f).edges = s.edges := rfl
@[simp] theorem State.modTile_avenue (s : State) (t : Nat) (f : Tile → Tile) : (s.modTile t f).avenue = s.avenue := rfl
@[simp] theorem State.modTile_txs (s : State) (t : Nat) (f : Tile → Tile) : (s.modTile t f).txs = s.txs := rfl
@[simp] theorem State.modTile_nextTx (s : State) (t : Nat) (f : Tile → Tile) : (s.modTile t f).nextTx = s.nextTx := rfl
@[simp] theorem State.modTile_txWait (s : State) (t : Nat) (f : Tile → Tile) : (s.modTile t f).txWait = s.txWait := rfl
@[simp] theorem State.modTile_far (s : State) (t : Nat) (f : Tile → Tile) : (s.modTile t f).far = s.far := rfl
@[simp] theorem State.modTile_inbox (s : State) (t : Nat) (f : Tile → Tile) : (s.modTile t f).inbox = s.inbox := rfl
@[simp] theorem State.modTile_dist (s : State) (t : Nat) (f : Tile → Tile) : (s.modTile t f).dist = s.dist := rfl
@[simp] theorem State.modTile_hregs (s : State) (t : Nat) (f : Tile → Tile) : (s.modTile t f).hregs = s.hregs := rfl
@[simp] theorem State.modTile_host (s : State) (t : Nat) (f : Tile → Tile) : (s.modTile t f).host = s.host := rfl
@[simp] theorem State.modTile_parts (s : State) (t : Nat) (f : Tile → Tile) : (s.modTile t f).parts = s.parts := rfl
@[simp] theorem State.modTile_sec (s : State) (t : Nat) (f : Tile → Tile) : (s.modTile t f).sec = s.sec := rfl
@[simp] theorem State.modTile_sq (s : State) (t : Nat) (f : Tile → Tile) : (s.modTile t f).sq = s.sq := rfl
@[simp] theorem State.modTile_mon (s : State) (t : Nat) (f : Tile → Tile) : (s.modTile t f).mon = s.mon := rfl
@[simp] theorem State.modTile_module (s : State) (t : Nat) (f : Tile → Tile) : (s.modTile t f).module = s.module := rfl
@[simp] theorem State.modTile_pop (s : State) (t : Nat) (f : Tile → Tile) : (s.modTile t f).pop = s.pop := rfl
@[simp] theorem State.modTile_linkFails (s : State) (t : Nat) (f : Tile → Tile) : (s.modTile t f).linkFails = s.linkFails := rfl
@[simp] theorem State.modTile_out (s : State) (t : Nat) (f : Tile → Tile) : (s.modTile t f).out = s.out := rfl
@[simp] theorem State.modTile_block (s : State) (t : Nat) (f : Tile → Tile) (n : Nat) : (s.modTile t f).block n = s.block n := rfl
@[simp] theorem State.modTile_quarter (s : State) (t : Nat) (f : Tile → Tile) (n : Nat) : (s.modTile t f).quarter n = s.quarter n := rfl
@[simp] theorem State.modTile_edge (s : State) (t : Nat) (f : Tile → Tile) (n : Nat) : (s.modTile t f).edge n = s.edge n := rfl
@[simp] theorem State.modTile_port (s : State) (t : Nat) (f : Tile → Tile) (n : Nat) : (s.modTile t f).port n = s.port n := rfl
@[simp] theorem State.modTile_hreg (s : State) (t : Nat) (f : Tile → Tile) (n : Nat) : (s.modTile t f).hreg n = s.hreg n := rfl
@[simp] theorem State.modTile_byteAt (s : State) (t : Nat) (f : Tile → Tile) (n : Nat) : (s.modTile t f).byteAt n = s.byteAt n := rfl
@[simp] theorem State.setBlock_pending (s : State) (k : Nat) (x : Block) : (s.setBlock k x).pending = s.pending := rfl
@[simp] theorem State.setBlock_time (s : State) (k : Nat) (x : Block) : (s.setBlock k x).time = s.time := rfl
@[simp] theorem State.setBlock_ticks (s : State) (k : Nat) (x : Block) : (s.setBlock k x).ticks = s.ticks := rfl
@[simp] theorem State.setBlock_mem (s : State) (k : Nat) (x : Block) : (s.setBlock k x).mem = s.mem := rfl
@[simp] theorem State.setBlock_marks (s : State) (k : Nat) (x : Block) : (s.setBlock k x).marks = s.marks := rfl
@[simp] theorem State.setBlock_rekeyed (s : State) (k : Nat) (x : Block) : (s.setBlock k x).rekeyed = s.rekeyed := rfl
@[simp] theorem State.setBlock_fresh (s : State) (k : Nat) (x : Block) : (s.setBlock k x).fresh = s.fresh := rfl
@[simp] theorem State.setBlock_nextId (s : State) (k : Nat) (x : Block) : (s.setBlock k x).nextId = s.nextId := rfl
@[simp] theorem State.setBlock_tiles (s : State) (k : Nat) (x : Block) : (s.setBlock k x).tiles = s.tiles := rfl
@[simp] theorem State.setBlock_quarters (s : State) (k : Nat) (x : Block) : (s.setBlock k x).quarters = s.quarters := rfl
@[simp] theorem State.setBlock_reqs (s : State) (k : Nat) (x : Block) : (s.setBlock k x).reqs = s.reqs := rfl
@[simp] theorem State.setBlock_attempts (s : State) (k : Nat) (x : Block) : (s.setBlock k x).attempts = s.attempts := rfl
@[simp] theorem State.setBlock_watches (s : State) (k : Nat) (x : Block) : (s.setBlock k x).watches = s.watches := rfl
@[simp] theorem State.setBlock_oplines (s : State) (k : Nat) (x : Block) : (s.setBlock k x).oplines = s.oplines := rfl
@[simp] theorem State.setBlock_rpackets (s : State) (k : Nat) (x : Block) : (s.setBlock k x).rpackets = s.rpackets := rfl
@[simp] theorem State.setBlock_returns (s : State) (k : Nat) (x : Block) : (s.setBlock k x).returns = s.returns := rfl
@[simp] theorem State.setBlock_ports (s : State) (k : Nat) (x : Block) : (s.setBlock k x).ports = s.ports := rfl
@[simp] theorem State.setBlock_edges (s : State) (k : Nat) (x : Block) : (s.setBlock k x).edges = s.edges := rfl
@[simp] theorem State.setBlock_avenue (s : State) (k : Nat) (x : Block) : (s.setBlock k x).avenue = s.avenue := rfl
@[simp] theorem State.setBlock_txs (s : State) (k : Nat) (x : Block) : (s.setBlock k x).txs = s.txs := rfl
@[simp] theorem State.setBlock_nextTx (s : State) (k : Nat) (x : Block) : (s.setBlock k x).nextTx = s.nextTx := rfl
@[simp] theorem State.setBlock_txWait (s : State) (k : Nat) (x : Block) : (s.setBlock k x).txWait = s.txWait := rfl
@[simp] theorem State.setBlock_far (s : State) (k : Nat) (x : Block) : (s.setBlock k x).far = s.far := rfl
@[simp] theorem State.setBlock_inbox (s : State) (k : Nat) (x : Block) : (s.setBlock k x).inbox = s.inbox := rfl
@[simp] theorem State.setBlock_dist (s : State) (k : Nat) (x : Block) : (s.setBlock k x).dist = s.dist := rfl
@[simp] theorem State.setBlock_hregs (s : State) (k : Nat) (x : Block) : (s.setBlock k x).hregs = s.hregs := rfl
@[simp] theorem State.setBlock_host (s : State) (k : Nat) (x : Block) : (s.setBlock k x).host = s.host := rfl
@[simp] theorem State.setBlock_parts (s : State) (k : Nat) (x : Block) : (s.setBlock k x).parts = s.parts := rfl
@[simp] theorem State.setBlock_sec (s : State) (k : Nat) (x : Block) : (s.setBlock k x).sec = s.sec := rfl
@[simp] theorem State.setBlock_sq (s : State) (k : Nat) (x : Block) : (s.setBlock k x).sq = s.sq := rfl
@[simp] theorem State.setBlock_mon (s : State) (k : Nat) (x : Block) : (s.setBlock k x).mon = s.mon := rfl
@[simp] theorem State.setBlock_module (s : State) (k : Nat) (x : Block) : (s.setBlock k x).module = s.module := rfl
@[simp] theorem State.setBlock_pop (s : State) (k : Nat) (x : Block) : (s.setBlock k x).pop = s.pop := rfl
@[simp] theorem State.setBlock_linkFails (s : State) (k : Nat) (x : Block) : (s.setBlock k x).linkFails = s.linkFails := rfl
@[simp] theorem State.setBlock_out (s : State) (k : Nat) (x : Block) : (s.setBlock k x).out = s.out := rfl
@[simp] theorem State.setBlock_tile (s : State) (k : Nat) (x : Block) (n : Nat) : (s.setBlock k x).tile n = s.tile n := rfl
@[simp] theorem State.setBlock_quarter (s : State) (k : Nat) (x : Block) (n : Nat) : (s.setBlock k x).quarter n = s.quarter n := rfl
@[simp] theorem State.setBlock_edge (s : State) (k : Nat) (x : Block) (n : Nat) : (s.setBlock k x).edge n = s.edge n := rfl
@[simp] theorem State.setBlock_port (s : State) (k : Nat) (x : Block) (n : Nat) : (s.setBlock k x).port n = s.port n := rfl
@[simp] theorem State.setBlock_hreg (s : State) (k : Nat) (x : Block) (n : Nat) : (s.setBlock k x).hreg n = s.hreg n := rfl
@[simp] theorem State.setBlock_byteAt (s : State) (k : Nat) (x : Block) (n : Nat) : (s.setBlock k x).byteAt n = s.byteAt n := rfl
@[simp] theorem State.modBlock_pending (s : State) (k : Nat) (f : Block → Block) : (s.modBlock k f).pending = s.pending := rfl
@[simp] theorem State.modBlock_time (s : State) (k : Nat) (f : Block → Block) : (s.modBlock k f).time = s.time := rfl
@[simp] theorem State.modBlock_ticks (s : State) (k : Nat) (f : Block → Block) : (s.modBlock k f).ticks = s.ticks := rfl
@[simp] theorem State.modBlock_mem (s : State) (k : Nat) (f : Block → Block) : (s.modBlock k f).mem = s.mem := rfl
@[simp] theorem State.modBlock_marks (s : State) (k : Nat) (f : Block → Block) : (s.modBlock k f).marks = s.marks := rfl
@[simp] theorem State.modBlock_rekeyed (s : State) (k : Nat) (f : Block → Block) : (s.modBlock k f).rekeyed = s.rekeyed := rfl
@[simp] theorem State.modBlock_fresh (s : State) (k : Nat) (f : Block → Block) : (s.modBlock k f).fresh = s.fresh := rfl
@[simp] theorem State.modBlock_nextId (s : State) (k : Nat) (f : Block → Block) : (s.modBlock k f).nextId = s.nextId := rfl
@[simp] theorem State.modBlock_tiles (s : State) (k : Nat) (f : Block → Block) : (s.modBlock k f).tiles = s.tiles := rfl
@[simp] theorem State.modBlock_quarters (s : State) (k : Nat) (f : Block → Block) : (s.modBlock k f).quarters = s.quarters := rfl
@[simp] theorem State.modBlock_reqs (s : State) (k : Nat) (f : Block → Block) : (s.modBlock k f).reqs = s.reqs := rfl
@[simp] theorem State.modBlock_attempts (s : State) (k : Nat) (f : Block → Block) : (s.modBlock k f).attempts = s.attempts := rfl
@[simp] theorem State.modBlock_watches (s : State) (k : Nat) (f : Block → Block) : (s.modBlock k f).watches = s.watches := rfl
@[simp] theorem State.modBlock_oplines (s : State) (k : Nat) (f : Block → Block) : (s.modBlock k f).oplines = s.oplines := rfl
@[simp] theorem State.modBlock_rpackets (s : State) (k : Nat) (f : Block → Block) : (s.modBlock k f).rpackets = s.rpackets := rfl
@[simp] theorem State.modBlock_returns (s : State) (k : Nat) (f : Block → Block) : (s.modBlock k f).returns = s.returns := rfl
@[simp] theorem State.modBlock_ports (s : State) (k : Nat) (f : Block → Block) : (s.modBlock k f).ports = s.ports := rfl
@[simp] theorem State.modBlock_edges (s : State) (k : Nat) (f : Block → Block) : (s.modBlock k f).edges = s.edges := rfl
@[simp] theorem State.modBlock_avenue (s : State) (k : Nat) (f : Block → Block) : (s.modBlock k f).avenue = s.avenue := rfl
@[simp] theorem State.modBlock_txs (s : State) (k : Nat) (f : Block → Block) : (s.modBlock k f).txs = s.txs := rfl
@[simp] theorem State.modBlock_nextTx (s : State) (k : Nat) (f : Block → Block) : (s.modBlock k f).nextTx = s.nextTx := rfl
@[simp] theorem State.modBlock_txWait (s : State) (k : Nat) (f : Block → Block) : (s.modBlock k f).txWait = s.txWait := rfl
@[simp] theorem State.modBlock_far (s : State) (k : Nat) (f : Block → Block) : (s.modBlock k f).far = s.far := rfl
@[simp] theorem State.modBlock_inbox (s : State) (k : Nat) (f : Block → Block) : (s.modBlock k f).inbox = s.inbox := rfl
@[simp] theorem State.modBlock_dist (s : State) (k : Nat) (f : Block → Block) : (s.modBlock k f).dist = s.dist := rfl
@[simp] theorem State.modBlock_hregs (s : State) (k : Nat) (f : Block → Block) : (s.modBlock k f).hregs = s.hregs := rfl
@[simp] theorem State.modBlock_host (s : State) (k : Nat) (f : Block → Block) : (s.modBlock k f).host = s.host := rfl
@[simp] theorem State.modBlock_parts (s : State) (k : Nat) (f : Block → Block) : (s.modBlock k f).parts = s.parts := rfl
@[simp] theorem State.modBlock_sec (s : State) (k : Nat) (f : Block → Block) : (s.modBlock k f).sec = s.sec := rfl
@[simp] theorem State.modBlock_sq (s : State) (k : Nat) (f : Block → Block) : (s.modBlock k f).sq = s.sq := rfl
@[simp] theorem State.modBlock_mon (s : State) (k : Nat) (f : Block → Block) : (s.modBlock k f).mon = s.mon := rfl
@[simp] theorem State.modBlock_module (s : State) (k : Nat) (f : Block → Block) : (s.modBlock k f).module = s.module := rfl
@[simp] theorem State.modBlock_pop (s : State) (k : Nat) (f : Block → Block) : (s.modBlock k f).pop = s.pop := rfl
@[simp] theorem State.modBlock_linkFails (s : State) (k : Nat) (f : Block → Block) : (s.modBlock k f).linkFails = s.linkFails := rfl
@[simp] theorem State.modBlock_out (s : State) (k : Nat) (f : Block → Block) : (s.modBlock k f).out = s.out := rfl
@[simp] theorem State.modBlock_tile (s : State) (k : Nat) (f : Block → Block) (n : Nat) : (s.modBlock k f).tile n = s.tile n := rfl
@[simp] theorem State.modBlock_quarter (s : State) (k : Nat) (f : Block → Block) (n : Nat) : (s.modBlock k f).quarter n = s.quarter n := rfl
@[simp] theorem State.modBlock_edge (s : State) (k : Nat) (f : Block → Block) (n : Nat) : (s.modBlock k f).edge n = s.edge n := rfl
@[simp] theorem State.modBlock_port (s : State) (k : Nat) (f : Block → Block) (n : Nat) : (s.modBlock k f).port n = s.port n := rfl
@[simp] theorem State.modBlock_hreg (s : State) (k : Nat) (f : Block → Block) (n : Nat) : (s.modBlock k f).hreg n = s.hreg n := rfl
@[simp] theorem State.modBlock_byteAt (s : State) (k : Nat) (f : Block → Block) (n : Nat) : (s.modBlock k f).byteAt n = s.byteAt n := rfl
@[simp] theorem State.setQuarter_pending (s : State) (q : Nat) (x : Quarter) : (s.setQuarter q x).pending = s.pending := rfl
@[simp] theorem State.setQuarter_time (s : State) (q : Nat) (x : Quarter) : (s.setQuarter q x).time = s.time := rfl
@[simp] theorem State.setQuarter_ticks (s : State) (q : Nat) (x : Quarter) : (s.setQuarter q x).ticks = s.ticks := rfl
@[simp] theorem State.setQuarter_mem (s : State) (q : Nat) (x : Quarter) : (s.setQuarter q x).mem = s.mem := rfl
@[simp] theorem State.setQuarter_marks (s : State) (q : Nat) (x : Quarter) : (s.setQuarter q x).marks = s.marks := rfl
@[simp] theorem State.setQuarter_rekeyed (s : State) (q : Nat) (x : Quarter) : (s.setQuarter q x).rekeyed = s.rekeyed := rfl
@[simp] theorem State.setQuarter_fresh (s : State) (q : Nat) (x : Quarter) : (s.setQuarter q x).fresh = s.fresh := rfl
@[simp] theorem State.setQuarter_nextId (s : State) (q : Nat) (x : Quarter) : (s.setQuarter q x).nextId = s.nextId := rfl
@[simp] theorem State.setQuarter_tiles (s : State) (q : Nat) (x : Quarter) : (s.setQuarter q x).tiles = s.tiles := rfl
@[simp] theorem State.setQuarter_blocks (s : State) (q : Nat) (x : Quarter) : (s.setQuarter q x).blocks = s.blocks := rfl
@[simp] theorem State.setQuarter_reqs (s : State) (q : Nat) (x : Quarter) : (s.setQuarter q x).reqs = s.reqs := rfl
@[simp] theorem State.setQuarter_attempts (s : State) (q : Nat) (x : Quarter) : (s.setQuarter q x).attempts = s.attempts := rfl
@[simp] theorem State.setQuarter_watches (s : State) (q : Nat) (x : Quarter) : (s.setQuarter q x).watches = s.watches := rfl
@[simp] theorem State.setQuarter_oplines (s : State) (q : Nat) (x : Quarter) : (s.setQuarter q x).oplines = s.oplines := rfl
@[simp] theorem State.setQuarter_rpackets (s : State) (q : Nat) (x : Quarter) : (s.setQuarter q x).rpackets = s.rpackets := rfl
@[simp] theorem State.setQuarter_returns (s : State) (q : Nat) (x : Quarter) : (s.setQuarter q x).returns = s.returns := rfl
@[simp] theorem State.setQuarter_ports (s : State) (q : Nat) (x : Quarter) : (s.setQuarter q x).ports = s.ports := rfl
@[simp] theorem State.setQuarter_edges (s : State) (q : Nat) (x : Quarter) : (s.setQuarter q x).edges = s.edges := rfl
@[simp] theorem State.setQuarter_avenue (s : State) (q : Nat) (x : Quarter) : (s.setQuarter q x).avenue = s.avenue := rfl
@[simp] theorem State.setQuarter_txs (s : State) (q : Nat) (x : Quarter) : (s.setQuarter q x).txs = s.txs := rfl
@[simp] theorem State.setQuarter_nextTx (s : State) (q : Nat) (x : Quarter) : (s.setQuarter q x).nextTx = s.nextTx := rfl
@[simp] theorem State.setQuarter_txWait (s : State) (q : Nat) (x : Quarter) : (s.setQuarter q x).txWait = s.txWait := rfl
@[simp] theorem State.setQuarter_far (s : State) (q : Nat) (x : Quarter) : (s.setQuarter q x).far = s.far := rfl
@[simp] theorem State.setQuarter_inbox (s : State) (q : Nat) (x : Quarter) : (s.setQuarter q x).inbox = s.inbox := rfl
@[simp] theorem State.setQuarter_dist (s : State) (q : Nat) (x : Quarter) : (s.setQuarter q x).dist = s.dist := rfl
@[simp] theorem State.setQuarter_hregs (s : State) (q : Nat) (x : Quarter) : (s.setQuarter q x).hregs = s.hregs := rfl
@[simp] theorem State.setQuarter_host (s : State) (q : Nat) (x : Quarter) : (s.setQuarter q x).host = s.host := rfl
@[simp] theorem State.setQuarter_parts (s : State) (q : Nat) (x : Quarter) : (s.setQuarter q x).parts = s.parts := rfl
@[simp] theorem State.setQuarter_sec (s : State) (q : Nat) (x : Quarter) : (s.setQuarter q x).sec = s.sec := rfl
@[simp] theorem State.setQuarter_sq (s : State) (q : Nat) (x : Quarter) : (s.setQuarter q x).sq = s.sq := rfl
@[simp] theorem State.setQuarter_mon (s : State) (q : Nat) (x : Quarter) : (s.setQuarter q x).mon = s.mon := rfl
@[simp] theorem State.setQuarter_module (s : State) (q : Nat) (x : Quarter) : (s.setQuarter q x).module = s.module := rfl
@[simp] theorem State.setQuarter_pop (s : State) (q : Nat) (x : Quarter) : (s.setQuarter q x).pop = s.pop := rfl
@[simp] theorem State.setQuarter_linkFails (s : State) (q : Nat) (x : Quarter) : (s.setQuarter q x).linkFails = s.linkFails := rfl
@[simp] theorem State.setQuarter_out (s : State) (q : Nat) (x : Quarter) : (s.setQuarter q x).out = s.out := rfl
@[simp] theorem State.setQuarter_tile (s : State) (q : Nat) (x : Quarter) (n : Nat) : (s.setQuarter q x).tile n = s.tile n := rfl
@[simp] theorem State.setQuarter_block (s : State) (q : Nat) (x : Quarter) (n : Nat) : (s.setQuarter q x).block n = s.block n := rfl
@[simp] theorem State.setQuarter_edge (s : State) (q : Nat) (x : Quarter) (n : Nat) : (s.setQuarter q x).edge n = s.edge n := rfl
@[simp] theorem State.setQuarter_port (s : State) (q : Nat) (x : Quarter) (n : Nat) : (s.setQuarter q x).port n = s.port n := rfl
@[simp] theorem State.setQuarter_hreg (s : State) (q : Nat) (x : Quarter) (n : Nat) : (s.setQuarter q x).hreg n = s.hreg n := rfl
@[simp] theorem State.setQuarter_byteAt (s : State) (q : Nat) (x : Quarter) (n : Nat) : (s.setQuarter q x).byteAt n = s.byteAt n := rfl
@[simp] theorem State.modQuarter_pending (s : State) (q : Nat) (f : Quarter → Quarter) : (s.modQuarter q f).pending = s.pending := rfl
@[simp] theorem State.modQuarter_time (s : State) (q : Nat) (f : Quarter → Quarter) : (s.modQuarter q f).time = s.time := rfl
@[simp] theorem State.modQuarter_ticks (s : State) (q : Nat) (f : Quarter → Quarter) : (s.modQuarter q f).ticks = s.ticks := rfl
@[simp] theorem State.modQuarter_mem (s : State) (q : Nat) (f : Quarter → Quarter) : (s.modQuarter q f).mem = s.mem := rfl
@[simp] theorem State.modQuarter_marks (s : State) (q : Nat) (f : Quarter → Quarter) : (s.modQuarter q f).marks = s.marks := rfl
@[simp] theorem State.modQuarter_rekeyed (s : State) (q : Nat) (f : Quarter → Quarter) : (s.modQuarter q f).rekeyed = s.rekeyed := rfl
@[simp] theorem State.modQuarter_fresh (s : State) (q : Nat) (f : Quarter → Quarter) : (s.modQuarter q f).fresh = s.fresh := rfl
@[simp] theorem State.modQuarter_nextId (s : State) (q : Nat) (f : Quarter → Quarter) : (s.modQuarter q f).nextId = s.nextId := rfl
@[simp] theorem State.modQuarter_tiles (s : State) (q : Nat) (f : Quarter → Quarter) : (s.modQuarter q f).tiles = s.tiles := rfl
@[simp] theorem State.modQuarter_blocks (s : State) (q : Nat) (f : Quarter → Quarter) : (s.modQuarter q f).blocks = s.blocks := rfl
@[simp] theorem State.modQuarter_reqs (s : State) (q : Nat) (f : Quarter → Quarter) : (s.modQuarter q f).reqs = s.reqs := rfl
@[simp] theorem State.modQuarter_attempts (s : State) (q : Nat) (f : Quarter → Quarter) : (s.modQuarter q f).attempts = s.attempts := rfl
@[simp] theorem State.modQuarter_watches (s : State) (q : Nat) (f : Quarter → Quarter) : (s.modQuarter q f).watches = s.watches := rfl
@[simp] theorem State.modQuarter_oplines (s : State) (q : Nat) (f : Quarter → Quarter) : (s.modQuarter q f).oplines = s.oplines := rfl
@[simp] theorem State.modQuarter_rpackets (s : State) (q : Nat) (f : Quarter → Quarter) : (s.modQuarter q f).rpackets = s.rpackets := rfl
@[simp] theorem State.modQuarter_returns (s : State) (q : Nat) (f : Quarter → Quarter) : (s.modQuarter q f).returns = s.returns := rfl
@[simp] theorem State.modQuarter_ports (s : State) (q : Nat) (f : Quarter → Quarter) : (s.modQuarter q f).ports = s.ports := rfl
@[simp] theorem State.modQuarter_edges (s : State) (q : Nat) (f : Quarter → Quarter) : (s.modQuarter q f).edges = s.edges := rfl
@[simp] theorem State.modQuarter_avenue (s : State) (q : Nat) (f : Quarter → Quarter) : (s.modQuarter q f).avenue = s.avenue := rfl
@[simp] theorem State.modQuarter_txs (s : State) (q : Nat) (f : Quarter → Quarter) : (s.modQuarter q f).txs = s.txs := rfl
@[simp] theorem State.modQuarter_nextTx (s : State) (q : Nat) (f : Quarter → Quarter) : (s.modQuarter q f).nextTx = s.nextTx := rfl
@[simp] theorem State.modQuarter_txWait (s : State) (q : Nat) (f : Quarter → Quarter) : (s.modQuarter q f).txWait = s.txWait := rfl
@[simp] theorem State.modQuarter_far (s : State) (q : Nat) (f : Quarter → Quarter) : (s.modQuarter q f).far = s.far := rfl
@[simp] theorem State.modQuarter_inbox (s : State) (q : Nat) (f : Quarter → Quarter) : (s.modQuarter q f).inbox = s.inbox := rfl
@[simp] theorem State.modQuarter_dist (s : State) (q : Nat) (f : Quarter → Quarter) : (s.modQuarter q f).dist = s.dist := rfl
@[simp] theorem State.modQuarter_hregs (s : State) (q : Nat) (f : Quarter → Quarter) : (s.modQuarter q f).hregs = s.hregs := rfl
@[simp] theorem State.modQuarter_host (s : State) (q : Nat) (f : Quarter → Quarter) : (s.modQuarter q f).host = s.host := rfl
@[simp] theorem State.modQuarter_parts (s : State) (q : Nat) (f : Quarter → Quarter) : (s.modQuarter q f).parts = s.parts := rfl
@[simp] theorem State.modQuarter_sec (s : State) (q : Nat) (f : Quarter → Quarter) : (s.modQuarter q f).sec = s.sec := rfl
@[simp] theorem State.modQuarter_sq (s : State) (q : Nat) (f : Quarter → Quarter) : (s.modQuarter q f).sq = s.sq := rfl
@[simp] theorem State.modQuarter_mon (s : State) (q : Nat) (f : Quarter → Quarter) : (s.modQuarter q f).mon = s.mon := rfl
@[simp] theorem State.modQuarter_module (s : State) (q : Nat) (f : Quarter → Quarter) : (s.modQuarter q f).module = s.module := rfl
@[simp] theorem State.modQuarter_pop (s : State) (q : Nat) (f : Quarter → Quarter) : (s.modQuarter q f).pop = s.pop := rfl
@[simp] theorem State.modQuarter_linkFails (s : State) (q : Nat) (f : Quarter → Quarter) : (s.modQuarter q f).linkFails = s.linkFails := rfl
@[simp] theorem State.modQuarter_out (s : State) (q : Nat) (f : Quarter → Quarter) : (s.modQuarter q f).out = s.out := rfl
@[simp] theorem State.modQuarter_tile (s : State) (q : Nat) (f : Quarter → Quarter) (n : Nat) : (s.modQuarter q f).tile n = s.tile n := rfl
@[simp] theorem State.modQuarter_block (s : State) (q : Nat) (f : Quarter → Quarter) (n : Nat) : (s.modQuarter q f).block n = s.block n := rfl
@[simp] theorem State.modQuarter_edge (s : State) (q : Nat) (f : Quarter → Quarter) (n : Nat) : (s.modQuarter q f).edge n = s.edge n := rfl
@[simp] theorem State.modQuarter_port (s : State) (q : Nat) (f : Quarter → Quarter) (n : Nat) : (s.modQuarter q f).port n = s.port n := rfl
@[simp] theorem State.modQuarter_hreg (s : State) (q : Nat) (f : Quarter → Quarter) (n : Nat) : (s.modQuarter q f).hreg n = s.hreg n := rfl
@[simp] theorem State.modQuarter_byteAt (s : State) (q : Nat) (f : Quarter → Quarter) (n : Nat) : (s.modQuarter q f).byteAt n = s.byteAt n := rfl
@[simp] theorem State.setEdge_pending (s : State) (e : Nat) (x : Edge) : (s.setEdge e x).pending = s.pending := rfl
@[simp] theorem State.setEdge_time (s : State) (e : Nat) (x : Edge) : (s.setEdge e x).time = s.time := rfl
@[simp] theorem State.setEdge_ticks (s : State) (e : Nat) (x : Edge) : (s.setEdge e x).ticks = s.ticks := rfl
@[simp] theorem State.setEdge_mem (s : State) (e : Nat) (x : Edge) : (s.setEdge e x).mem = s.mem := rfl
@[simp] theorem State.setEdge_marks (s : State) (e : Nat) (x : Edge) : (s.setEdge e x).marks = s.marks := rfl
@[simp] theorem State.setEdge_rekeyed (s : State) (e : Nat) (x : Edge) : (s.setEdge e x).rekeyed = s.rekeyed := rfl
@[simp] theorem State.setEdge_fresh (s : State) (e : Nat) (x : Edge) : (s.setEdge e x).fresh = s.fresh := rfl
@[simp] theorem State.setEdge_nextId (s : State) (e : Nat) (x : Edge) : (s.setEdge e x).nextId = s.nextId := rfl
@[simp] theorem State.setEdge_tiles (s : State) (e : Nat) (x : Edge) : (s.setEdge e x).tiles = s.tiles := rfl
@[simp] theorem State.setEdge_blocks (s : State) (e : Nat) (x : Edge) : (s.setEdge e x).blocks = s.blocks := rfl
@[simp] theorem State.setEdge_quarters (s : State) (e : Nat) (x : Edge) : (s.setEdge e x).quarters = s.quarters := rfl
@[simp] theorem State.setEdge_reqs (s : State) (e : Nat) (x : Edge) : (s.setEdge e x).reqs = s.reqs := rfl
@[simp] theorem State.setEdge_attempts (s : State) (e : Nat) (x : Edge) : (s.setEdge e x).attempts = s.attempts := rfl
@[simp] theorem State.setEdge_watches (s : State) (e : Nat) (x : Edge) : (s.setEdge e x).watches = s.watches := rfl
@[simp] theorem State.setEdge_oplines (s : State) (e : Nat) (x : Edge) : (s.setEdge e x).oplines = s.oplines := rfl
@[simp] theorem State.setEdge_rpackets (s : State) (e : Nat) (x : Edge) : (s.setEdge e x).rpackets = s.rpackets := rfl
@[simp] theorem State.setEdge_returns (s : State) (e : Nat) (x : Edge) : (s.setEdge e x).returns = s.returns := rfl
@[simp] theorem State.setEdge_ports (s : State) (e : Nat) (x : Edge) : (s.setEdge e x).ports = s.ports := rfl
@[simp] theorem State.setEdge_avenue (s : State) (e : Nat) (x : Edge) : (s.setEdge e x).avenue = s.avenue := rfl
@[simp] theorem State.setEdge_txs (s : State) (e : Nat) (x : Edge) : (s.setEdge e x).txs = s.txs := rfl
@[simp] theorem State.setEdge_nextTx (s : State) (e : Nat) (x : Edge) : (s.setEdge e x).nextTx = s.nextTx := rfl
@[simp] theorem State.setEdge_txWait (s : State) (e : Nat) (x : Edge) : (s.setEdge e x).txWait = s.txWait := rfl
@[simp] theorem State.setEdge_far (s : State) (e : Nat) (x : Edge) : (s.setEdge e x).far = s.far := rfl
@[simp] theorem State.setEdge_inbox (s : State) (e : Nat) (x : Edge) : (s.setEdge e x).inbox = s.inbox := rfl
@[simp] theorem State.setEdge_dist (s : State) (e : Nat) (x : Edge) : (s.setEdge e x).dist = s.dist := rfl
@[simp] theorem State.setEdge_hregs (s : State) (e : Nat) (x : Edge) : (s.setEdge e x).hregs = s.hregs := rfl
@[simp] theorem State.setEdge_host (s : State) (e : Nat) (x : Edge) : (s.setEdge e x).host = s.host := rfl
@[simp] theorem State.setEdge_parts (s : State) (e : Nat) (x : Edge) : (s.setEdge e x).parts = s.parts := rfl
@[simp] theorem State.setEdge_sec (s : State) (e : Nat) (x : Edge) : (s.setEdge e x).sec = s.sec := rfl
@[simp] theorem State.setEdge_sq (s : State) (e : Nat) (x : Edge) : (s.setEdge e x).sq = s.sq := rfl
@[simp] theorem State.setEdge_mon (s : State) (e : Nat) (x : Edge) : (s.setEdge e x).mon = s.mon := rfl
@[simp] theorem State.setEdge_module (s : State) (e : Nat) (x : Edge) : (s.setEdge e x).module = s.module := rfl
@[simp] theorem State.setEdge_pop (s : State) (e : Nat) (x : Edge) : (s.setEdge e x).pop = s.pop := rfl
@[simp] theorem State.setEdge_linkFails (s : State) (e : Nat) (x : Edge) : (s.setEdge e x).linkFails = s.linkFails := rfl
@[simp] theorem State.setEdge_out (s : State) (e : Nat) (x : Edge) : (s.setEdge e x).out = s.out := rfl
@[simp] theorem State.setEdge_tile (s : State) (e : Nat) (x : Edge) (n : Nat) : (s.setEdge e x).tile n = s.tile n := rfl
@[simp] theorem State.setEdge_block (s : State) (e : Nat) (x : Edge) (n : Nat) : (s.setEdge e x).block n = s.block n := rfl
@[simp] theorem State.setEdge_quarter (s : State) (e : Nat) (x : Edge) (n : Nat) : (s.setEdge e x).quarter n = s.quarter n := rfl
@[simp] theorem State.setEdge_port (s : State) (e : Nat) (x : Edge) (n : Nat) : (s.setEdge e x).port n = s.port n := rfl
@[simp] theorem State.setEdge_hreg (s : State) (e : Nat) (x : Edge) (n : Nat) : (s.setEdge e x).hreg n = s.hreg n := rfl
@[simp] theorem State.setEdge_byteAt (s : State) (e : Nat) (x : Edge) (n : Nat) : (s.setEdge e x).byteAt n = s.byteAt n := rfl
@[simp] theorem State.modEdge_pending (s : State) (e : Nat) (f : Edge → Edge) : (s.modEdge e f).pending = s.pending := rfl
@[simp] theorem State.modEdge_time (s : State) (e : Nat) (f : Edge → Edge) : (s.modEdge e f).time = s.time := rfl
@[simp] theorem State.modEdge_ticks (s : State) (e : Nat) (f : Edge → Edge) : (s.modEdge e f).ticks = s.ticks := rfl
@[simp] theorem State.modEdge_mem (s : State) (e : Nat) (f : Edge → Edge) : (s.modEdge e f).mem = s.mem := rfl
@[simp] theorem State.modEdge_marks (s : State) (e : Nat) (f : Edge → Edge) : (s.modEdge e f).marks = s.marks := rfl
@[simp] theorem State.modEdge_rekeyed (s : State) (e : Nat) (f : Edge → Edge) : (s.modEdge e f).rekeyed = s.rekeyed := rfl
@[simp] theorem State.modEdge_fresh (s : State) (e : Nat) (f : Edge → Edge) : (s.modEdge e f).fresh = s.fresh := rfl
@[simp] theorem State.modEdge_nextId (s : State) (e : Nat) (f : Edge → Edge) : (s.modEdge e f).nextId = s.nextId := rfl
@[simp] theorem State.modEdge_tiles (s : State) (e : Nat) (f : Edge → Edge) : (s.modEdge e f).tiles = s.tiles := rfl
@[simp] theorem State.modEdge_blocks (s : State) (e : Nat) (f : Edge → Edge) : (s.modEdge e f).blocks = s.blocks := rfl
@[simp] theorem State.modEdge_quarters (s : State) (e : Nat) (f : Edge → Edge) : (s.modEdge e f).quarters = s.quarters := rfl
@[simp] theorem State.modEdge_reqs (s : State) (e : Nat) (f : Edge → Edge) : (s.modEdge e f).reqs = s.reqs := rfl
@[simp] theorem State.modEdge_attempts (s : State) (e : Nat) (f : Edge → Edge) : (s.modEdge e f).attempts = s.attempts := rfl
@[simp] theorem State.modEdge_watches (s : State) (e : Nat) (f : Edge → Edge) : (s.modEdge e f).watches = s.watches := rfl
@[simp] theorem State.modEdge_oplines (s : State) (e : Nat) (f : Edge → Edge) : (s.modEdge e f).oplines = s.oplines := rfl
@[simp] theorem State.modEdge_rpackets (s : State) (e : Nat) (f : Edge → Edge) : (s.modEdge e f).rpackets = s.rpackets := rfl
@[simp] theorem State.modEdge_returns (s : State) (e : Nat) (f : Edge → Edge) : (s.modEdge e f).returns = s.returns := rfl
@[simp] theorem State.modEdge_ports (s : State) (e : Nat) (f : Edge → Edge) : (s.modEdge e f).ports = s.ports := rfl
@[simp] theorem State.modEdge_avenue (s : State) (e : Nat) (f : Edge → Edge) : (s.modEdge e f).avenue = s.avenue := rfl
@[simp] theorem State.modEdge_txs (s : State) (e : Nat) (f : Edge → Edge) : (s.modEdge e f).txs = s.txs := rfl
@[simp] theorem State.modEdge_nextTx (s : State) (e : Nat) (f : Edge → Edge) : (s.modEdge e f).nextTx = s.nextTx := rfl
@[simp] theorem State.modEdge_txWait (s : State) (e : Nat) (f : Edge → Edge) : (s.modEdge e f).txWait = s.txWait := rfl
@[simp] theorem State.modEdge_far (s : State) (e : Nat) (f : Edge → Edge) : (s.modEdge e f).far = s.far := rfl
@[simp] theorem State.modEdge_inbox (s : State) (e : Nat) (f : Edge → Edge) : (s.modEdge e f).inbox = s.inbox := rfl
@[simp] theorem State.modEdge_dist (s : State) (e : Nat) (f : Edge → Edge) : (s.modEdge e f).dist = s.dist := rfl
@[simp] theorem State.modEdge_hregs (s : State) (e : Nat) (f : Edge → Edge) : (s.modEdge e f).hregs = s.hregs := rfl
@[simp] theorem State.modEdge_host (s : State) (e : Nat) (f : Edge → Edge) : (s.modEdge e f).host = s.host := rfl
@[simp] theorem State.modEdge_parts (s : State) (e : Nat) (f : Edge → Edge) : (s.modEdge e f).parts = s.parts := rfl
@[simp] theorem State.modEdge_sec (s : State) (e : Nat) (f : Edge → Edge) : (s.modEdge e f).sec = s.sec := rfl
@[simp] theorem State.modEdge_sq (s : State) (e : Nat) (f : Edge → Edge) : (s.modEdge e f).sq = s.sq := rfl
@[simp] theorem State.modEdge_mon (s : State) (e : Nat) (f : Edge → Edge) : (s.modEdge e f).mon = s.mon := rfl
@[simp] theorem State.modEdge_module (s : State) (e : Nat) (f : Edge → Edge) : (s.modEdge e f).module = s.module := rfl
@[simp] theorem State.modEdge_pop (s : State) (e : Nat) (f : Edge → Edge) : (s.modEdge e f).pop = s.pop := rfl
@[simp] theorem State.modEdge_linkFails (s : State) (e : Nat) (f : Edge → Edge) : (s.modEdge e f).linkFails = s.linkFails := rfl
@[simp] theorem State.modEdge_out (s : State) (e : Nat) (f : Edge → Edge) : (s.modEdge e f).out = s.out := rfl
@[simp] theorem State.modEdge_tile (s : State) (e : Nat) (f : Edge → Edge) (n : Nat) : (s.modEdge e f).tile n = s.tile n := rfl
@[simp] theorem State.modEdge_block (s : State) (e : Nat) (f : Edge → Edge) (n : Nat) : (s.modEdge e f).block n = s.block n := rfl
@[simp] theorem State.modEdge_quarter (s : State) (e : Nat) (f : Edge → Edge) (n : Nat) : (s.modEdge e f).quarter n = s.quarter n := rfl
@[simp] theorem State.modEdge_port (s : State) (e : Nat) (f : Edge → Edge) (n : Nat) : (s.modEdge e f).port n = s.port n := rfl
@[simp] theorem State.modEdge_hreg (s : State) (e : Nat) (f : Edge → Edge) (n : Nat) : (s.modEdge e f).hreg n = s.hreg n := rfl
@[simp] theorem State.modEdge_byteAt (s : State) (e : Nat) (f : Edge → Edge) (n : Nat) : (s.modEdge e f).byteAt n = s.byteAt n := rfl
@[simp] theorem State.setPort_pending (s : State) (p : Nat) (x : Port) : (s.setPort p x).pending = s.pending := rfl
@[simp] theorem State.setPort_time (s : State) (p : Nat) (x : Port) : (s.setPort p x).time = s.time := rfl
@[simp] theorem State.setPort_ticks (s : State) (p : Nat) (x : Port) : (s.setPort p x).ticks = s.ticks := rfl
@[simp] theorem State.setPort_mem (s : State) (p : Nat) (x : Port) : (s.setPort p x).mem = s.mem := rfl
@[simp] theorem State.setPort_marks (s : State) (p : Nat) (x : Port) : (s.setPort p x).marks = s.marks := rfl
@[simp] theorem State.setPort_rekeyed (s : State) (p : Nat) (x : Port) : (s.setPort p x).rekeyed = s.rekeyed := rfl
@[simp] theorem State.setPort_fresh (s : State) (p : Nat) (x : Port) : (s.setPort p x).fresh = s.fresh := rfl
@[simp] theorem State.setPort_nextId (s : State) (p : Nat) (x : Port) : (s.setPort p x).nextId = s.nextId := rfl
@[simp] theorem State.setPort_tiles (s : State) (p : Nat) (x : Port) : (s.setPort p x).tiles = s.tiles := rfl
@[simp] theorem State.setPort_blocks (s : State) (p : Nat) (x : Port) : (s.setPort p x).blocks = s.blocks := rfl
@[simp] theorem State.setPort_quarters (s : State) (p : Nat) (x : Port) : (s.setPort p x).quarters = s.quarters := rfl
@[simp] theorem State.setPort_reqs (s : State) (p : Nat) (x : Port) : (s.setPort p x).reqs = s.reqs := rfl
@[simp] theorem State.setPort_attempts (s : State) (p : Nat) (x : Port) : (s.setPort p x).attempts = s.attempts := rfl
@[simp] theorem State.setPort_watches (s : State) (p : Nat) (x : Port) : (s.setPort p x).watches = s.watches := rfl
@[simp] theorem State.setPort_oplines (s : State) (p : Nat) (x : Port) : (s.setPort p x).oplines = s.oplines := rfl
@[simp] theorem State.setPort_rpackets (s : State) (p : Nat) (x : Port) : (s.setPort p x).rpackets = s.rpackets := rfl
@[simp] theorem State.setPort_returns (s : State) (p : Nat) (x : Port) : (s.setPort p x).returns = s.returns := rfl
@[simp] theorem State.setPort_edges (s : State) (p : Nat) (x : Port) : (s.setPort p x).edges = s.edges := rfl
@[simp] theorem State.setPort_avenue (s : State) (p : Nat) (x : Port) : (s.setPort p x).avenue = s.avenue := rfl
@[simp] theorem State.setPort_txs (s : State) (p : Nat) (x : Port) : (s.setPort p x).txs = s.txs := rfl
@[simp] theorem State.setPort_nextTx (s : State) (p : Nat) (x : Port) : (s.setPort p x).nextTx = s.nextTx := rfl
@[simp] theorem State.setPort_txWait (s : State) (p : Nat) (x : Port) : (s.setPort p x).txWait = s.txWait := rfl
@[simp] theorem State.setPort_far (s : State) (p : Nat) (x : Port) : (s.setPort p x).far = s.far := rfl
@[simp] theorem State.setPort_inbox (s : State) (p : Nat) (x : Port) : (s.setPort p x).inbox = s.inbox := rfl
@[simp] theorem State.setPort_dist (s : State) (p : Nat) (x : Port) : (s.setPort p x).dist = s.dist := rfl
@[simp] theorem State.setPort_hregs (s : State) (p : Nat) (x : Port) : (s.setPort p x).hregs = s.hregs := rfl
@[simp] theorem State.setPort_host (s : State) (p : Nat) (x : Port) : (s.setPort p x).host = s.host := rfl
@[simp] theorem State.setPort_parts (s : State) (p : Nat) (x : Port) : (s.setPort p x).parts = s.parts := rfl
@[simp] theorem State.setPort_sec (s : State) (p : Nat) (x : Port) : (s.setPort p x).sec = s.sec := rfl
@[simp] theorem State.setPort_sq (s : State) (p : Nat) (x : Port) : (s.setPort p x).sq = s.sq := rfl
@[simp] theorem State.setPort_mon (s : State) (p : Nat) (x : Port) : (s.setPort p x).mon = s.mon := rfl
@[simp] theorem State.setPort_module (s : State) (p : Nat) (x : Port) : (s.setPort p x).module = s.module := rfl
@[simp] theorem State.setPort_pop (s : State) (p : Nat) (x : Port) : (s.setPort p x).pop = s.pop := rfl
@[simp] theorem State.setPort_linkFails (s : State) (p : Nat) (x : Port) : (s.setPort p x).linkFails = s.linkFails := rfl
@[simp] theorem State.setPort_out (s : State) (p : Nat) (x : Port) : (s.setPort p x).out = s.out := rfl
@[simp] theorem State.setPort_tile (s : State) (p : Nat) (x : Port) (n : Nat) : (s.setPort p x).tile n = s.tile n := rfl
@[simp] theorem State.setPort_block (s : State) (p : Nat) (x : Port) (n : Nat) : (s.setPort p x).block n = s.block n := rfl
@[simp] theorem State.setPort_quarter (s : State) (p : Nat) (x : Port) (n : Nat) : (s.setPort p x).quarter n = s.quarter n := rfl
@[simp] theorem State.setPort_edge (s : State) (p : Nat) (x : Port) (n : Nat) : (s.setPort p x).edge n = s.edge n := rfl
@[simp] theorem State.setPort_hreg (s : State) (p : Nat) (x : Port) (n : Nat) : (s.setPort p x).hreg n = s.hreg n := rfl
@[simp] theorem State.setPort_byteAt (s : State) (p : Nat) (x : Port) (n : Nat) : (s.setPort p x).byteAt n = s.byteAt n := rfl
@[simp] theorem State.modPort_pending (s : State) (p : Nat) (f : Port → Port) : (s.modPort p f).pending = s.pending := rfl
@[simp] theorem State.modPort_time (s : State) (p : Nat) (f : Port → Port) : (s.modPort p f).time = s.time := rfl
@[simp] theorem State.modPort_ticks (s : State) (p : Nat) (f : Port → Port) : (s.modPort p f).ticks = s.ticks := rfl
@[simp] theorem State.modPort_mem (s : State) (p : Nat) (f : Port → Port) : (s.modPort p f).mem = s.mem := rfl
@[simp] theorem State.modPort_marks (s : State) (p : Nat) (f : Port → Port) : (s.modPort p f).marks = s.marks := rfl
@[simp] theorem State.modPort_rekeyed (s : State) (p : Nat) (f : Port → Port) : (s.modPort p f).rekeyed = s.rekeyed := rfl
@[simp] theorem State.modPort_fresh (s : State) (p : Nat) (f : Port → Port) : (s.modPort p f).fresh = s.fresh := rfl
@[simp] theorem State.modPort_nextId (s : State) (p : Nat) (f : Port → Port) : (s.modPort p f).nextId = s.nextId := rfl
@[simp] theorem State.modPort_tiles (s : State) (p : Nat) (f : Port → Port) : (s.modPort p f).tiles = s.tiles := rfl
@[simp] theorem State.modPort_blocks (s : State) (p : Nat) (f : Port → Port) : (s.modPort p f).blocks = s.blocks := rfl
@[simp] theorem State.modPort_quarters (s : State) (p : Nat) (f : Port → Port) : (s.modPort p f).quarters = s.quarters := rfl
@[simp] theorem State.modPort_reqs (s : State) (p : Nat) (f : Port → Port) : (s.modPort p f).reqs = s.reqs := rfl
@[simp] theorem State.modPort_attempts (s : State) (p : Nat) (f : Port → Port) : (s.modPort p f).attempts = s.attempts := rfl
@[simp] theorem State.modPort_watches (s : State) (p : Nat) (f : Port → Port) : (s.modPort p f).watches = s.watches := rfl
@[simp] theorem State.modPort_oplines (s : State) (p : Nat) (f : Port → Port) : (s.modPort p f).oplines = s.oplines := rfl
@[simp] theorem State.modPort_rpackets (s : State) (p : Nat) (f : Port → Port) : (s.modPort p f).rpackets = s.rpackets := rfl
@[simp] theorem State.modPort_returns (s : State) (p : Nat) (f : Port → Port) : (s.modPort p f).returns = s.returns := rfl
@[simp] theorem State.modPort_edges (s : State) (p : Nat) (f : Port → Port) : (s.modPort p f).edges = s.edges := rfl
@[simp] theorem State.modPort_avenue (s : State) (p : Nat) (f : Port → Port) : (s.modPort p f).avenue = s.avenue := rfl
@[simp] theorem State.modPort_txs (s : State) (p : Nat) (f : Port → Port) : (s.modPort p f).txs = s.txs := rfl
@[simp] theorem State.modPort_nextTx (s : State) (p : Nat) (f : Port → Port) : (s.modPort p f).nextTx = s.nextTx := rfl
@[simp] theorem State.modPort_txWait (s : State) (p : Nat) (f : Port → Port) : (s.modPort p f).txWait = s.txWait := rfl
@[simp] theorem State.modPort_far (s : State) (p : Nat) (f : Port → Port) : (s.modPort p f).far = s.far := rfl
@[simp] theorem State.modPort_inbox (s : State) (p : Nat) (f : Port → Port) : (s.modPort p f).inbox = s.inbox := rfl
@[simp] theorem State.modPort_dist (s : State) (p : Nat) (f : Port → Port) : (s.modPort p f).dist = s.dist := rfl
@[simp] theorem State.modPort_hregs (s : State) (p : Nat) (f : Port → Port) : (s.modPort p f).hregs = s.hregs := rfl
@[simp] theorem State.modPort_host (s : State) (p : Nat) (f : Port → Port) : (s.modPort p f).host = s.host := rfl
@[simp] theorem State.modPort_parts (s : State) (p : Nat) (f : Port → Port) : (s.modPort p f).parts = s.parts := rfl
@[simp] theorem State.modPort_sec (s : State) (p : Nat) (f : Port → Port) : (s.modPort p f).sec = s.sec := rfl
@[simp] theorem State.modPort_sq (s : State) (p : Nat) (f : Port → Port) : (s.modPort p f).sq = s.sq := rfl
@[simp] theorem State.modPort_mon (s : State) (p : Nat) (f : Port → Port) : (s.modPort p f).mon = s.mon := rfl
@[simp] theorem State.modPort_module (s : State) (p : Nat) (f : Port → Port) : (s.modPort p f).module = s.module := rfl
@[simp] theorem State.modPort_pop (s : State) (p : Nat) (f : Port → Port) : (s.modPort p f).pop = s.pop := rfl
@[simp] theorem State.modPort_linkFails (s : State) (p : Nat) (f : Port → Port) : (s.modPort p f).linkFails = s.linkFails := rfl
@[simp] theorem State.modPort_out (s : State) (p : Nat) (f : Port → Port) : (s.modPort p f).out = s.out := rfl
@[simp] theorem State.modPort_tile (s : State) (p : Nat) (f : Port → Port) (n : Nat) : (s.modPort p f).tile n = s.tile n := rfl
@[simp] theorem State.modPort_block (s : State) (p : Nat) (f : Port → Port) (n : Nat) : (s.modPort p f).block n = s.block n := rfl
@[simp] theorem State.modPort_quarter (s : State) (p : Nat) (f : Port → Port) (n : Nat) : (s.modPort p f).quarter n = s.quarter n := rfl
@[simp] theorem State.modPort_edge (s : State) (p : Nat) (f : Port → Port) (n : Nat) : (s.modPort p f).edge n = s.edge n := rfl
@[simp] theorem State.modPort_hreg (s : State) (p : Nat) (f : Port → Port) (n : Nat) : (s.modPort p f).hreg n = s.hreg n := rfl
@[simp] theorem State.modPort_byteAt (s : State) (p : Nat) (f : Port → Port) (n : Nat) : (s.modPort p f).byteAt n = s.byteAt n := rfl
@[simp] theorem State.modHreg_pending (s : State) (p : Nat) (f : HostRegs → HostRegs) : (s.modHreg p f).pending = s.pending := rfl
@[simp] theorem State.modHreg_time (s : State) (p : Nat) (f : HostRegs → HostRegs) : (s.modHreg p f).time = s.time := rfl
@[simp] theorem State.modHreg_ticks (s : State) (p : Nat) (f : HostRegs → HostRegs) : (s.modHreg p f).ticks = s.ticks := rfl
@[simp] theorem State.modHreg_mem (s : State) (p : Nat) (f : HostRegs → HostRegs) : (s.modHreg p f).mem = s.mem := rfl
@[simp] theorem State.modHreg_marks (s : State) (p : Nat) (f : HostRegs → HostRegs) : (s.modHreg p f).marks = s.marks := rfl
@[simp] theorem State.modHreg_rekeyed (s : State) (p : Nat) (f : HostRegs → HostRegs) : (s.modHreg p f).rekeyed = s.rekeyed := rfl
@[simp] theorem State.modHreg_fresh (s : State) (p : Nat) (f : HostRegs → HostRegs) : (s.modHreg p f).fresh = s.fresh := rfl
@[simp] theorem State.modHreg_nextId (s : State) (p : Nat) (f : HostRegs → HostRegs) : (s.modHreg p f).nextId = s.nextId := rfl
@[simp] theorem State.modHreg_tiles (s : State) (p : Nat) (f : HostRegs → HostRegs) : (s.modHreg p f).tiles = s.tiles := rfl
@[simp] theorem State.modHreg_blocks (s : State) (p : Nat) (f : HostRegs → HostRegs) : (s.modHreg p f).blocks = s.blocks := rfl
@[simp] theorem State.modHreg_quarters (s : State) (p : Nat) (f : HostRegs → HostRegs) : (s.modHreg p f).quarters = s.quarters := rfl
@[simp] theorem State.modHreg_reqs (s : State) (p : Nat) (f : HostRegs → HostRegs) : (s.modHreg p f).reqs = s.reqs := rfl
@[simp] theorem State.modHreg_attempts (s : State) (p : Nat) (f : HostRegs → HostRegs) : (s.modHreg p f).attempts = s.attempts := rfl
@[simp] theorem State.modHreg_watches (s : State) (p : Nat) (f : HostRegs → HostRegs) : (s.modHreg p f).watches = s.watches := rfl
@[simp] theorem State.modHreg_oplines (s : State) (p : Nat) (f : HostRegs → HostRegs) : (s.modHreg p f).oplines = s.oplines := rfl
@[simp] theorem State.modHreg_rpackets (s : State) (p : Nat) (f : HostRegs → HostRegs) : (s.modHreg p f).rpackets = s.rpackets := rfl
@[simp] theorem State.modHreg_returns (s : State) (p : Nat) (f : HostRegs → HostRegs) : (s.modHreg p f).returns = s.returns := rfl
@[simp] theorem State.modHreg_ports (s : State) (p : Nat) (f : HostRegs → HostRegs) : (s.modHreg p f).ports = s.ports := rfl
@[simp] theorem State.modHreg_edges (s : State) (p : Nat) (f : HostRegs → HostRegs) : (s.modHreg p f).edges = s.edges := rfl
@[simp] theorem State.modHreg_avenue (s : State) (p : Nat) (f : HostRegs → HostRegs) : (s.modHreg p f).avenue = s.avenue := rfl
@[simp] theorem State.modHreg_txs (s : State) (p : Nat) (f : HostRegs → HostRegs) : (s.modHreg p f).txs = s.txs := rfl
@[simp] theorem State.modHreg_nextTx (s : State) (p : Nat) (f : HostRegs → HostRegs) : (s.modHreg p f).nextTx = s.nextTx := rfl
@[simp] theorem State.modHreg_txWait (s : State) (p : Nat) (f : HostRegs → HostRegs) : (s.modHreg p f).txWait = s.txWait := rfl
@[simp] theorem State.modHreg_far (s : State) (p : Nat) (f : HostRegs → HostRegs) : (s.modHreg p f).far = s.far := rfl
@[simp] theorem State.modHreg_inbox (s : State) (p : Nat) (f : HostRegs → HostRegs) : (s.modHreg p f).inbox = s.inbox := rfl
@[simp] theorem State.modHreg_dist (s : State) (p : Nat) (f : HostRegs → HostRegs) : (s.modHreg p f).dist = s.dist := rfl
@[simp] theorem State.modHreg_host (s : State) (p : Nat) (f : HostRegs → HostRegs) : (s.modHreg p f).host = s.host := rfl
@[simp] theorem State.modHreg_parts (s : State) (p : Nat) (f : HostRegs → HostRegs) : (s.modHreg p f).parts = s.parts := rfl
@[simp] theorem State.modHreg_sec (s : State) (p : Nat) (f : HostRegs → HostRegs) : (s.modHreg p f).sec = s.sec := rfl
@[simp] theorem State.modHreg_sq (s : State) (p : Nat) (f : HostRegs → HostRegs) : (s.modHreg p f).sq = s.sq := rfl
@[simp] theorem State.modHreg_mon (s : State) (p : Nat) (f : HostRegs → HostRegs) : (s.modHreg p f).mon = s.mon := rfl
@[simp] theorem State.modHreg_module (s : State) (p : Nat) (f : HostRegs → HostRegs) : (s.modHreg p f).module = s.module := rfl
@[simp] theorem State.modHreg_pop (s : State) (p : Nat) (f : HostRegs → HostRegs) : (s.modHreg p f).pop = s.pop := rfl
@[simp] theorem State.modHreg_linkFails (s : State) (p : Nat) (f : HostRegs → HostRegs) : (s.modHreg p f).linkFails = s.linkFails := rfl
@[simp] theorem State.modHreg_out (s : State) (p : Nat) (f : HostRegs → HostRegs) : (s.modHreg p f).out = s.out := rfl
@[simp] theorem State.modHreg_tile (s : State) (p : Nat) (f : HostRegs → HostRegs) (n : Nat) : (s.modHreg p f).tile n = s.tile n := rfl
@[simp] theorem State.modHreg_block (s : State) (p : Nat) (f : HostRegs → HostRegs) (n : Nat) : (s.modHreg p f).block n = s.block n := rfl
@[simp] theorem State.modHreg_quarter (s : State) (p : Nat) (f : HostRegs → HostRegs) (n : Nat) : (s.modHreg p f).quarter n = s.quarter n := rfl
@[simp] theorem State.modHreg_edge (s : State) (p : Nat) (f : HostRegs → HostRegs) (n : Nat) : (s.modHreg p f).edge n = s.edge n := rfl
@[simp] theorem State.modHreg_port (s : State) (p : Nat) (f : HostRegs → HostRegs) (n : Nat) : (s.modHreg p f).port n = s.port n := rfl
@[simp] theorem State.modHreg_byteAt (s : State) (p : Nat) (f : HostRegs → HostRegs) (n : Nat) : (s.modHreg p f).byteAt n = s.byteAt n := rfl
@[simp] theorem State.emit_pending (s : State) (o : Out) : (s.emit o).pending = s.pending := rfl
@[simp] theorem State.emit_time (s : State) (o : Out) : (s.emit o).time = s.time := rfl
@[simp] theorem State.emit_ticks (s : State) (o : Out) : (s.emit o).ticks = s.ticks := rfl
@[simp] theorem State.emit_mem (s : State) (o : Out) : (s.emit o).mem = s.mem := rfl
@[simp] theorem State.emit_marks (s : State) (o : Out) : (s.emit o).marks = s.marks := rfl
@[simp] theorem State.emit_rekeyed (s : State) (o : Out) : (s.emit o).rekeyed = s.rekeyed := rfl
@[simp] theorem State.emit_fresh (s : State) (o : Out) : (s.emit o).fresh = s.fresh := rfl
@[simp] theorem State.emit_nextId (s : State) (o : Out) : (s.emit o).nextId = s.nextId := rfl
@[simp] theorem State.emit_tiles (s : State) (o : Out) : (s.emit o).tiles = s.tiles := rfl
@[simp] theorem State.emit_blocks (s : State) (o : Out) : (s.emit o).blocks = s.blocks := rfl
@[simp] theorem State.emit_quarters (s : State) (o : Out) : (s.emit o).quarters = s.quarters := rfl
@[simp] theorem State.emit_reqs (s : State) (o : Out) : (s.emit o).reqs = s.reqs := rfl
@[simp] theorem State.emit_attempts (s : State) (o : Out) : (s.emit o).attempts = s.attempts := rfl
@[simp] theorem State.emit_watches (s : State) (o : Out) : (s.emit o).watches = s.watches := rfl
@[simp] theorem State.emit_oplines (s : State) (o : Out) : (s.emit o).oplines = s.oplines := rfl
@[simp] theorem State.emit_rpackets (s : State) (o : Out) : (s.emit o).rpackets = s.rpackets := rfl
@[simp] theorem State.emit_returns (s : State) (o : Out) : (s.emit o).returns = s.returns := rfl
@[simp] theorem State.emit_ports (s : State) (o : Out) : (s.emit o).ports = s.ports := rfl
@[simp] theorem State.emit_edges (s : State) (o : Out) : (s.emit o).edges = s.edges := rfl
@[simp] theorem State.emit_avenue (s : State) (o : Out) : (s.emit o).avenue = s.avenue := rfl
@[simp] theorem State.emit_txs (s : State) (o : Out) : (s.emit o).txs = s.txs := rfl
@[simp] theorem State.emit_nextTx (s : State) (o : Out) : (s.emit o).nextTx = s.nextTx := rfl
@[simp] theorem State.emit_txWait (s : State) (o : Out) : (s.emit o).txWait = s.txWait := rfl
@[simp] theorem State.emit_far (s : State) (o : Out) : (s.emit o).far = s.far := rfl
@[simp] theorem State.emit_inbox (s : State) (o : Out) : (s.emit o).inbox = s.inbox := rfl
@[simp] theorem State.emit_dist (s : State) (o : Out) : (s.emit o).dist = s.dist := rfl
@[simp] theorem State.emit_hregs (s : State) (o : Out) : (s.emit o).hregs = s.hregs := rfl
@[simp] theorem State.emit_host (s : State) (o : Out) : (s.emit o).host = s.host := rfl
@[simp] theorem State.emit_parts (s : State) (o : Out) : (s.emit o).parts = s.parts := rfl
@[simp] theorem State.emit_sec (s : State) (o : Out) : (s.emit o).sec = s.sec := rfl
@[simp] theorem State.emit_sq (s : State) (o : Out) : (s.emit o).sq = s.sq := rfl
@[simp] theorem State.emit_mon (s : State) (o : Out) : (s.emit o).mon = s.mon := rfl
@[simp] theorem State.emit_module (s : State) (o : Out) : (s.emit o).module = s.module := rfl
@[simp] theorem State.emit_pop (s : State) (o : Out) : (s.emit o).pop = s.pop := rfl
@[simp] theorem State.emit_linkFails (s : State) (o : Out) : (s.emit o).linkFails = s.linkFails := rfl
@[simp] theorem State.emit_tile (s : State) (o : Out) (n : Nat) : (s.emit o).tile n = s.tile n := rfl
@[simp] theorem State.emit_block (s : State) (o : Out) (n : Nat) : (s.emit o).block n = s.block n := rfl
@[simp] theorem State.emit_quarter (s : State) (o : Out) (n : Nat) : (s.emit o).quarter n = s.quarter n := rfl
@[simp] theorem State.emit_edge (s : State) (o : Out) (n : Nat) : (s.emit o).edge n = s.edge n := rfl
@[simp] theorem State.emit_port (s : State) (o : Out) (n : Nat) : (s.emit o).port n = s.port n := rfl
@[simp] theorem State.emit_hreg (s : State) (o : Out) (n : Nat) : (s.emit o).hreg n = s.hreg n := rfl
@[simp] theorem State.emit_byteAt (s : State) (o : Out) (n : Nat) : (s.emit o).byteAt n = s.byteAt n := rfl
@[simp] theorem State.putBytes_pending (s : State) (a : Nat) (bs : List Byte) : (s.putBytes a bs).pending = s.pending := rfl
@[simp] theorem State.putBytes_time (s : State) (a : Nat) (bs : List Byte) : (s.putBytes a bs).time = s.time := rfl
@[simp] theorem State.putBytes_ticks (s : State) (a : Nat) (bs : List Byte) : (s.putBytes a bs).ticks = s.ticks := rfl
@[simp] theorem State.putBytes_marks (s : State) (a : Nat) (bs : List Byte) : (s.putBytes a bs).marks = s.marks := rfl
@[simp] theorem State.putBytes_rekeyed (s : State) (a : Nat) (bs : List Byte) : (s.putBytes a bs).rekeyed = s.rekeyed := rfl
@[simp] theorem State.putBytes_fresh (s : State) (a : Nat) (bs : List Byte) : (s.putBytes a bs).fresh = s.fresh := rfl
@[simp] theorem State.putBytes_nextId (s : State) (a : Nat) (bs : List Byte) : (s.putBytes a bs).nextId = s.nextId := rfl
@[simp] theorem State.putBytes_tiles (s : State) (a : Nat) (bs : List Byte) : (s.putBytes a bs).tiles = s.tiles := rfl
@[simp] theorem State.putBytes_blocks (s : State) (a : Nat) (bs : List Byte) : (s.putBytes a bs).blocks = s.blocks := rfl
@[simp] theorem State.putBytes_quarters (s : State) (a : Nat) (bs : List Byte) : (s.putBytes a bs).quarters = s.quarters := rfl
@[simp] theorem State.putBytes_reqs (s : State) (a : Nat) (bs : List Byte) : (s.putBytes a bs).reqs = s.reqs := rfl
@[simp] theorem State.putBytes_attempts (s : State) (a : Nat) (bs : List Byte) : (s.putBytes a bs).attempts = s.attempts := rfl
@[simp] theorem State.putBytes_watches (s : State) (a : Nat) (bs : List Byte) : (s.putBytes a bs).watches = s.watches := rfl
@[simp] theorem State.putBytes_oplines (s : State) (a : Nat) (bs : List Byte) : (s.putBytes a bs).oplines = s.oplines := rfl
@[simp] theorem State.putBytes_rpackets (s : State) (a : Nat) (bs : List Byte) : (s.putBytes a bs).rpackets = s.rpackets := rfl
@[simp] theorem State.putBytes_returns (s : State) (a : Nat) (bs : List Byte) : (s.putBytes a bs).returns = s.returns := rfl
@[simp] theorem State.putBytes_ports (s : State) (a : Nat) (bs : List Byte) : (s.putBytes a bs).ports = s.ports := rfl
@[simp] theorem State.putBytes_edges (s : State) (a : Nat) (bs : List Byte) : (s.putBytes a bs).edges = s.edges := rfl
@[simp] theorem State.putBytes_avenue (s : State) (a : Nat) (bs : List Byte) : (s.putBytes a bs).avenue = s.avenue := rfl
@[simp] theorem State.putBytes_txs (s : State) (a : Nat) (bs : List Byte) : (s.putBytes a bs).txs = s.txs := rfl
@[simp] theorem State.putBytes_nextTx (s : State) (a : Nat) (bs : List Byte) : (s.putBytes a bs).nextTx = s.nextTx := rfl
@[simp] theorem State.putBytes_txWait (s : State) (a : Nat) (bs : List Byte) : (s.putBytes a bs).txWait = s.txWait := rfl
@[simp] theorem State.putBytes_far (s : State) (a : Nat) (bs : List Byte) : (s.putBytes a bs).far = s.far := rfl
@[simp] theorem State.putBytes_inbox (s : State) (a : Nat) (bs : List Byte) : (s.putBytes a bs).inbox = s.inbox := rfl
@[simp] theorem State.putBytes_dist (s : State) (a : Nat) (bs : List Byte) : (s.putBytes a bs).dist = s.dist := rfl
@[simp] theorem State.putBytes_hregs (s : State) (a : Nat) (bs : List Byte) : (s.putBytes a bs).hregs = s.hregs := rfl
@[simp] theorem State.putBytes_host (s : State) (a : Nat) (bs : List Byte) : (s.putBytes a bs).host = s.host := rfl
@[simp] theorem State.putBytes_parts (s : State) (a : Nat) (bs : List Byte) : (s.putBytes a bs).parts = s.parts := rfl
@[simp] theorem State.putBytes_sec (s : State) (a : Nat) (bs : List Byte) : (s.putBytes a bs).sec = s.sec := rfl
@[simp] theorem State.putBytes_sq (s : State) (a : Nat) (bs : List Byte) : (s.putBytes a bs).sq = s.sq := rfl
@[simp] theorem State.putBytes_mon (s : State) (a : Nat) (bs : List Byte) : (s.putBytes a bs).mon = s.mon := rfl
@[simp] theorem State.putBytes_module (s : State) (a : Nat) (bs : List Byte) : (s.putBytes a bs).module = s.module := rfl
@[simp] theorem State.putBytes_pop (s : State) (a : Nat) (bs : List Byte) : (s.putBytes a bs).pop = s.pop := rfl
@[simp] theorem State.putBytes_linkFails (s : State) (a : Nat) (bs : List Byte) : (s.putBytes a bs).linkFails = s.linkFails := rfl
@[simp] theorem State.putBytes_out (s : State) (a : Nat) (bs : List Byte) : (s.putBytes a bs).out = s.out := rfl
@[simp] theorem State.putBytes_tile (s : State) (a : Nat) (bs : List Byte) (n : Nat) : (s.putBytes a bs).tile n = s.tile n := rfl
@[simp] theorem State.putBytes_block (s : State) (a : Nat) (bs : List Byte) (n : Nat) : (s.putBytes a bs).block n = s.block n := rfl
@[simp] theorem State.putBytes_quarter (s : State) (a : Nat) (bs : List Byte) (n : Nat) : (s.putBytes a bs).quarter n = s.quarter n := rfl
@[simp] theorem State.putBytes_edge (s : State) (a : Nat) (bs : List Byte) (n : Nat) : (s.putBytes a bs).edge n = s.edge n := rfl
@[simp] theorem State.putBytes_port (s : State) (a : Nat) (bs : List Byte) (n : Nat) : (s.putBytes a bs).port n = s.port n := rfl
@[simp] theorem State.putBytes_hreg (s : State) (a : Nat) (bs : List Byte) (n : Nat) : (s.putBytes a bs).hreg n = s.hreg n := rfl

@[simp] theorem State.setTile_tile_self (s : State) (n : Nat) (x : Tile) : (s.setTile n x).tile n = x :=
  Tab.read_write_self _ _ _ _

theorem State.setTile_tile_other (s : State) {n k : Nat} (h : k ≠ n) (x : Tile) : (s.setTile n x).tile k = s.tile k :=
  Tab.read_write_other _ _ h _

@[simp] theorem State.modTile_tile_self (s : State) (n : Nat) (f : Tile → Tile) : (s.modTile n f).tile n = f (s.tile n) :=
  Tab.read_write_self _ _ _ _

theorem State.modTile_tile_other (s : State) {n k : Nat} (h : k ≠ n) (f : Tile → Tile) : (s.modTile n f).tile k = s.tile k :=
  Tab.read_write_other _ _ h _

@[simp] theorem State.setTile_setTile (s : State) (n : Nat) (x y : Tile) : (s.setTile n x).setTile n y = s.setTile n y := by
  simp [State.setTile, Tab.write_write]

@[simp] theorem State.modTile_modTile (s : State) (n : Nat) (f g : Tile → Tile) :
    (s.modTile n f).modTile n g = s.modTile n fun x => g (f x) := by
  unfold State.modTile; rw [State.setTile_tile_self, State.setTile_setTile]

@[simp] theorem State.setBlock_block_self (s : State) (n : Nat) (x : Block) : (s.setBlock n x).block n = x :=
  Tab.read_write_self _ _ _ _

theorem State.setBlock_block_other (s : State) {n k : Nat} (h : k ≠ n) (x : Block) : (s.setBlock n x).block k = s.block k :=
  Tab.read_write_other _ _ h _

@[simp] theorem State.modBlock_block_self (s : State) (n : Nat) (f : Block → Block) : (s.modBlock n f).block n = f (s.block n) :=
  Tab.read_write_self _ _ _ _

theorem State.modBlock_block_other (s : State) {n k : Nat} (h : k ≠ n) (f : Block → Block) : (s.modBlock n f).block k = s.block k :=
  Tab.read_write_other _ _ h _

@[simp] theorem State.setBlock_setBlock (s : State) (n : Nat) (x y : Block) : (s.setBlock n x).setBlock n y = s.setBlock n y := by
  simp [State.setBlock, Tab.write_write]

@[simp] theorem State.modBlock_modBlock (s : State) (n : Nat) (f g : Block → Block) :
    (s.modBlock n f).modBlock n g = s.modBlock n fun x => g (f x) := by
  unfold State.modBlock; rw [State.setBlock_block_self, State.setBlock_setBlock]

@[simp] theorem State.setQuarter_quarter_self (s : State) (n : Nat) (x : Quarter) : (s.setQuarter n x).quarter n = x :=
  Tab.read_write_self _ _ _ _

theorem State.setQuarter_quarter_other (s : State) {n k : Nat} (h : k ≠ n) (x : Quarter) : (s.setQuarter n x).quarter k = s.quarter k :=
  Tab.read_write_other _ _ h _

@[simp] theorem State.modQuarter_quarter_self (s : State) (n : Nat) (f : Quarter → Quarter) : (s.modQuarter n f).quarter n = f (s.quarter n) :=
  Tab.read_write_self _ _ _ _

theorem State.modQuarter_quarter_other (s : State) {n k : Nat} (h : k ≠ n) (f : Quarter → Quarter) : (s.modQuarter n f).quarter k = s.quarter k :=
  Tab.read_write_other _ _ h _

@[simp] theorem State.setQuarter_setQuarter (s : State) (n : Nat) (x y : Quarter) : (s.setQuarter n x).setQuarter n y = s.setQuarter n y := by
  simp [State.setQuarter, Tab.write_write]

@[simp] theorem State.modQuarter_modQuarter (s : State) (n : Nat) (f g : Quarter → Quarter) :
    (s.modQuarter n f).modQuarter n g = s.modQuarter n fun x => g (f x) := by
  unfold State.modQuarter; rw [State.setQuarter_quarter_self, State.setQuarter_setQuarter]

@[simp] theorem State.setEdge_edge_self (s : State) (n : Nat) (x : Edge) : (s.setEdge n x).edge n = x :=
  Tab.read_write_self _ _ _ _

theorem State.setEdge_edge_other (s : State) {n k : Nat} (h : k ≠ n) (x : Edge) : (s.setEdge n x).edge k = s.edge k :=
  Tab.read_write_other _ _ h _

@[simp] theorem State.modEdge_edge_self (s : State) (n : Nat) (f : Edge → Edge) : (s.modEdge n f).edge n = f (s.edge n) :=
  Tab.read_write_self _ _ _ _

theorem State.modEdge_edge_other (s : State) {n k : Nat} (h : k ≠ n) (f : Edge → Edge) : (s.modEdge n f).edge k = s.edge k :=
  Tab.read_write_other _ _ h _

@[simp] theorem State.setEdge_setEdge (s : State) (n : Nat) (x y : Edge) : (s.setEdge n x).setEdge n y = s.setEdge n y := by
  simp [State.setEdge, Tab.write_write]

@[simp] theorem State.modEdge_modEdge (s : State) (n : Nat) (f g : Edge → Edge) :
    (s.modEdge n f).modEdge n g = s.modEdge n fun x => g (f x) := by
  unfold State.modEdge; rw [State.setEdge_edge_self, State.setEdge_setEdge]

@[simp] theorem State.setPort_port_self (s : State) (n : Nat) (x : Port) : (s.setPort n x).port n = x :=
  Tab.read_write_self _ _ _ _

theorem State.setPort_port_other (s : State) {n k : Nat} (h : k ≠ n) (x : Port) : (s.setPort n x).port k = s.port k :=
  Tab.read_write_other _ _ h _

@[simp] theorem State.modPort_port_self (s : State) (n : Nat) (f : Port → Port) : (s.modPort n f).port n = f (s.port n) :=
  Tab.read_write_self _ _ _ _

theorem State.modPort_port_other (s : State) {n k : Nat} (h : k ≠ n) (f : Port → Port) : (s.modPort n f).port k = s.port k :=
  Tab.read_write_other _ _ h _

@[simp] theorem State.setPort_setPort (s : State) (n : Nat) (x y : Port) : (s.setPort n x).setPort n y = s.setPort n y := by
  simp [State.setPort, Tab.write_write]

@[simp] theorem State.modPort_modPort (s : State) (n : Nat) (f g : Port → Port) :
    (s.modPort n f).modPort n g = s.modPort n fun x => g (f x) := by
  unfold State.modPort; rw [State.setPort_port_self, State.setPort_setPort]

@[simp] theorem State.modHreg_hreg_self (s : State) (p : Nat) (f : HostRegs → HostRegs) :
    (s.modHreg p f).hreg p = f (s.hreg p) := Tab.read_write_self _ _ _ _

theorem State.modHreg_hreg_other (s : State) {p k : Nat} (h : k ≠ p) (f : HostRegs → HostRegs) :
    (s.modHreg p f).hreg k = s.hreg k := Tab.read_write_other _ _ h _

/-- Memory that is written outside a byte reads there as before. -/
theorem State.putBytes_byteAt_outside {s : State} (h : Memory.wf s.mem = true) {a k : Nat} {bs : List Byte}
    (hk : k < a ∨ a + bs.length ≤ k) : (s.putBytes a bs).byteAt k = s.byteAt k :=
  Memory.read_writeAll_outside bs a h hk

end Sys2Proof.Machine
end

