-- ==== Sys2Proof/Laws/Issue.lean ====
section
/-! SUPPORT. What landing a result, retiring an instruction and issuing one leave (R26, R35, R38). -/

namespace Sys2Proof.Machine

/-! ## Stores at their homes leave the tiles as they are -/

theorem foldl_keeps {σ α β : Type} (g : σ → β) (f : σ → α → σ) (h : ∀ s a, g (f s a) = g s) (l : List α) (s : σ) :
    g (l.foldl f s) = g s := by
  induction l generalizing s with
  | nil => rfl
  | cons a r ih => exact (ih (f s a)).trans (h s a)

@[simp] theorem State.sendPacket_tiles (s : State) (p : Packet) : (s.sendPacket p).tiles = s.tiles := by
  unfold State.sendPacket; split <;> rfl

@[simp] theorem State.fireWatch_tiles (s : State) (w : Watch) : (s.fireWatch w).tiles = s.tiles := by
  unfold State.fireWatch; split
  · rfl
  · exact State.sendPacket_tiles ..
  · rfl

@[simp] theorem State.checkWatches_tiles (s : State) (a n : Nat) : (s.checkWatches a n).tiles = s.tiles := by
  unfold State.checkWatches; split
  · rfl
  · exact foldl_keeps State.tiles State.fireWatch State.fireWatch_tiles _ _

@[simp] theorem State.store_tiles (s : State) (a : Nat) (bs : List Byte) : (s.store a bs).tiles = s.tiles := by
  simp [State.store]

@[simp] theorem State.logError_tiles (s : State) (q addr : Nat) (u : SpotUnit) (sev : BitVec 2) (who : AgentId) :
    (s.logError q addr u sev who).tiles = s.tiles := by
  unfold State.logError State.scheduleSpot
  dsimp only
  split <;> simp

@[simp] theorem State.meetSram_tiles (s : State) (a : Nat) (who : AgentId) : (s.meetSram a who).tiles = s.tiles := by
  unfold State.meetSram State.correct
  dsimp only
  repeat (first | split | simp)

@[simp] theorem State.storeBytes_tiles (s : State) (who : AgentId) (a : Nat) (bs : List Byte) :
    (s.storeBytes who a bs).tiles = s.tiles := by
  unfold State.storeBytes
  dsimp only
  rw [State.store_tiles]
  split
  · rfl
  · exact foldl_keeps State.tiles _ (fun s i => by split <;> simp) _ _

theorem State.tile_congr {s u : State} (h : s.tiles = u.tiles) (t : Nat) : s.tile t = u.tile t := by
  unfold State.tile; rw [h]

/-! ## Landing (R26, R27) -/

/-- A tile's own bytes written through its port change its merging buffer alone. -/
theorem State.portWrite_tile (s : State) (t off : Nat) (bs : List Byte) :
    ∃ m, (s.portWrite t off bs).tile t = { s.tile t with gmem := { (s.tile t).gmem with mb := m } } := by
  unfold State.portWrite
  rw [State.tile_congr (State.storeBytes_tiles ..)]
  split
  · exact ⟨_, rfl⟩
  · exact ⟨_, State.modTile_tile_self ..⟩

theorem State.portWrite_other {s : State} {t u : Nat} (h : u ≠ t) (off : Nat) (bs : List Byte) :
    (s.portWrite t off bs).tile u = s.tile u := by
  unfold State.portWrite
  rw [State.tile_congr (State.storeBytes_tiles ..)]
  split
  · rfl
  · exact State.modTile_tile_other _ h _

/-- Where a result lands, in a tile's registers. -/
def Landing.slots (d : Landing) (x : Tile) : Tile :=
  match d with
  | .data i v => { x with core := x.core.setSlot i v }
  | .vec i v => { x with vec := { x.vec with vs := x.vec.vs.setIfInBounds i v } }
  | _ => x

/-- The registers of a tile in which one result has landed. -/
def Flight.landed (f : Flight) (x : Tile) : Tile :=
  let x := f.dest.slots x
  { x with
    ctl := { x.ctl with fcsr := x.ctl.fcsr ||| f.flags.setWidth 64 }
    core := { x.core with impr :=
      match f.exc with
      | none => x.core.impr
      | some c =>
        match x.core.impr with
        | some (c', p', o') => if f.ord < o' then some (c, f.pc, f.ord) else some (c', p', o')
        | none => some (c, f.pc, f.ord) } }

/-- A result of a VSCATTER. -/
def Landing.toMemory : Landing → Bool
  | .scatter _ => true
  | _ => false

theorem State.scatter_tile (ls : List (Nat × List Byte)) (s : State) (t : Nat) :
    ∃ m, (ls.foldl (fun (s : State) e => s.portWrite t e.1 e.2) s).tile t =
      { s.tile t with gmem := { (s.tile t).gmem with mb := m } } := by
  induction ls generalizing s with
  | nil => exact ⟨_, rfl⟩
  | cons e r ih =>
    obtain ⟨g, hg⟩ := ih (s.portWrite t e.1 e.2)
    obtain ⟨k, hk⟩ := s.portWrite_tile t e.1 e.2
    exact ⟨g, by rw [List.foldl_cons, hg, hk]⟩

theorem State.land_tile (s : State) (t : Nat) (f : Flight) :
    ∃ m, (s.land t f).tile t = { f.landed (s.tile t) with gmem := { (s.tile t).gmem with mb := m } } := by
  unfold State.land Flight.landed Landing.slots
  cases f.dest with
  | data i v => exact ⟨(s.tile t).gmem.mb, by simp <;> rfl⟩
  | vec i v => exact ⟨(s.tile t).gmem.mb, by simp <;> rfl⟩
  | flagsOnly => exact ⟨(s.tile t).gmem.mb, by simp <;> rfl⟩
  | scatter ls =>
    obtain ⟨g, hg⟩ := State.scatter_tile ls s t
    exact ⟨g, by simp [hg] <;> rfl⟩

theorem State.land_eq {s : State} {t : Nat} {f : Flight} (h : f.dest.toMemory = false) :
    s.land t f = s.setTile t (f.landed (s.tile t)) := by
  unfold State.land Flight.landed Landing.slots
  cases hd : f.dest with
  | data i v => simp [State.modTile] <;> rfl
  | vec i v => simp [State.modTile] <;> rfl
  | flagsOnly => simp [State.modTile] <;> rfl
  | scatter ls => simp [hd, Landing.toMemory] at h

theorem State.land_other {s : State} {t u : Nat} (h : u ≠ t) (f : Flight) : (s.land t f).tile u = s.tile u := by
  unfold State.land
  cases f.dest with
  | data i v => simp [State.modTile_tile_other _ h]
  | vec i v => simp [State.modTile_tile_other _ h]
  | flagsOnly => simp [State.modTile_tile_other _ h]
  | scatter ls =>
    simp only [State.modTile_tile_other _ h]
    exact foldl_keeps (fun s : State => s.tile u) _ (fun s e => State.portWrite_other h _ _) _ _

/-- The registers of a tile in which results have landed, in the order given. -/
def landedAll (l : List Flight) (x : Tile) : Tile := l.foldl (fun x f => f.landed x) x

theorem Flight.landed_gmem (f : Flight) (x : Tile) (g : GMem) :
    { f.landed x with gmem := g } = f.landed { x with gmem := g } := by
  unfold Flight.landed Landing.slots
  cases f.dest <;> rfl

theorem landedAll_gmem (l : List Flight) (x : Tile) (g : GMem) :
    { landedAll l x with gmem := g } = landedAll l { x with gmem := g } := by
  induction l generalizing x with
  | nil => rfl
  | cons f r ih => exact (ih (f.landed x)).trans (by rw [Flight.landed_gmem]; rfl)

theorem State.foldl_land_tile (l : List Flight) (s : State) (t : Nat) :
    ∃ m, (l.foldl (fun s f => s.land t f) s).tile t =
      { landedAll l (s.tile t) with gmem := { (s.tile t).gmem with mb := m } } := by
  induction l generalizing s with
  | nil => exact ⟨(s.tile t).gmem.mb, rfl⟩
  | cons f r ih =>
    obtain ⟨g, hg⟩ := ih (s.land t f)
    obtain ⟨k, hk⟩ := s.land_tile t f
    refine ⟨g, ?_⟩
    rw [List.foldl_cons, hg, hk]
    show _ = { landedAll r (f.landed (s.tile t)) with gmem := { (s.tile t).gmem with mb := g } }
    rw [landedAll_gmem, landedAll_gmem]

theorem State.foldl_land_eq (l : List Flight) (s : State) (t : Nat) (h : ∀ f ∈ l, f.dest.toMemory = false) :
    l.foldl (fun s f => s.land t f) s = if l = [] then s else s.setTile t (landedAll l (s.tile t)) := by
  induction l generalizing s with
  | nil => rfl
  | cons f r ih =>
    rw [List.foldl_cons, State.land_eq (h f (by simp)), ih _ (fun g hg => h g (by simp [hg]))]
    simp only [List.cons_ne_nil, ↓reduceIte, State.setTile_setTile, State.setTile_tile_self]
    split
    · subst_vars; rfl
    · rfl

theorem State.foldl_land_other {t u : Nat} (h : u ≠ t) (l : List Flight) (s : State) :
    (l.foldl (fun s f => s.land t f) s).tile u = s.tile u :=
  foldl_keeps (fun s : State => s.tile u) _ (fun _ f => State.land_other h f) l s

end Sys2Proof.Machine
end

