-- ==== Sys2Proof/Laws/Ran.lean ====
section
/-! SUPPORT. An instruction that only moves data entries: pushing results and retiring leaves what Ran says. -/

namespace Sys2Proof.Machine

/-! ## Slots -/

theorem nth_set_self {α : Type} {n : Nat} (v : Vector α n) {i : Nat} (h : i < n) (a d : α) :
    nth (v.setIfInBounds i a) i d = a := by
  simp [nth, h]

theorem nth_set_other {α : Type} {n : Nat} (v : Vector α n) {i j : Nat} (h : j ≠ i) (a d : α) :
    nth (v.setIfInBounds i a) j d = nth v j d := by
  simp [nth, h.symm]

/-- The data slot that a landing writes. -/
def Landing.hits (d : Landing) (i : Nat) : Bool :=
  match d with
  | .data j _ => j == i
  | _ => false

/-- The vector slot that a landing writes. -/
def Landing.vhits (d : Landing) (i : Nat) : Bool :=
  match d with
  | .vec j _ => j == i
  | _ => false

theorem Flight.landed_ds (f : Flight) (x : Tile) (i : Nat) (h : f.dest.hits i = false) :
    nth (f.landed x).core.ds i 0 = nth x.core.ds i 0 := by
  unfold Flight.landed Landing.slots
  cases hd : f.dest with
  | data j v =>
    rw [hd] at h
    simp only [Landing.hits, beq_eq_false_iff_ne] at h
    exact nth_set_other _ (fun e => h e.symm) _ _
  | _ => rfl

theorem Flight.landed_ds_self {f : Flight} {i : Nat} {v : Word} (h : f.dest = .data i v) (hi : i < 32) (x : Tile) :
    nth (f.landed x).core.ds i 0 = v := by
  unfold Flight.landed Landing.slots
  rw [h]
  exact nth_set_self _ hi _ _

theorem Flight.landed_vs (f : Flight) (x : Tile) (i : Nat) (h : f.dest.vhits i = false) :
    nth (f.landed x).vec.vs i 0 = nth x.vec.vs i 0 := by
  unfold Flight.landed Landing.slots
  cases hd : f.dest with
  | vec j v =>
    rw [hd] at h
    simp only [Landing.vhits, beq_eq_false_iff_ne] at h
    exact nth_set_other _ (fun e => h e.symm) _ _
  | _ => rfl

theorem landedAll_ds (l : List Flight) (x : Tile) (i : Nat) (h : ∀ f ∈ l, f.dest.hits i = false) :
    nth (landedAll l x).core.ds i 0 = nth x.core.ds i 0 := by
  induction l generalizing x with
  | nil => rfl
  | cons f r ih =>
    exact (ih (f.landed x) (fun g hg => h g (by simp [hg]))).trans (Flight.landed_ds f x i (h f (by simp)))

theorem landedAll_vs (l : List Flight) (x : Tile) (i : Nat) (h : ∀ f ∈ l, f.dest.vhits i = false) :
    nth (landedAll l x).vec.vs i 0 = nth x.vec.vs i 0 := by
  induction l generalizing x with
  | nil => rfl
  | cons f r ih =>
    exact (ih (f.landed x) (fun g hg => h g (by simp [hg]))).trans (Flight.landed_vs f x i (h f (by simp)))

theorem landedAll_append (a b : List Flight) (x : Tile) : landedAll (a ++ b) x = landedAll b (landedAll a x) :=
  List.foldl_append ..

/-- The last result of a list that names a slot is the one that it holds. -/
theorem landedAll_last {a b : List Flight} {f : Flight} {i : Nat} {v : Word} (hf : f.dest = .data i v) (hi : i < 32)
    (hb : ∀ g ∈ b, g.dest.hits i = false) (x : Tile) : nth (landedAll (a ++ f :: b) x).core.ds i 0 = v := by
  rw [landedAll_append]
  show nth (landedAll b (f.landed (landedAll a x))).core.ds i 0 = v
  rw [landedAll_ds b _ i hb]
  exact Flight.landed_ds_self hf hi _

/-- A core with its stack slots and pending exception replaced. -/
def Tile.withLanded (x : Tile) (ds : Vector Word 32) (impr : Option (Byte × BitVec 56 × Nat)) (vs : Vector Line 8)
    (fcsr : Word) : Tile :=
  { x with
    ctl := { x.ctl with fcsr }
    vec := { x.vec with vs }
    core := { x.core with ds, impr } }

theorem Flight.landed_form (f : Flight) (x : Tile) : ∃ ds impr vs fcsr, f.landed x = x.withLanded ds impr vs fcsr := by
  unfold Flight.landed Landing.slots
  cases f.dest <;> exact ⟨_, _, _, _, rfl⟩

theorem landedAll_form (l : List Flight) (x : Tile) : ∃ ds impr vs fcsr, landedAll l x = x.withLanded ds impr vs fcsr := by
  induction l generalizing x with
  | nil => exact ⟨x.core.ds, x.core.impr, x.vec.vs, x.ctl.fcsr, rfl⟩
  | cons f r ih =>
    obtain ⟨a, b, c, d, h⟩ := f.landed_form x
    obtain ⟨a', b', c', d', h'⟩ := ih (f.landed x)
    exact ⟨a', b', c', d', h'.trans (by rw [h]; rfl)⟩

theorem landedAll_ctl (l : List Flight) (x : Tile) (h : ∀ f ∈ l, f.flags = 0) : (landedAll l x).ctl = x.ctl := by
  induction l generalizing x with
  | nil => rfl
  | cons f r ih =>
    refine (ih (f.landed x) (fun g hg => h g (by simp [hg]))).trans ?_
    have h0 := h f (by simp)
    unfold Flight.landed Landing.slots
    rw [h0]
    cases f.dest <;> simp

/-! ## Counters -/

theorem State.count_form (s : State) (t e n : Nat) :
    ∃ p, s.count t e n = s ∧ p = (s.tile t).pcnt ∨ s.count t e n = s.setTile t { s.tile t with pcnt := p } := by
  unfold State.count
  dsimp only
  split
  · exact ⟨_, .inr rfl⟩
  · exact ⟨_, .inl ⟨rfl, rfl⟩⟩

theorem State.setTile_count (s : State) (t : Nat) (x : Tile) (e n : Nat) :
    ∃ p, (s.setTile t x).count t e n = s.setTile t { x with pcnt := p } := by
  obtain ⟨p, h⟩ := (s.setTile t x).count_form t e n
  simp only [State.setTile_tile_self, State.setTile_setTile] at h
  rcases h with ⟨h, rfl⟩ | h
  · exact ⟨x.pcnt, h⟩
  · exact ⟨p, h⟩

theorem State.count_tile (s : State) (t e n : Nat) : ∃ p, (s.count t e n).tile t = { s.tile t with pcnt := p } := by
  obtain ⟨p, h⟩ := s.count_form t e n
  rcases h with ⟨h, rfl⟩ | h
  · exact ⟨_, by rw [h]⟩
  · exact ⟨p, by rw [h, State.setTile_tile_self]⟩

theorem State.count_other {s : State} {t u : Nat} (h : u ≠ t) (e n : Nat) : (s.count t e n).tile u = s.tile u := by
  obtain ⟨p, h'⟩ := s.count_form t e n
  rcases h' with ⟨h', -⟩ | h'
  · rw [h']
  · rw [h', State.setTile_tile_other _ h]

/-! ## Retiring -/

/-- The tile after an instruction's own step, before its results land (R26, R35, R38, R51, R52). -/
def Tile.stepped (x : Tile) (t : Nat) (f : Form) (flow : Flow) : Tile :=
  let y := ((x.advance (2 * f.parcels) flow).tickIssue t f).applyCwrs
  { y with core := { y.core with issued := y.core.issued + 1 } }

/-- The results that land as an instruction retires, and those that stay in flight. -/
def Tile.due (x : Tile) (t : Nat) (f : Form) (flow : Flow) : List Flight × List Flight :=
  let y := x.stepped t f flow
  let fl := y.core.flight
  if x.precise then (fl, [])
  else if fl.any (fun r => r.rem = 0 && r.ord == x.core.issued) then (fl.filter fun r => r.rem = 0, fl.filter fun r => r.rem ≠ 0)
  else ([], fl)

theorem Tile.stepped_issued (x : Tile) (t : Nat) (f : Form) (flow : Flow) :
    (((x.advance (2 * f.parcels) flow).tickIssue t f).applyCwrs).core.issued = x.core.issued := by
  unfold Tile.applyCwrs Tile.tickIssue Tile.advance
  cases flow
  · dsimp only; split <;> rfl
  · rfl
  · rfl

theorem State.landList_setTile (s : State) (t : Nat) (x : Tile) (l rest : List Flight) :
    ∃ m, ((s.setTile t x).landList t l rest).tile t =
      { landedAll l { x with core := { x.core with flight := rest } } with gmem := { x.gmem with mb := m } } := by
  unfold State.landList
  rw [State.modTile, State.setTile_tile_self, State.setTile_setTile]
  obtain ⟨g, h⟩ := State.foldl_land_tile l (s.setTile t { x with core := { x.core with flight := rest } }) t
  rw [State.setTile_tile_self] at h
  exact ⟨g, h⟩

theorem State.landList_setTile_eq (s : State) (t : Nat) (x : Tile) (l rest : List Flight)
    (h : ∀ f ∈ l, f.dest.toMemory = false) :
    (s.setTile t x).landList t l rest = s.setTile t (landedAll l { x with core := { x.core with flight := rest } }) := by
  unfold State.landList
  rw [State.modTile, State.setTile_tile_self, State.setTile_setTile, State.foldl_land_eq _ _ _ h]
  split
  · subst_vars; rfl
  · rw [State.setTile_tile_self, State.setTile_setTile]

@[simp] theorem Tile.idle_zero (x : Tile) : x.idle 0 = x := by simp [Tile.idle]

theorem longest_zero {l : List Flight} (h : ∀ f ∈ l, f.rem = 0) : longest l = 0 := by
  unfold longest
  induction l with
  | nil => rfl
  | cons f r ih =>
    rw [List.foldl_cons, h f (by simp)]
    exact ih fun g hg => h g (by simp [hg])

/-- The cycles that PRECISE waits for the results of an instruction and those before it to land (R30). -/
def Tile.late (x : Tile) (t : Nat) (f : Form) (flow : Flow) : Nat :=
  if x.precise then longest (x.stepped t f flow).core.flight else 0

/-- Retiring an instruction: the tile steps, the due results land, and the counters count. -/
theorem State.retire_eq (s : State) (t : Nat) (f : Form) (flow : Flow) :
    s.retire t f flow =
      (let x := s.tile t
      let v := (s.setTile t (x.stepped t f flow)).landList t (x.due t f flow).1 (x.due t f flow).2
      let u := if x.precise then v.modTile t fun y => y.idle (x.late t f flow) else v
      let c := (u.count t 1 1).count t 2 1
      if 0xA0 ≤ f.opc.toNat ∧ f.opc.toNat ≤ 0xBF then c.count t 13 1 else c) := by
  have hi := Tile.stepped_issued (s.tile t) t f flow
  generalize hx : s.tile t = x at hi
  have hb : (if x.precise then (s.setTile t (x.stepped t f flow)).drain t
      else if (x.stepped t f flow).core.flight.any (fun r => r.rem = 0 && r.ord == x.core.issued) then
        (s.setTile t (x.stepped t f flow)).landDue t
      else s.setTile t (x.stepped t f flow)) =
      (let v := (s.setTile t (x.stepped t f flow)).landList t (x.due t f flow).1 (x.due t f flow).2
      if x.precise then v.modTile t fun y => y.idle (x.late t f flow) else v) := by
    have hflat : (s.setTile t (x.stepped t f flow)).landList t [] (x.stepped t f flow).core.flight
        = s.setTile t (x.stepped t f flow) := by
      rw [State.landList_setTile_eq _ _ _ _ _ (by simp)]; rfl
    unfold Tile.due Tile.late
    dsimp only
    generalize x.stepped t f flow = z at hflat ⊢
    split
    · unfold State.drain
      rw [State.setTile_tile_self]
      dsimp only
      split
      · rename_i he
        rw [List.isEmpty_iff] at he
        rw [he] at hflat ⊢
        rw [hflat]
        simp [longest, State.modTile]
      · rfl
    · split
      · unfold State.landDue
        rw [State.setTile_tile_self]
        dsimp only
        split
        · rename_i ha he
          rw [List.isEmpty_iff] at he
          rw [he] at ha
          simp at ha
        · rfl
      · exact hflat.symm
  have key : s.retire t f flow =
      (let u := if x.precise then (s.setTile t (x.stepped t f flow)).drain t
        else if (x.stepped t f flow).core.flight.any (fun r => r.rem = 0 &&
          r.ord == (((x.advance (2 * f.parcels) flow).tickIssue t f).applyCwrs).core.issued) then
          (s.setTile t (x.stepped t f flow)).landDue t
        else s.setTile t (x.stepped t f flow)
      let c := (u.count t 1 1).count t 2 1
      if 0xA0 ≤ f.opc.toNat ∧ f.opc.toNat ≤ 0xBF then c.count t 13 1 else c) := by subst hx; rfl
  rw [key, hi, hb]

/-- The tile after an instruction has retired. -/
theorem State.retire_tile (s : State) (t : Nat) (f : Form) (flow : Flow) :
    let x := s.tile t
    ∃ m p, (s.retire t f flow).tile t =
      { ({ landedAll (x.due t f flow).1 { x.stepped t f flow with core := { (x.stepped t f flow).core with flight := (x.due t f flow).2 } }
        with gmem := { (x.stepped t f flow).gmem with mb := m } } : Tile).idle (x.late t f flow) with pcnt := p } := by
  intro x
  rw [State.retire_eq]
  dsimp only
  obtain ⟨g, hg⟩ := State.landList_setTile s t (x.stepped t f flow) (x.due t f flow).1 (x.due t f flow).2
  have hu : ((if x.precise then ((s.setTile t (x.stepped t f flow)).landList t (x.due t f flow).1 (x.due t f flow).2).modTile t
      (fun y => y.idle (x.late t f flow)) else
      (s.setTile t (x.stepped t f flow)).landList t (x.due t f flow).1 (x.due t f flow).2).tile t) =
      (((s.setTile t (x.stepped t f flow)).landList t (x.due t f flow).1 (x.due t f flow).2).tile t).idle (x.late t f flow) := by
    split
    · simp
    · rename_i hp
      unfold Tile.late
      rw [if_neg hp, Tile.idle_zero]
  rw [hg] at hu
  generalize (if x.precise then ((s.setTile t (x.stepped t f flow)).landList t (x.due t f flow).1 (x.due t f flow).2).modTile t
      (fun y => y.idle (x.late t f flow)) else
      (s.setTile t (x.stepped t f flow)).landList t (x.due t f flow).1 (x.due t f flow).2) = u at hu ⊢
  obtain ⟨p1, h1⟩ := u.count_tile t 1 1
  obtain ⟨p2, h2⟩ := (u.count t 1 1).count_tile t 2 1
  have h3 : ∃ p, ((u.count t 1 1).count t 2 1).tile t = { u.tile t with pcnt := p } := ⟨p2, by rw [h2, h1]⟩
  split
  · obtain ⟨p, h⟩ := ((u.count t 1 1).count t 2 1).count_tile t 13 1
    obtain ⟨q, hq⟩ := h3
    exact ⟨g, p, by rw [h, hq, hu]⟩
  · obtain ⟨q, hq⟩ := h3
    exact ⟨g, q, by rw [hq, hu]⟩

/-! ## An instruction and where it goes on -/

/-- A tile after an instruction's own step. -/
theorem Tile.stepped_flow (x : Tile) (t : Nat) (f : Form) (flow : Flow) :
    x.stepped t f flow =
      { x with
        vec := { x.vec with port := x.vec.port - 1 }
        ctl := (x.nearerWrites.filter fun w => w.rem = 0).foldl
          (fun c w => ctlWrite c w.index w.value) (x.goesCtl (2 * f.parcels) flow)
        core := { x.core with
          branch := x.goesBranch flow
          pc := x.goesOn (2 * f.parcels) flow
          shLeft := if f.noShadow then x.core.shLeft else x.core.shLeft - 1
          flight := x.core.flight.map fun (r : Flight) => { r with rem := r.rem - 1 }
          cwrs := x.nearerWrites.filter fun w => w.rem ≠ 0
          cycle := x.core.cycle + BitVec.ofNat 64 (1 + Config.freeze t x.core.issued)
          doing := .issue
          issued := x.core.issued + 1 } } := by
  unfold Tile.stepped Tile.applyCwrs Tile.tickIssue Tile.advance Tile.goesOn Tile.goesCtl Tile.goesBranch Tile.nearerWrites
  cases flow with
  | seq =>
    unfold Tile.nextPc Tile.nextCtl
    dsimp only
    split <;> rename_i h <;> simp only [h]
  | branch b => rfl
  | jump a => rfl

/-- The results of an instruction that are put in flight for its new data slots. -/
def newFlights (x : Tile) (pops : Nat) (vals : List Word) (d : Nat) : List Flight :=
  vals.mapIdx fun i v =>
    { ord := x.core.issued, rem := d + 1, dest := .data (x.core.d - pops + i) v, flags := 0, exc := none
      pc := x.core.pc : Flight }

/-- The results of an instruction that are put in flight for its new vector slots. -/
def newVFlights (x : Tile) (pops : Nat) (vals : List Line) (d : Nat) : List Flight :=
  vals.mapIdx fun i v =>
    { ord := x.core.issued, rem := d + 1, dest := .vec (x.vec.vd - pops + i) v, flags := 0, exc := none
      pc := x.core.pc : Flight }

/-- An instruction's flags and exception in flight. -/
def flagFlights (x : Tile) (d : Nat) (flags : BitVec 7) (exc : Option Byte) : List Flight :=
  if flags = 0 ∧ exc = none then []
  else [{ ord := x.core.issued, rem := d + 1, dest := .flagsOnly, flags, exc, pc := x.core.pc }]

/-- Everything that an instruction puts in flight. -/
def Gives.flights (r : Gives) (x : Tile) : List Flight :=
  newFlights x r.pops r.vals r.d ++ (newVFlights x r.vpops r.vvals r.d ++ flagFlights x r.d r.flags r.exc)

/-- The state in which an instruction has put what it gives in flight. -/
def State.give (s : State) (t : Nat) (r : Gives) : State :=
  (((s.push t r.pops r.vals r.d).pushV t r.vpops r.vvals r.d)).putFlags t r.d r.flags r.exc

/-- The tile in which an instruction has put what it gives in flight. -/
def Gives.given (r : Gives) (x : Tile) : Tile :=
  { x with
    core := { x.core with
      d := x.core.d - r.pops + r.vals.length
      flight := x.core.flight ++ r.flights x }
    vec := { x.vec with vd := x.vec.vd - r.vpops + r.vvals.length } }

theorem State.give_eq (s : State) (t : Nat) (r : Gives) : s.give t r = s.setTile t (r.given (s.tile t)) := by
  unfold State.give State.putFlags State.pushV State.push Gives.given Gives.flights flagFlights
  split
  · simp [State.modTile, newFlights, newVFlights]
  · simp [State.modTile, newFlights, newVFlights]

theorem State.give_tile (s : State) (t : Nat) (r : Gives) : (s.give t r).tile t = r.given (s.tile t) := by
  rw [State.give_eq, State.setTile_tile_self]

/-- An instruction that gives data results alone. -/
theorem State.push_give (s : State) (t pops : Nat) (vals : List Word) (d : Nat) :
    s.push t pops vals d = s.give t { pops, vals, d } := by
  rw [State.give_eq]
  simp [State.push, State.modTile, Gives.given, Gives.flights, newFlights, newVFlights, flagFlights]

/-- An instruction that gives vector results alone. -/
theorem State.pushV_give (s : State) (t vpops : Nat) (vvals : List Line) (d : Nat) :
    s.pushV t vpops vvals d = s.give t { vpops, vvals, d } := by
  rw [State.give_eq]
  simp [State.pushV, State.modTile, Gives.given, Gives.flights, newFlights, newVFlights, flagFlights]

theorem getElem_mapIdx_split {α β : Type} (g : Nat → α → β) {l : List α} {i : Nat} (h : i < l.length) :
    ∃ a b, l.mapIdx g = a ++ g i l[i] :: b ∧ ∀ z ∈ b, ∃ j, ∃ hj : j < l.length, i < j ∧ z = g j l[j] := by
  have hlen : i < (l.mapIdx g).length := by simpa using h
  refine ⟨(l.mapIdx g).take i, (l.mapIdx g).drop (i + 1), ?_, ?_⟩
  · have := List.take_append_drop i (l.mapIdx g)
    rw [List.drop_eq_getElem_cons hlen] at this
    simpa using this.symm
  · intro z hz
    rw [List.mem_drop_iff_getElem] at hz
    obtain ⟨j, hj, rfl⟩ := hz
    simp only [List.length_mapIdx] at hj
    exact ⟨i + 1 + j, by omega, by omega, by simp⟩

theorem mem_mapIdx {α β : Type} (g : Nat → α → β) {l : List α} {z : β} (h : z ∈ l.mapIdx g) :
    ∃ j, ∃ hj : j < l.length, z = g j l[j] := by
  rw [List.mem_mapIdx] at h
  obtain ⟨j, hj, rfl⟩ := h
  exact ⟨j, hj, rfl⟩

theorem Tile.due_mem {x : Tile} {t : Nat} {f : Form} {flow : Flow} {g : Flight} (h : g ∈ (x.due t f flow).1) :
    g ∈ (x.stepped t f flow).core.flight := by
  unfold Tile.due at h
  dsimp only at h
  split at h
  · exact h
  · split at h
    · exact List.mem_of_mem_filter h
    · simp at h

theorem Gives.flights_mem {r : Gives} {x : Tile} {g : Flight} (h : g ∈ r.flights x) :
    g.rem = r.d + 1 ∧ g.ord = x.core.issued ∧ (r.flags = 0 → g.flags = 0) ∧ g.dest.toMemory = false ∧
    ((∃ i, ∃ hi : i < r.vals.length, g.dest = .data (r.base x + i) r.vals[i]) ∨
     (∃ i, ∃ hi : i < r.vvals.length, g.dest = .vec (r.vbase x + i) r.vvals[i]) ∨ g.dest = .flagsOnly) := by
  unfold Gives.flights at h
  rcases List.mem_append.1 h with h | h
  · obtain ⟨i, hi, rfl⟩ := mem_mapIdx _ h
    exact ⟨rfl, rfl, fun _ => rfl, rfl, .inl ⟨i, hi, rfl⟩⟩
  · rcases List.mem_append.1 h with h | h
    · obtain ⟨i, hi, rfl⟩ := mem_mapIdx _ h
      exact ⟨rfl, rfl, fun _ => rfl, rfl, .inr (.inl ⟨i, hi, rfl⟩)⟩
    · unfold flagFlights at h
      split at h
      · simp at h
      · simp only [List.mem_singleton] at h
        subst h
        exact ⟨rfl, rfl, id, rfl, .inr (.inr rfl)⟩

/-- A given and stepped tile's flights: those of before and the new ones, each one instruction nearer. -/
theorem stepped_flight_mem {x y : Tile} {t : Nat} {f : Form} {flow : Flow} {r : Gives} {g : Flight}
    (hy : y.core.flight = x.core.flight ++ r.flights x) (h : g ∈ (y.stepped t f flow).core.flight) :
    ∃ q, (q ∈ x.core.flight ∨ q ∈ r.flights x) ∧ g = { q with rem := q.rem - 1 } := by
  rw [Tile.stepped_flow] at h
  simp only [List.mem_map] at h
  obtain ⟨q, hq, rfl⟩ := h
  rw [hy] at hq
  exact ⟨q, List.mem_append.1 hq, rfl⟩

theorem Tile.slotFree_iff {x : Tile} {i : Nat} : x.slotFree i = true ↔ ∀ r ∈ x.core.flight, r.dest.hits i = false := by
  unfold Tile.slotFree Landing.hits
  rw [List.all_eq_true]
  refine forall_congr' fun r => forall_congr' fun _ => ?_
  cases r.dest <;> simp

theorem Tile.vslotFree_iff {x : Tile} {i : Nat} : x.vslotFree i = true ↔ ∀ r ∈ x.core.flight, r.dest.vhits i = false := by
  unfold Tile.vslotFree Landing.vhits
  rw [List.all_eq_true]
  refine forall_congr' fun r => forall_congr' fun _ => ?_
  cases r.dest <;> simp

theorem Tile.noScatter_iff {x : Tile} : x.noScatter = true ↔ ∀ r ∈ x.core.flight, r.dest.toMemory = false := by
  unfold Tile.noScatter Landing.toMemory
  rw [List.all_eq_true]
  refine forall_congr' fun r => forall_congr' fun _ => ?_
  cases r.dest <;> simp

/-- The registers of a tile that has stepped and in which results have landed. -/
theorem State.retire_form (s : State) (t : Nat) (f : Form) (flow : Flow) :
    ∃ ds impr vs fcsr g p,
      let x := s.tile t
      let z := x.stepped t f flow
      let y := (s.retire t f flow).tile t
      y = { z with
        ctl := { z.ctl with fcsr }
        vec := { z.vec with vs, port := z.vec.port - x.late t f flow }
        core := { z.core with
          ds, impr, flight := (x.due t f flow).2, cycle := z.core.cycle + BitVec.ofNat 64 (x.late t f flow) }
        gmem := { z.gmem with mb := g }, pcnt := p } ∧
      (∀ i, nth ds i 0 = nth (landedAll (x.due t f flow).1 z).core.ds i 0) ∧
      (∀ i, nth vs i 0 = nth (landedAll (x.due t f flow).1 z).vec.vs i 0) ∧
      ((∀ r ∈ (x.due t f flow).1, r.flags = 0) → fcsr = z.ctl.fcsr) ∧
      fcsr = (landedAll (x.due t f flow).1 z).ctl.fcsr := by
  obtain ⟨g, p, h⟩ := s.retire_tile t f flow
  dsimp only at h ⊢
  generalize hz : (s.tile t).stepped t f flow = z at h ⊢
  generalize hL : (s.tile t).due t f flow = L at h ⊢
  obtain ⟨ds, impr, vs, fcsr, hl⟩ := landedAll_form L.1 { z with core := { z.core with flight := L.2 } }
  have hfl : ∀ (l : List Flight) (y : Tile) (fl : List Flight),
      (landedAll l { y with core := { y.core with flight := fl } }).core.ds = (landedAll l y).core.ds ∧
      (landedAll l { y with core := { y.core with flight := fl } }).vec.vs = (landedAll l y).vec.vs ∧
      (landedAll l { y with core := { y.core with flight := fl } }).ctl = (landedAll l y).ctl := by
    intro l
    induction l with
    | nil => intro y fl; exact ⟨rfl, rfl, rfl⟩
    | cons a r ih =>
      intro y fl
      have : a.landed { y with core := { y.core with flight := fl } } =
          { a.landed y with core := { (a.landed y).core with flight := fl } } := by
        unfold Flight.landed Landing.slots; cases a.dest <;> rfl
      show (landedAll r (a.landed _)).core.ds = _ ∧ (landedAll r (a.landed _)).vec.vs = _ ∧ (landedAll r (a.landed _)).ctl = _
      rw [this]
      exact ih (a.landed y) fl
  refine ⟨ds, impr, vs, fcsr, g, p, ?_, ?_, ?_, ?_, ?_⟩
  · rw [h, hl]; rfl
  · intro i; rw [← (hfl L.1 z L.2).1, hl]; rfl
  · intro i; rw [← (hfl L.1 z L.2).2.1, hl]; rfl
  · intro hf
    have := landedAll_ctl L.1 { z with core := { z.core with flight := L.2 } } hf
    rw [hl] at this
    exact congrArg Ctl.fcsr this
  · rw [← (hfl L.1 z L.2).2.2, hl]; rfl

theorem State.retire_outside (s : State) (t : Nat) (f : Form) (flow : Flow)
    (h : ∀ g ∈ ((s.tile t).due t f flow).1, g.dest.toMemory = false) :
    s.retire t f flow = s.setTile t ((s.retire t f flow).tile t) := by
  suffices h : ∃ z, s.retire t f flow = s.setTile t z by
    obtain ⟨z, hz⟩ := h
    rw [hz, State.setTile_tile_self]
  rw [State.retire_eq]
  dsimp only
  rw [State.landList_setTile_eq _ _ _ _ _ h]
  generalize landedAll _ _ = z
  generalize hw : (if (s.tile t).precise then (s.setTile t z).modTile t fun y => y.idle ((s.tile t).late t f flow)
    else s.setTile t z) = w
  obtain ⟨z, rfl⟩ : ∃ z', w = s.setTile t z' := by
    rw [← hw]
    split
    · exact ⟨_, by rw [State.modTile, State.setTile_tile_self, State.setTile_setTile]⟩
    · exact ⟨_, rfl⟩
  obtain ⟨p1, h1⟩ := s.setTile_count t z 1 1
  rw [h1]
  obtain ⟨p2, h2⟩ := s.setTile_count t { z with pcnt := p1 } 2 1
  rw [h2]
  split
  · obtain ⟨p3, h3⟩ := s.setTile_count t { { z with pcnt := p1 } with pcnt := p2 } 13 1
    exact ⟨_, h3⟩
  · exact ⟨_, rfl⟩

/-- One instruction less until a result lands. -/
def Flight.nearer (f : Flight) : Flight := { f with rem := f.rem - 1 }

theorem landedAll_vlast {a b : List Flight} {f : Flight} {i : Nat} {v : Line} (hf : f.dest = .vec i v) (hi : i < 8)
    (hb : ∀ g ∈ b, g.dest.vhits i = false) (x : Tile) : nth (landedAll (a ++ f :: b) x).vec.vs i 0 = v := by
  rw [landedAll_append]
  show nth (landedAll b (f.landed (landedAll a x))).vec.vs i 0 = v
  rw [landedAll_vs b _ i hb]
  unfold Flight.landed Landing.slots
  rw [hf]
  exact nth_set_self _ hi _ _

theorem landedAll_fcsr (l : List Flight) (x : Tile) (w : Word)
    (h : x.ctl.fcsr ||| w = x.ctl.fcsr ∨ ∃ f ∈ l, f.flags.setWidth 64 = w) :
    (landedAll l x).ctl.fcsr ||| w = (landedAll l x).ctl.fcsr := by
  have one : ∀ (f : Flight) (y : Tile), (f.landed y).ctl.fcsr = y.ctl.fcsr ||| f.flags.setWidth 64 := by
    intro f y; unfold Flight.landed Landing.slots; cases f.dest <;> rfl
  induction l generalizing x with
  | nil =>
    rcases h with h | ⟨f, hf, -⟩
    · exact h
    · simp at hf
  | cons f r ih =>
    refine ih (f.landed x) ?_
    rcases h with h | ⟨g, hg, hw⟩
    · left
      rw [one]
      conv_rhs => rw [← h]
      simp only [BitVec.or_assoc]
      rw [BitVec.or_comm w]
    · rcases List.mem_cons.1 hg with rfl | hg
      · left; rw [one, hw, BitVec.or_assoc, BitVec.or_self]
      · right; exact ⟨g, hg, hw⟩

/-- An instruction that puts what it gives in flight, and then goes on, leaves what Ran says. -/
theorem State.ran (s : State) (t : Nat) (f : Form) (flow : Flow) (r : Gives) :
    Ran s ((s.give t r).retire t f flow) t f flow r := by
  obtain ⟨ds, impr, vs, fcsr, g, p, hy, hds, hvs, hfc, hfl⟩ := (s.give t r).retire_form t f flow
  have hout := (s.give t r).retire_outside t f flow
  have hgive := s.give_tile t r
  have hset := s.give_eq t r
  generalize hs' : (s.give t r).retire t f flow = s' at *
  generalize hx : s.tile t = x at *
  generalize hx1 : (s.give t r).tile t = x1 at *
  have hfl1 : x1.core.flight = x.core.flight ++ r.flights x := by rw [hgive]; rfl
  have hprec : x1.precise = x.precise := by rw [hgive]; rfl
  have hiss : x1.core.issued = x.core.issued := by rw [hgive]; rfl
  have hz := Tile.stepped_flow x1 t f flow
  have hmem : ∀ e ∈ (x1.due t f flow).1, ∃ q, (q ∈ x.core.flight ∨ q ∈ r.flights x) ∧ e = { q with rem := q.rem - 1 } :=
    fun e he => stepped_flight_mem hfl1 (Tile.due_mem he)
  have hzfl : (x1.stepped t f flow).core.flight = x.core.flight.map Flight.nearer ++ (r.flights x).map Flight.nearer := by
    rw [hz]; simp only [hfl1, List.map_append]; rfl
  -- the list that lands, where an instruction's results land at once: older ones, then its own
  have hland : r.atOnce x → ∀ e ∈ r.flights x, ∃ a,
      (x1.due t f flow).1 = a ++ (r.flights x).map Flight.nearer := by
    intro hcase e he
    have hnew : ∀ q ∈ (r.flights x).map Flight.nearer, q.rem = r.d := by
      intro q hq
      obtain ⟨k, hk, rfl⟩ := List.mem_map.1 hq
      show k.rem - 1 = r.d
      rw [(Gives.flights_mem hk).1]; rfl
    rcases hcase with ⟨hp, hd⟩ | ⟨hp, hnil⟩
    · refine ⟨(x.core.flight.map Flight.nearer).filter fun e => e.rem = 0, ?_⟩
      unfold Tile.due
      dsimp only
      rw [if_neg (by rw [hprec, hp]; simp), if_pos]
      · show ((x1.stepped t f flow).core.flight.filter fun e => e.rem = 0) = _
        have hall : ((r.flights x).map Flight.nearer).filter (fun e => e.rem = 0) = (r.flights x).map Flight.nearer := by
          rw [List.filter_eq_self]
          intro q hq
          simp [hnew q hq, hd]
        rw [hzfl, List.filter_append, hall]
      · rw [hzfl, List.any_append, Bool.or_eq_true]
        right
        rw [List.any_eq_true]
        refine ⟨e.nearer, List.mem_map_of_mem he, ?_⟩
        have := Gives.flights_mem he
        simp [Flight.nearer, this.1, this.2.1, hd, hiss]
    · refine ⟨[], ?_⟩
      unfold Tile.due
      dsimp only
      rw [if_pos (by rw [hprec, hp]), hzfl, hnil]
      rfl
  have hstay : x.precise = false → r.d ≠ 0 → ∀ e ∈ r.flights x, e.nearer ∈ (s'.tile t).core.flight := by
    intro hp hd e he
    rw [hy]
    show e.nearer ∈ (x1.due t f flow).2
    have hein : e.nearer ∈ (x1.stepped t f flow).core.flight := by
      rw [hzfl]; exact List.mem_append_right _ (List.mem_map_of_mem he)
    have hrem : e.nearer.rem = r.d := by show e.rem - 1 = _; rw [(Gives.flights_mem he).1]; rfl
    unfold Tile.due
    dsimp only
    rw [if_neg (by rw [hprec, hp]; simp)]
    split
    · rw [List.mem_filter]; exact ⟨hein, by simp [hrem, hd]⟩
    · exact hein
  have hon : x1.goesOn (2 * f.parcels) flow = x.goesOn (2 * f.parcels) flow := by
    rw [hgive]; unfold Tile.goesOn Tile.nextPc; cases flow <;> rfl
  have hcon : x1.goesCtl (2 * f.parcels) flow = x.goesCtl (2 * f.parcels) flow := by
    rw [hgive]; unfold Tile.goesCtl Tile.nextCtl; cases flow <;> rfl
  have hbr : x1.goesBranch flow = x.goesBranch flow := by
    rw [hgive]; unfold Tile.goesBranch; cases flow <;> rfl
  have hnw : x1.nearerWrites = x.nearerWrites := by rw [hgive]; rfl
  rw [hon, hcon, hbr, hnw] at hz
  have hlate : x.precise = false ∨ x.core.flight = [] ∧ r.d = 0 → x1.late t f flow = 0 := by
    intro h
    unfold Tile.late
    split
    · rename_i hp
      rw [hprec] at hp
      rcases h with h | ⟨hnil, hd⟩
      · rw [h] at hp; simp at hp
      · refine longest_zero fun e he => ?_
        rw [hzfl, hnil, List.map_nil, List.nil_append] at he
        obtain ⟨k, hk, rfl⟩ := List.mem_map.1 he
        show k.rem - 1 = 0
        rw [(Gives.flights_mem hk).1, hd]
    · rfl
  refine ⟨?_, ?_, ?_, ?_, ?_, ?_, ?_, ?_, ?_, ?_, ?_, ?_, ?_, ?_, ?_, ?_, ?_, ?_, ?_, ?_, ?_, ?_⟩
  · rw [hy, hz, hgive, hx]; rfl
  · intro i hi h32 hcase
    rw [hx] at h32 hcase ⊢
    obtain ⟨a, b, hab, hb⟩ := getElem_mapIdx_split (fun i (v : Word) =>
      ({ ord := x.core.issued, rem := r.d + 1, dest := .data (x.core.d - r.pops + i) v, flags := 0, exc := none
         pc := x.core.pc } : Flight)) hi
    have hfs : r.flights x = a ++ ({ ord := x.core.issued, rem := r.d + 1, dest := .data (x.core.d - r.pops + i) r.vals[i]
                                     flags := 0, exc := none, pc := x.core.pc } : Flight) :: (b ++ (newVFlights x r.vpops r.vvals r.d ++ flagFlights x r.d r.flags r.exc)) := by
      unfold Gives.flights newFlights
      rw [hab, List.append_assoc]; rfl
    obtain ⟨c, hc⟩ := hland hcase _ (by rw [hfs]; exact List.mem_append_right _ (List.mem_cons_self ..))
    rw [hy]
    show nth ds _ 0 = _
    rw [hds, hc, hfs, List.map_append, List.map_cons, ← List.append_assoc]
    refine landedAll_last rfl h32 ?_ _
    intro q hq
    obtain ⟨k, hk, rfl⟩ := List.mem_map.1 hq
    rcases List.mem_append.1 hk with hk | hk
    · obtain ⟨j, hj, hij, rfl⟩ := hb k hk
      simp only [Flight.nearer, Landing.hits, Gives.base, beq_eq_false_iff_ne]
      omega
    · rcases List.mem_append.1 hk with hk | hk
      · obtain ⟨j, hj, rfl⟩ := mem_mapIdx _ hk; rfl
      · unfold flagFlights at hk
        split at hk
        · simp at hk
        · simp only [List.mem_singleton] at hk; subst hk; rfl
  · intro i hi hp hd
    rw [hx] at hp ⊢
    refine ⟨_, hstay hp hd { ord := x.core.issued, rem := r.d + 1, dest := .data (x.core.d - r.pops + i) r.vals[i], flags := 0
                             exc := none, pc := x.core.pc } ?_, rfl, rfl⟩
    unfold Gives.flights newFlights
    refine List.mem_append_left _ ?_
    rw [List.mem_mapIdx]
    exact ⟨i, hi, rfl⟩
  · intro i hi hfree
    rw [hx] at hi hfree ⊢
    rw [hy]
    show nth ds _ 0 = _
    rw [hds, landedAll_ds]
    · rw [hz, hgive]; rfl
    · intro e he
      obtain ⟨q, hq, rfl⟩ := hmem e he
      rcases hq with hq | hq
      · exact Tile.slotFree_iff.1 hfree q hq
      · show q.dest.hits i = false
        rcases (Gives.flights_mem hq).2.2.2.2 with ⟨j, hj, h⟩ | ⟨j, hj, h⟩ | h
        · rw [h]
          simp only [Landing.hits, beq_eq_false_iff_ne]
          omega
        · rw [h]; rfl
        · rw [h]; rfl
  · rw [hy, hz, hgive, hx]; exact ⟨rfl, rfl⟩
  · rw [hy, hz, hgive, hx]; rfl
  · intro i hi h8 hcase
    rw [hx] at h8 hcase ⊢
    obtain ⟨a, b, hab, hb⟩ := getElem_mapIdx_split (fun i (v : Line) =>
      ({ ord := x.core.issued, rem := r.d + 1, dest := .vec (x.vec.vd - r.vpops + i) v, flags := 0, exc := none
         pc := x.core.pc } : Flight)) hi
    have hfs : r.flights x = (newFlights x r.pops r.vals r.d ++ a) ++
        ({ ord := x.core.issued, rem := r.d + 1, dest := .vec (x.vec.vd - r.vpops + i) r.vvals[i]
           flags := 0, exc := none, pc := x.core.pc } : Flight) :: (b ++ flagFlights x r.d r.flags r.exc) := by
      unfold Gives.flights newVFlights
      rw [hab]; simp only [List.append_assoc, List.cons_append]
    obtain ⟨c, hc⟩ := hland hcase _ (by rw [hfs]; exact List.mem_append_right _ (List.mem_cons_self ..))
    rw [hy]
    show nth vs _ 0 = _
    rw [hvs, hc, hfs, List.map_append, List.map_cons, ← List.append_assoc]
    refine landedAll_vlast rfl h8 ?_ _
    intro q hq
    obtain ⟨k, hk, rfl⟩ := List.mem_map.1 hq
    rcases List.mem_append.1 hk with hk | hk
    · obtain ⟨j, hj, hij, rfl⟩ := hb k hk
      simp only [Flight.nearer, Landing.vhits, Gives.vbase, beq_eq_false_iff_ne]
      omega
    · unfold flagFlights at hk
      split at hk
      · simp at hk
      · simp only [List.mem_singleton] at hk; subst hk; rfl
  · intro i hi hp hd
    rw [hx] at hp ⊢
    refine ⟨_, hstay hp hd { ord := x.core.issued, rem := r.d + 1, dest := .vec (x.vec.vd - r.vpops + i) r.vvals[i], flags := 0
                             exc := none, pc := x.core.pc } ?_, rfl, rfl⟩
    unfold Gives.flights newVFlights
    refine List.mem_append_right _ (List.mem_append_left _ ?_)
    rw [List.mem_mapIdx]
    exact ⟨i, hi, rfl⟩
  · intro i hi hfree
    rw [hx] at hi hfree ⊢
    rw [hy]
    show nth vs _ 0 = _
    rw [hvs, landedAll_vs]
    · rw [hz, hgive]; rfl
    · intro e he
      obtain ⟨q, hq, rfl⟩ := hmem e he
      rcases hq with hq | hq
      · exact Tile.vslotFree_iff.1 hfree q hq
      · show q.dest.vhits i = false
        rcases (Gives.flights_mem hq).2.2.2.2 with ⟨j, hj, h⟩ | ⟨j, hj, h⟩ | h
        · rw [h]; rfl
        · rw [h]
          simp only [Landing.vhits, beq_eq_false_iff_ne]
          omega
        · rw [h]; rfl
  · intro hcase
    rw [hx] at hcase
    rw [hy]
    show fcsr ||| _ = fcsr
    rw [hfl]
    refine landedAll_fcsr _ _ _ ?_
    by_cases h0 : r.flags = 0
    · left; rw [h0]; simp
    · right
      have he : ({ ord := x.core.issued, rem := r.d + 1, dest := .flagsOnly, flags := r.flags, exc := r.exc
                   pc := x.core.pc } : Flight) ∈ r.flights x := by
        unfold Gives.flights flagFlights
        rw [if_neg (fun h => h0 h.1)]
        simp
      obtain ⟨c, hc⟩ := hland hcase _ he
      exact ⟨_, by rw [hc]; exact List.mem_append_right _ (List.mem_map_of_mem he), rfl⟩
  · intro hp hd hne
    rw [hx] at hp
    refine ⟨_, hstay hp hd { ord := x.core.issued, rem := r.d + 1, dest := .flagsOnly, flags := r.flags, exc := r.exc
                             pc := x.core.pc } ?_, rfl, rfl, rfl⟩
    unfold Gives.flights flagFlights
    rw [if_neg (fun h => by rcases hne with hne | hne; exacts [hne h.1, hne h.2])]
    simp
  · intro hp e he h1
    rw [hx] at hp he
    rw [hy]
    show e.nearer ∈ (x1.due t f flow).2
    have hein : e.nearer ∈ (x1.stepped t f flow).core.flight := by
      rw [hzfl]; exact List.mem_append_left _ (List.mem_map_of_mem he)
    have hrem : e.nearer.rem ≠ 0 := by show e.rem - 1 ≠ 0; omega
    unfold Tile.due
    dsimp only
    rw [if_neg (by rw [hprec, hp]; simp)]
    split
    · rw [List.mem_filter]; exact ⟨hein, by simp [hrem]⟩
    · exact hein
  · rw [hy, hz, hgive, hx]
  · rw [hy, hz, hgive, hx]
  · rw [hy, hz, hgive, hx]; exact ⟨rfl, rfl, rfl⟩
  · intro h
    rw [hx] at h ⊢
    rw [hy, hlate h, hz, hgive]
    simp [Gives.given]
  · rw [hy, hz, hgive, hx]; exact ⟨rfl, rfl, rfl⟩
  · rw [hy, hz, hgive, hx]
  · intro hnil h0
    rw [hx] at hnil ⊢
    have hfc' := hfc (by
      intro e he
      obtain ⟨q, hq, rfl⟩ := hmem e he
      rw [hnil] at hq
      rcases hq with hq | hq
      · simp at hq
      · exact (Gives.flights_mem hq).2.2.1 h0)
    have hctl : (s'.tile t).ctl = (x1.stepped t f flow).ctl := by rw [hy, hfc']
    rw [hctl, hz]
  · intro h
    rw [hx] at h ⊢
    rw [hy, hlate h, hz, hgive]
    rfl
  · rw [hx, hy, hz, hgive]
    exact ⟨rfl, rfl, rfl, rfl, rfl, rfl, rfl, rfl, rfl, rfl, rfl, rfl, rfl, rfl, rfl, rfl, rfl⟩
  · intro hns
    rw [hx] at hns
    have := hout (by
      intro e he
      obtain ⟨q, hq, rfl⟩ := hmem e he
      rcases hq with hq | hq
      · exact Tile.noScatter_iff.1 hns q hq
      · exact (Gives.flights_mem hq).2.2.2.1)
    rw [hset, State.setTile_setTile] at this
    exact this

/-! ## Issuing -/

/-- A tile that can issue holds no instruction that moves lines or rows. -/
theorem State.finishLines_of_canIssue {s : State} {t : Nat} (h : (s.tile t).canIssue = true) : s.finishLines t = s := by
  have hd : (s.tile t).core.doing = .issue := by
    unfold Tile.canIssue at h
    simp only [Bool.and_eq_true, beq_iff_eq] at h
    exact h.1.1.2
  unfold State.finishLines Tile.longIn
  rw [hd]

/-- A tile that takes an instruction whose checks pass performs its body at the boundary. -/
theorem State.issue_of {s : State} {t : Nat} {f : Form} (h : s.issues t f) (body : State → Res) :
    s.issue t f body = (body (s.boundary t f.parcels)).conclude t f := by
  obtain ⟨⟨hc, hg, hb, hi⟩, hk⟩ := h
  unfold State.issue
  rw [State.finishLines_of_canIssue hc]
  dsimp only
  rw [hc, hg, hb]
  simp only [Bool.and_self, Bool.not_true, Bool.false_eq_true, if_false]
  rw [hi, if_neg (by simp)]
  unfold State.boundary at hk ⊢
  rw [hk]

/-- Retiring looks at a tile and replaces it. -/
theorem State.retire_self (s : State) (t : Nat) (f : Form) (flow : Flow) :
    (s.setTile t (s.tile t)).retire t f flow = s.retire t f flow := by
  rw [State.retire_eq, State.retire_eq, State.setTile_tile_self]
  dsimp only
  rw [State.setTile_setTile]

/-- Issuing an instruction whose body gives results after an effect of its own. -/
theorem State.issue_ran {s u v : State} {t : Nat} {f : Form} {r : Gives} {body : State → Res} (h : s.issues t f)
    (hu : s.boundary t f.parcels = u) {flow : Flow} (hb : body u = .ok (v.give t r) flow) :
    ∃ s', (Host.Outcome.next (s.issue t f body) : Ans) = .next s' ∧ Ran v s' t f flow r :=
  ⟨_, rfl, by rw [State.issue_of h, hu, hb]; exact State.ran v t f flow r⟩

/-- Issuing an instruction whose body has an effect of its own and gives nothing. -/
theorem State.issue_ran_none {s u v : State} {t : Nat} {f : Form} {body : State → Res} (h : s.issues t f)
    (hu : s.boundary t f.parcels = u) {flow : Flow} (hb : body u = .ok v flow) :
    ∃ s', (Host.Outcome.next (s.issue t f body) : Ans) = .next s' ∧ Ran v s' t f flow {} := by
  refine ⟨_, rfl, ?_⟩
  rw [State.issue_of h, hu, hb]
  have := State.ran v t f flow {}
  rw [State.give_eq] at this
  have he : (({} : Gives).given (v.tile t)) = v.tile t := by
    simp [Gives.given, Gives.flights, newFlights, newVFlights, flagFlights]
  rw [he, State.retire_self] at this
  exact this

end Sys2Proof.Machine
end

