-- ==== Sys2Proof/Machine/Evidence.lean ====
section
/-! DEFINITION. The evidence of the device and of a partition: an EAT in CBOR, signed as a COSE_Sign (R389, R390). The digests
and signatures are opaque. No command asks for the evidence: the spec does not say how a verifier does. -/

namespace Sys2Proof.Machine

/-! ## CBOR (RFC 8949) -/

/-- The head of a data item: its major type and its argument in the shortest form, most significant byte first. -/
def cborHead (major n : Nat) : List Byte :=
  let head (info : Nat) : Byte := BitVec.ofNat 8 (32 * major + info)
  if n < 24 then [head n]
  else if n < 2 ^ 8 then head 24 :: natBytes 1 n
  else if n < 2 ^ 16 then head 25 :: (natBytes 2 n).reverse
  else if n < 2 ^ 32 then head 26 :: (natBytes 4 n).reverse
  else head 27 :: (natBytes 8 n).reverse

/-- An integer. -/
def cborInt (i : Int) : List Byte := if i < 0 then cborHead 1 (-1 - i).toNat else cborHead 0 i.toNat

/-- A byte string. -/
def cborBytes (bs : List Byte) : List Byte := cborHead 2 bs.length ++ bs

/-- The bytes of an ASCII text. -/
def ascii (t : String) : List Byte := t.toList.map fun c => BitVec.ofNat 8 c.toNat

/-- A text string. -/
def cborText (t : String) : List Byte := cborHead 3 (ascii t).length ++ ascii t

/-- An array of items. -/
def cborArray (items : List (List Byte)) : List Byte := cborHead 4 items.length ++ items.flatten

/-- A map whose keys are integers. -/
def cborMap (pairs : List (Int × List Byte)) : List Byte :=
  cborHead 5 pairs.length ++ pairs.flatMap fun e => cborInt e.1 ++ e.2

/-- A tagged item. -/
def cborTag (tag : Nat) (item : List Byte) : List Byte := cborHead 6 tag ++ item

/-! ## The claims (R389) -/

/-- n opaque bytes of a digest, a key or a signature, by its kind and what it covers. -/
def opaqueBytes (n kind a b : Nat) : List Byte :=
  ((List.range ((n + 7) / 8)).flatMap fun i => natBytes 8 (crypto (1024 * (kind + 1) + i) a b).toNat).take n

/-- Whose evidence it is: the device's, signed by the alias-2 keys of the active Square, or a partition's, signed by its alias-3
keys (R387, R389). -/
def State.signer (s : State) (part : Option PartNo) : Nat :=
  match part with
  | none => s.sq.which
  | some p => 2 + p.toNat

/-- The measurements, by layer: the ROM, M1, M2, and M3 of the partition (R387, R389). -/
def State.measured (s : State) (part : Option PartNo) : List (Int × List Byte) :=
  let layer (n : Nat) : Int × List Byte := ((n : Int), cborBytes (opaqueBytes 48 0 n 0))
  let own : List (Int × List Byte) := match part.bind fun p => s.parts.find? fun e => e.1 = p.toNat with
    | none => []
    | some e => [(3, cborBytes (opaqueBytes 48 0 3 (e.1 + 64 * leNat e.2.desc.imgdig)))]
  [layer 0, layer 1, layer 2] ++ own

/-- The partition claim: its id, quarters and keyed state (R389, R396). -/
def State.partClaim (s : State) (p : PartNo) : List Byte :=
  match s.parts.find? fun e => e.1 = p.toNat with
  | some e => cborArray [cborInt p.toNat, cborInt e.2.desc.qmask.toNat, cborInt (if e.2.keying = .keyed then 1 else 0)]
  | none => cborArray []

/-- The claims map (R389). -/
def State.claims (s : State) (nonce : List Byte) (part : Option PartNo) : List Byte :=
  let common : List (Int × List Byte) :=
    [(10, cborBytes nonce), (256, cborBytes (1 :: opaqueBytes 16 1 s.sq.uid.toNat 0)), (259, cborText "BXP-2064")
     , (260, cborText (if Config.stepB1 then "B1" else "B0")), (263, cborInt s.dbgstat), (-70000, cborMap (s.measured part))
     , (-70001, cborArray [cborInt (s.sq.flash.fwA.getD 0).toNat, cborInt (s.sq.flash.fwB.getD 0).toNat
        , cborInt (crypto 12 1 0).toNat, cborInt (crypto 12 1 1).toNat])
     , (-70002, cborArray [cborBytes (opaqueBytes 48 2 s.sq.fp.gen.toNat 0), cborInt s.sq.fp.gen.toNat])
     , (-70003, cborInt s.sq.which), (-70004, cborInt s.sq.cause.toNat)]
  cborMap (common ++ (match part with
    | none => []
    | some p => [(-70005, s.partClaim p)]) ++ [(-70006, cborInt s.time.toNat)])

/-! ## COSE_Sign (R390) -/

/-- What a signature covers: the Sig_structure of RFC 9052 over both protected headers and the payload. -/
def sigStructure (body sign payload : List Byte) : List Byte :=
  cborArray [cborText "Signature", cborBytes body, cborBytes sign, cborBytes [], cborBytes payload]

/-- A COSE_Signature: its algorithm protected, its kid the first 16 bytes of the digest of the signer's public key, and the
signature of n bytes (R390). -/
def coseSignature (alg : Int) (n signer : Nat) (body payload : List Byte) : List Byte :=
  let sign := cborMap [(1, cborInt alg)]
  let kid := opaqueBytes 16 3 signer alg.natAbs
  cborArray [cborBytes sign, cborMap [(4, cborBytes kid)],
    cborBytes (opaqueBytes n 4 (64 * signer + alg.natAbs) (leNat (sigStructure body sign payload)))]

/-- The evidence for a verifier's nonce: a tagged COSE_Sign whose payload is the claims map, with an EdDSA and an ML-DSA-65
signature (R389, R390). -/
def State.evidence (s : State) (nonce : List Byte) (part : Option PartNo) : List Byte :=
  let body := cborMap [(3, cborText "application/eat+cwt")]
  let payload := s.claims nonce part
  cborTag 98 (cborArray [cborBytes body, cborMap [], cborBytes payload, cborArray
    [coseSignature (-8) 64 (s.signer part) body payload, coseSignature (-49) 3309 (s.signer part) body payload]])

end Sys2Proof.Machine
end

