-- ==== Sys2Proof/Tests/Slice0.lean ====
section
/-! SUPPORT. Tests of one command each, with results worked out by hand from the spec's rules and examples; commands that
are not well formed; and for each statement that has hypotheses a state and operands that meet them. -/

open Sys2Proof Sys2Proof.Machine

set_option Elab.async false

namespace Sys2Proof.Tests

/-! ## Small states -/

/-- A running tile in supervisor mode with these data entries, the last on top. -/
def tileWith (l : List Word) : Tile :=
  { Tile.reset with core := { Core.reset with
      run := .running, d := l.length, ds := (l.zipIdx).foldl (fun v p => v.setIfInBounds p.2 p.1) (Vector.replicate 32 0) } }

/-- The same with these vector entries, the last on top. -/
def tileVec (l : List Word) (vs : List Line) : Tile :=
  { tileWith l with vec := { vd := vs.length, port := 0
                             vs := (vs.zipIdx).foldl (fun v p => v.setIfInBounds p.2 p.1) (Vector.replicate 8 0) } }

/-- A device whose tile 0 is this one. -/
def oneTile (x : Tile) : State := { State.reset with tiles := [(0, x)] }

/-- The same tile in user mode. -/
def inUser (x : Tile) : Tile := { x with ctl := { x.ctl with status := 0 } }

/-- The same tile in precise mode. -/
def inPrecise (x : Tile) : Tile := { x with ctl := { x.ctl with status := x.ctl.status ||| 0x80 } }

/-- What a command leaves. -/
def after (c : Instr) (s : State) : State :=
  match exec c s with
  | .next s' => s'
  | .fault _ => s
  | .refused _ => s

/-- The data stack of tile 0, the top last, once all its results have landed. -/
def stackOf (s : State) : List Word :=
  let y := ((s.drain 0).tile 0).core
  (List.range y.d).map fun i => nth y.ds i 0

/-- The data stack that an instruction leaves of these entries. -/
def gives (c : Instr) (l : List Word) : List Word := stackOf (after c (oneTile (tileWith l)))

/-- The top vector that an instruction leaves of these entries, once its results have landed. -/
def givesV (c : Instr) (l : List Word) (vs : List Line) : Line :=
  let y := (((after c (oneTile (tileVec l vs))).drain 0).tile 0).vec
  nth y.vs (y.vd - 1) 0

/-- The exception that a command takes: ECAUSE's code, EVAL and the address that goes on. -/
def trap (c : Instr) (s : State) : Nat × Word × BitVec 56 :=
  let y := (after c s).tile 0
  (fld y.ctl.ecause 0 8, y.ctl.eval, y.core.pc)

/-- Whether a tile takes an instruction of a form now and its checks pass. -/
def takesNow (s : State) (t : Nat) (f : Form) : Bool :=
  (s.tile t).canIssue && s.unfrozen t && !(s.tile t).broken && !((s.landDue t).checkHold t).entersFirst t &&
    (((s.boundary t f.parcels).tile t).check f).isNone

theorem issues_of {s : State} {t : Nat} {f : Form} (h : takesNow s t f = true) : s.issues t f := by
  unfold takesNow at h
  simp only [Bool.and_eq_true, Option.isNone_iff_eq_none, Bool.not_eq_true'] at h
  exact ⟨⟨h.1.1.1.1, h.1.1.1.2, h.1.1.2, h.1.2⟩, h.2⟩

theorem all_issue {s : State} {t : Nat} {l : List Form} (h : l.all (takesNow s t) = true) : ∀ f ∈ l, s.issues t f :=
  fun f hf => issues_of (List.all_eq_true.mp h f hf)

/-! ## Commands that are not well formed -/

theorem test_wf_add : (Instr.add 0 0).wf = true := by decide
theorem test_wf_release_odd : (Instr.release 0 0x101).wf = false ∧ (Instr.release 0 0x100).wf = true := by decide
theorem test_wf_multicast_over_a_line : (Instr.multicastWrite .square 0 0 60 [1, 2, 3, 4, 5]).wf = false ∧
    (Instr.multicastWrite .square 0 0 0 []).wf = false ∧ (Instr.multicastWrite .square 0 0 60 [1, 2, 3, 4]).wf = true := by decide
theorem test_wf_reduction_over_a_line : (Instr.reductionInjectWrite .square 0 0 60 [1, 2, 3, 4, 5]).wf = false ∧
    (Instr.reductionInjectWrite .square 0 0 4 [1, 2, 3, 4, 5]).wf = true ∧ (Instr.reductionInjectWrite .square 0 0 0 []).wf = false := by decide

def flit0 : Flit :=
  { type := 1, cls := 0, vc := 0, seq := 0, ackseq := 0, fpo := 0, rsv := 0, payload := List.replicate 242 0
    fecOk := true, authOk := true }

theorem test_wf_short_flit : (Instr.dataFlit 0 { flit0 with payload := [] }).wf = false ∧ (Instr.dataFlit 0 flit0).wf = true :=
  ⟨by decide, beq_iff_eq.mpr List.length_replicate⟩
theorem test_wf_short_credit : (Instr.credit 0 (List.replicate 17 0)).wf = false := by decide

def desc0 : PartDesc :=
  { part := 1, selfkey := false, vfexp := false, share := false, imgsrc := false, qmask := 1, bssize := 1, hbmgib := 1
    ddrgib := 0, imgaddr := 0, imglen := 1, entry := 0, imgdig := List.replicate 48 0, reserved := false }

def record0 : OpRecord :=
  { devnum := 5, role := 0, hostGib := 1, vfexp := 0, permitted := 2, boot := [desc0], ownerDebug := false }

/-- The header of a signed object of a type for a device, by a key. -/
def header (type keyid : Byte) (version uid gen : Word) : ObjHeader :=
  { magic := 0x20640B5C, type, hver := 1, keyid, bodylen := 8, version, uid, gen, rsv := false, edOk := true, pqOk := true }

/-- A flash part's firmware, configuration and floor plan record of a device. -/
def image0 (uid version : Word) : FwImage := { hdr := header 1 0 version uid 0, digestsOk := true }
def config0 (uid : Word) (body : OpRecord) : CfgRecords := { owner := header 2 0 1 uid 0, oper := header 2 1 1 uid 0, body }
def plan0 (uid gen : Word) (tiles : List Nat) : PlanRecord :=
  { hdr := header 3 2 1 uid gen, time := 0, hbm := 0, ddr := 0, port := 0, lane := 0, ucie := 0, tiles, stags := [], banks := [], retlog := [] }

def found0 : BootFound :=
  { uds0 := true, uds1 := true, fwA := some (image0 7 1), fwB := none, cfgA := some (config0 7 record0), cfgB := none
    fpA := some (plan0 7 3 []), fpB := none, uid := 7 }

def badDesc : PartDesc := { desc0 with imgdig := [] }

theorem test_wf_short_digest : (Instr.mgmt 0 5 (.partition badDesc)).wf = false ∧
    (Instr.partitionDescriptor badDesc [0] true).wf = false ∧
    (Instr.phaseSquareEnd { found0 with cfgA := some (config0 7 { record0 with boot := [badDesc] }) }).wf = false := by decide
theorem test_wf_image_of_another_length : (Instr.partitionDescriptor desc0 [0, 0] true).wf = false ∧
    (Instr.partitionDescriptor desc0 [0] true).wf = true := by decide
theorem test_wf_host_access_within_a_line : (Instr.cxlMemRead 8).wf = false ∧ (Instr.cxlMemWrite 63 0 0).wf = false := by decide
theorem test_wf_short_nonce : (Instr.challenge 0 [1]).wf = false ∧ (Instr.getMeasurements 1 [1]).wf = false := by decide
theorem test_wf_unit_kind : (Instr.spotTestStart ⟨0, 0⟩).wf = false ∧ (Instr.spotTestEnd ⟨13, 0⟩ true).wf = false ∧
    (Instr.spot ⟨13, 0⟩).wf = false := by decide
theorem test_wf_misaligned_register : (Instr.peek 2 4).wf = false ∧ (Instr.poke 1 2 0).wf = false ∧
    (Instr.registerWrite .square 4 8 0).wf = false ∧ (Instr.registerWrite .square 0 3 0).wf = false := by decide
theorem test_wf_dump : (Instr.dump 8 16).wf = false ∧ (Instr.dump 16 8).wf = false ∧ (Instr.dump 0 0x1000010).wf = false := by decide
theorem test_wf_long_data_line : (Instr.dataLine (List.replicate 33 0) 0 true).wf = false := by decide
theorem test_wf_unassigned : (Instr.unassignedOpcode 0 0x2000).wf = false ∧ (Instr.unassignedOpcode 0 0x3900).wf = true := by decide

/-! ## Scalar instructions -/

theorem test_nop : gives (.nop 0 0) [1, 2] = [1, 2] := by decide
theorem test_lit8_sign : gives (.lit8 0 0xFE) [] = [0xFFFFFFFFFFFFFFFE] := by decide
theorem test_lit16_shift : gives (.lit16 0 1 0x8001) [] = [0xFFFFFFFF80010000] := by decide
theorem test_lit64 : gives (.lit64 0 0 0x0123456789ABCDEF) [] = [0x0123456789ABCDEF] := by decide
theorem test_lit64_length : ((after (.lit64 0 0 0) (oneTile (tileWith []))).tile 0).core.pc = 10 := by decide
theorem test_dup : gives (.dup 0 0) [1, 2] = [1, 2, 2] := by decide
theorem test_drop : gives (.drop 0 0) [1, 2] = [1] := by decide
theorem test_swap : gives (.swap 0 0) [1, 2, 3] = [1, 3, 2] := by decide
theorem test_over : gives (.over 0 0) [1, 2] = [1, 2, 1] := by decide
theorem test_rot : gives (.rot 0 0) [1, 2, 3] = [2, 3, 1] := by decide
theorem test_nip : gives (.nip 0 0) [1, 2, 3] = [1, 3] := by decide
theorem test_tuck : gives (.tuck 0 0) [1, 2] = [2, 1, 2] := by decide
theorem test_pick : gives (.pick 0 2) [7, 8, 9] = [7, 8, 9, 7] := by decide
theorem test_put : gives (.put 0 1) [7, 8, 9] = [9, 8] := by decide
theorem test_dropn : gives (.dropn 0 2) [7, 8, 9] = [7] := by decide
theorem test_tor : let y := ((after (.tor 0 0) (oneTile (tileWith [4, 5]))).tile 0).core
    y.d = 1 ∧ y.rd = 1 ∧ nth y.rs 0 0 = 5 := by decide

/-- A tile with one entry on the return stack. -/
def withReturn (l : List Word) (r : Word) : Tile :=
  let x := tileWith l
  { x with core := { x.core with rd := 1, rs := x.core.rs.setIfInBounds 0 r } }

theorem test_fromr : let y := ((after (.fromr 0 0) (oneTile (withReturn [4] 9))).tile 0).core
    y.d = 2 ∧ y.rd = 0 ∧ y.entry 0 = 9 := by decide
theorem test_rcopy : let y := ((after (.rcopy 0 0) (oneTile (withReturn [4] 9))).tile 0).core
    y.d = 2 ∧ y.rd = 1 ∧ y.entry 0 = 9 := by decide

theorem test_add_wraps : gives (.add 0 0) [0xFFFFFFFFFFFFFFFF, 2] = [1] := by decide
theorem test_sub_order : gives (.sub 0 0) [3, 5] = [0xFFFFFFFFFFFFFFFE] := by decide
theorem test_and : gives (.and 0 0) [0xC, 0xA] = [8] := by decide
theorem test_or : gives (.or 0 0) [0xC, 0xA] = [0xE] := by decide
theorem test_xor : gives (.xor 0 0) [0xC, 0xA] = [6] := by decide
theorem test_not : gives (.not 0 0) [0] = [0xFFFFFFFFFFFFFFFF] := by decide
theorem test_neg : gives (.neg 0 0) [1] = [0xFFFFFFFFFFFFFFFF] := by decide
theorem test_addi_signed : gives (.addi 0 0xFF) [0] = [0xFFFFFFFFFFFFFFFF] := by decide
theorem test_shl_low_six_bits : gives (.shl 0 0) [3, 65] = [6] := by decide
theorem test_shr : gives (.shr 0 0) [0x8000000000000000, 63] = [1] := by decide
theorem test_sar : gives (.sar 0 0) [0x8000000000000000, 63] = [0xFFFFFFFFFFFFFFFF] := by decide
theorem test_rol : gives (.rol 0 0) [0x8000000000000001, 4] = [0x18] := by decide
theorem test_shli : gives (.shli 0 63) [3] = [0x8000000000000000] := by decide
theorem test_shri : gives (.shri 0 4) [0xF0] = [0xF] := by decide
theorem test_sari : gives (.sari 0 4) [0xFFFFFFFFFFFFFF00] = [0xFFFFFFFFFFFFFFF0] := by decide
theorem test_min_signed : gives (.min 0 0) [0xFFFFFFFFFFFFFFFF, 1] = [0xFFFFFFFFFFFFFFFF] := by decide
theorem test_max_signed : gives (.max 0 0) [0xFFFFFFFFFFFFFFFF, 1] = [1] := by decide
theorem test_minu : gives (.minu 0 0) [0xFFFFFFFFFFFFFFFF, 1] = [1] := by decide
theorem test_maxu : gives (.maxu 0 0) [0xFFFFFFFFFFFFFFFF, 1] = [0xFFFFFFFFFFFFFFFF] := by decide
theorem test_clz : gives (.clz 0 0) [0] = [64] ∧ gives (.clz 0 0) [1] = [63] := by decide
theorem test_ctz : gives (.ctz 0 0) [0] = [64] ∧ gives (.ctz 0 0) [8] = [3] := by decide
theorem test_popc : gives (.popc 0 0) [0xF0F] = [8] := by decide
theorem test_sext : gives (.sext 0 7) [0x180] = [0xFFFFFFFFFFFFFF80] := by decide
theorem test_zext : gives (.zext 0 7) [0x180] = [0x80] := by decide
theorem test_sel : gives (.sel 0 0) [10, 20, 1] = [10] ∧ gives (.sel 0 0) [10, 20, 0] = [20] := by decide
theorem test_eq : gives (.eq 0 0) [4, 4] = [1] := by decide
theorem test_ne : gives (.ne 0 0) [4, 4] = [0] := by decide
theorem test_lt_signed : gives (.lt 0 0) [0xFFFFFFFFFFFFFFFF, 1] = [1] := by decide
theorem test_ltu : gives (.ltu 0 0) [0xFFFFFFFFFFFFFFFF, 1] = [0] := by decide
theorem test_le_signed : gives (.le 0 0) [1, 0xFFFFFFFFFFFFFFFF] = [0] := by decide
theorem test_leu : gives (.leu 0 0) [1, 0xFFFFFFFFFFFFFFFF] = [1] := by decide
theorem test_zeq : gives (.zeq 0 0) [0] = [1] := by decide
theorem test_zlt : gives (.zlt 0 0) [0x8000000000000000] = [1] := by decide
theorem test_mul_wraps : gives (.mul 0 0) [0x8000000000000001, 2] = [2] := by decide

/-- The product of R30: it stands in its slot two instructions later. -/
theorem test_mul_distance : let y := ((after (.mul 0 0) (oneTile (tileWith [5, 6, 7]))).tile 0).core
    y.d = 2 ∧ y.entry 0 = 6 ∧ y.flight.map (·.rem) = [2] := by decide
theorem test_mulh_signed : gives (.mulh 0 0) [0xFFFFFFFFFFFFFFFF, 2] = [0xFFFFFFFFFFFFFFFF] := by decide
theorem test_mulhu : gives (.mulhu 0 0) [0xFFFFFFFFFFFFFFFF, 2] = [1] := by decide
theorem test_div_truncates : gives (.div 0 0) [0xFFFFFFFFFFFFFFF9, 2] = [0xFFFFFFFFFFFFFFFD] := by decide
theorem test_div_overflow : gives (.div 0 0) [0x8000000000000000, 0xFFFFFFFFFFFFFFFF] = [0x8000000000000000] := by decide
theorem test_divu : gives (.divu 0 0) [0xFFFFFFFFFFFFFFF9, 2] = [0x7FFFFFFFFFFFFFFC] := by decide
theorem test_rem_sign : gives (.rem 0 0) [0xFFFFFFFFFFFFFFF9, 2] = [0xFFFFFFFFFFFFFFFF] := by decide
theorem test_rem_zero : gives (.rem 0 0) [9, 0] = [9] := by decide
theorem test_remu : gives (.remu 0 0) [7, 4] = [3] := by decide
theorem test_div_zero_flag : bit (((after (.div 0 0) (oneTile (tileWith [9, 0]))).drain 0).tile 0).ctl.fcsr 6 = true ∧
    gives (.div 0 0) [9, 0] = [0xFFFFFFFFFFFFFFFF] := by decide
theorem test_annex_sink : gives (.annexSink 0 1 0) [1, 2] = [1] := by decide
theorem test_annex_unary : gives (.annexUnary 0 1 0) [1, 2] = [1, 0] := by decide
theorem test_annex_binary : gives (.annexBinary 0 1 0) [1, 2, 3] = [1, 0] := by decide
theorem test_annex_ternary : gives (.annexTernary 0 1 0) [1, 2, 3, 4] = [1] := by decide
theorem test_unassigned : trap (.unassignedOpcode 0 0x3900) (oneTile (tileWith [1])) = (1, 0x3900, 0) := by decide
theorem test_underflow : trap (.add 0 0) (oneTile (tileWith [1])) = (4, 0, 0) := by decide

/-- A tile with eight data entries, one of the return stack and three vectors. -/
def rich : Tile :=
  let x := tileVec [1, 2, 3, 4, 5, 6, 7, 8] [10, 11, 12]
  { x with core := { x.core with rd := 1 } }

/-- Each shape of the stack and integer instructions issues in one state, the operand bytes at their bounds. -/
theorem witness_stack_and_integer_forms : ∀ f ∈ ([
      { opc := 0x00, opb := 0, legal := opNone 0 }, { opc := 0x01, opb := 0xFF, dout := 1 },
      { opc := 0x02, opb := 3, parcels := 2, legal := opLow 2 3, dout := 1 },
      { opc := 0x03, opb := 0, parcels := 5, legal := opNone 0, dout := 1 },
      { opc := 0x0B, opb := 7, legal := opRange 0 30 7, need := 8, dout := 1 },
      { opc := 0x0C, opb := 6, legal := opRange 0 30 6, need := 8, din := 1 },
      { opc := 0x0D, opb := 8, legal := opRange 1 32 8, din := 8 },
      { opc := 0x0E, opb := 0, legal := opNone 0, din := 1, rout := 1 },
      { opc := 0x10, opb := 0, legal := opNone 0, dout := 1, rin := 1, rout := 1 },
      { opc := 0x20, opb := 0, legal := opNone 0, din := 2, dout := 1 },
      { opc := 0x2C, opb := 63, legal := opLow 6 63, din := 1, dout := 1 },
      { opc := 0x38, opb := 0, legal := opNone 0, din := 3, dout := 1 },
      { opc := 0x4B, opb := 0, legal := opNone 0, din := 2, dout := 1 },
      { opc := 0xF3, opb := 9, din := 1 }, { opc := 0xFB, opb := 9, din := 2, dout := 1 }, { opc := 0xFF, opb := 0, din := 3 }] :
        List Form), (oneTile rich).issues 0 f := all_issue (by decide)

/-- Divisions by zero and by another number, with and without PRECISE. -/
theorem witness_division : let div : Form := { opc := 0x4B, opb := 0, legal := opNone 0, din := 2, dout := 1 }
    ∀ x ∈ [tileWith [9, 0], tileWith [9, 3], inPrecise (tileWith [9, 0]), inPrecise (tileWith [9, 3])], (oneTile x).issues 0 div := by
  intro div x hx
  exact issues_of (by revert x; decide)

/-- PUT in a state in which its slot is free and no result flies. -/
theorem witness_put : let s := oneTile (tileWith [7, 8, 9])
    s.issues 0 { opc := 0x0C, opb := 1, legal := opRange 0 30 1, need := 3, din := 1 } ∧
    ((s.boundary 0 1).tile 0).core.flight = [] ∧ ((s.boundary 0 1).tile 0).noScatter = true ∧
    ((s.boundary 0 1).tile 0).slotFree 2 = true := ⟨issues_of (by decide), by decide⟩

/-- A step with a command in front, and one on an empty queue. -/
theorem witness_tick : State.reset.pending = [] := rfl

/-! ## Tile memory -/

theorem test_store_then_load : let s := after (.stw 0 1) (oneTile (tileWith [0x8899AABB80112233, 4]))
    (s.byteAt (tileMemBase 0 + 8) = 0x33 ∧ s.byteAt (tileMemBase 0 + 11) = 0x80 ∧ s.byteAt (tileMemBase 0 + 12) = 0) := by decide

/-- A device whose tile 0 has the bytes 0x80 to 0x87 at the start of its memory. -/
def bytes8 (x : Tile) : State :=
  { oneTile x with mem := (List.range 8).map fun i => (tileMemBase 0 + i, BitVec.ofNat 8 (0x80 + i)) }

def loads (c : Instr) (l : List Word) : List Word := stackOf (after c (bytes8 (tileWith l)))

theorem test_ldb : loads (.ldb 0 1) [0] = [0xFFFFFFFFFFFFFF81] := by decide
theorem test_ldbu : loads (.ldbu 0 0xFF) [2] = [0x81] := by decide
theorem test_ldh : loads (.ldh 0 1) [0] = [0xFFFFFFFFFFFF8382] := by decide
theorem test_ldhu : loads (.ldhu 0 1) [0] = [0x8382] := by decide
theorem test_ldw : loads (.ldw 0 1) [0] = [0xFFFFFFFF87868584] := by decide
theorem test_ldwu : loads (.ldwu 0 1) [0] = [0x87868584] := by decide
theorem test_ldd : loads (.ldd 0 0) [0] = [0x8786858483828180] := by decide
theorem test_stb : (after (.stb 0 0) (oneTile (tileWith [0x1FF, 5]))).mem = [(tileMemBase 0 + 5, 0xFF)] := by decide
theorem test_sth : (after (.sth 0 0) (oneTile (tileWith [0x102, 6]))).mem =
    [(tileMemBase 0 + 6, 2), (tileMemBase 0 + 7, 1)] := by decide
theorem test_std : ((after (.std 0 0) (oneTile (tileWith [0x0102030405060708, 8]))).byteAt (tileMemBase 0 + 15)) = 1 := by decide
theorem test_local_range : trap (.ldd 0 0) (oneTile (tileWith [0x40000])) = (7, 0x40000, 0) := by decide
theorem test_misalign : trap (.ldd 0 0) (oneTile (tileWith [0x3FFFC])) = (6, 0x3FFFC, 0) := by decide

/-- The local accesses at the last place, past it and misaligned; a word with an uncorrectable error, with and without
PRECISE. -/
theorem witness_local_memory : let f : Form := { opc := 0x56, opb := 0, din := 1, dout := 1 }
    let g : Form := { opc := 0x5B, opb := 0, din := 2 }
    let bad (x : Tile) : State := { oneTile x with marks := [(tileMemBase 0, true)] }
    (∀ s ∈ [oneTile (tileWith [1, 0x3FFF8]), oneTile (tileWith [1, 0x40000]), oneTile (tileWith [1, 4]), bad (tileWith [1, 0]),
      bad (inPrecise (tileWith [1, 0]))], takesNow s 0 f = true ∧ takesNow s 0 g = true) ∧
    ((oneTile (tileWith [1, 0x3FFF8])).boundary 0 1).memOk ∧ ((oneTile (tileWith [1, 0x3FFF8])).tile 0).gmem.mb = [] ∧
    ((bad (tileWith [1, 0])).boundary 0 1).portBad 0 0 8 = true ∧ ((bad (tileWith [1, 0])).boundary 0 1).portBad 0 8 8 = false ∧
    (inPrecise (tileWith [1, 0])).precise = true ∧ (tileWith [1, 0]).precise = false := by
  unfold State.memOk; decide

/-! ## Branches, loops, exceptions and the mode -/

/-- A tile at an address. -/
def atPc (pc : BitVec 56) (x : Tile) : Tile := { x with core := { x.core with pc } }

/-- The branch that a command leaves to its delay slot: its target, and the return stack's depth and top. -/
def branchOf (c : Instr) (x : Tile) : Option (BitVec 56) × Nat × Word :=
  let y := ((after c (oneTile x)).tile 0).core
  (y.branch.map (·.target), y.rd, nth y.rs (y.rd - 1) 0)

theorem test_br_backward : branchOf (.br 0 0xFE) (atPc 0x100 (tileWith [])) = (some 0xFE, 0, 0) := by decide
theorem test_bz_taken : branchOf (.bz 0 3) (atPc 0x100 (tileWith [0])) = (some 0x108, 0, 0) := by decide
theorem test_bz_not_taken : branchOf (.bz 0 3) (atPc 0x100 (tileWith [1])) = (some 0x104, 0, 0) := by decide
theorem test_bnz_taken : branchOf (.bnz 0 3) (atPc 0x100 (tileWith [1])) = (some 0x108, 0, 0) := by decide
theorem test_call : branchOf (.call 0 0x10) (atPc 0x100 (tileWith [])) = (some 0x122, 1, 0x104) := by decide
theorem test_jmp : branchOf (.jmp 0 0) (atPc 0x100 (tileWith [0x2000])) = (some 0x2000, 0, 0) := by decide
theorem test_calli : branchOf (.calli 0 0) (atPc 0x100 (tileWith [0x2000])) = (some 0x2000, 1, 0x104) := by decide
theorem test_ret : branchOf (.ret 0 0) (withReturn [] 0x104) = (some 0x104, 0, 0x104) := by decide
theorem test_jmp_odd : trap (.jmp 0 0) (oneTile (tileWith [0x2001])) = (6, 0x2001, 0) := by decide
theorem test_jmp_far : trap (.jmp 0 0) (oneTile (tileWith [0x100000000000000])) = (0x12, 0x100000000000000, 0) := by decide
theorem test_loop : let y := (after (.loop 0 5) (oneTile (atPc 0x100 (tileWith [7])))).tile 0
    y.ctl.lc0 = 7 ∧ y.ctl.la0 = 0x102 ∧ y.ctl.bodyEnd 0 = 0x10C ∧ y.ctl.act 0 = true ∧ y.core.pc = 0x102 := by decide
theorem test_loop_zero : let y := (after (.loop 0 5) (oneTile (atPc 0x100 (tileWith [0])))).tile 0
    y.ctl.act 0 = false ∧ y.core.pc = 0x10C := by decide

/-- A tile at the last instruction of the body of level 0, which is to run n more times; with `two`, of level 1 as well. -/
def inLoop (n : Word) (two : Bool) (x : Tile) : Tile :=
  { atPc 0x108 x with ctl := { x.ctl with
      la0 := 0x102, lc0 := n, la1 := 0x106, lc1 := 1, lctl := if two then 0x30204 else 0x10004 } }

theorem test_loop_back : ((after (.nop 0 0) (oneTile (inLoop 2 false (tileWith [])))).tile 0).core.pc = 0x102 := by decide
theorem test_loop_ends : let y := (after (.nop 0 0) (oneTile (inLoop 1 false (tileWith [])))).tile 0
    y.core.pc = 0x10A ∧ y.ctl.act 0 = false := by decide
theorem test_sys : trap (.sys 0 0x42) (oneTile (tileWith [])) = (0x19, 0x42, 0) := by decide
theorem test_brk : trap (.brk 0 7) (oneTile (tileWith [])) = (0x18, 7, 0) := by decide

/-- A tile in a handler that returns to 0x40, in user mode with interrupts on. -/
def handler : Tile := { tileWith [] with ctl := { Ctl.reset with status := 0x61, epc := 0x40, evec := 0x1000 } }

theorem test_eret : let y := (after (.eret 0 0) (oneTile handler)).tile 0
    y.core.pc = 0x40 ∧ fld y.ctl.status 0 2 = 0 ∧ bit y.ctl.status 4 = true ∧ bit y.ctl.status 6 = false := by decide
theorem test_double_fault : ((after (.sys 0 0) (oneTile handler)).tile 0).core.run = .halted := by decide
theorem test_setm : let y := (after (.setm 0 0) (oneTile (tileWith [0]))).tile 0
    fld y.ctl.status 0 2 = 0 ∧ y.core.shLeft = 2 ∧ y.core.shOld = 1 := by decide
theorem test_hold : ((after (.hold 0 0) (oneTile (tileWith [1000]))).tile 0).core.hold = some 129 := by decide
theorem test_crd : gives (.crd 0 0x00) [] = [1] := by decide
theorem test_cwr : let s := after (.cwr 0 0x04) (oneTile (tileWith [0x1000]))
    (s.tile 0).ctl.evec = 0 ∧ ((after (.nop 0 0) s).tile 0).ctl.evec = 0x1000 := by decide
theorem test_eret_in_user_mode : trap (.eret 0 0) (oneTile (inUser (tileWith []))) = (2, 0x8200, 0) := by decide

/-- Branches on either value of their entry, to near, far and odd addresses, and a return to an odd address. -/
theorem witness_branches : let f (opc : Byte) (din rin rout : Nat) : Form :=
      { opc, opb := 0, legal := opNone 0, noSlot := true, noEnd := true, din, rin, rout }
    (∀ x ∈ [tileWith [0], tileWith [1], tileWith [0xFFFFFFFFFFFFFE], tileWith [0xFFFFFFFFFFFFFF], tileWith [0x100000000000000]],
      takesNow (oneTile x) 0 (f 0x79 1 0 0) = true ∧ takesNow (oneTile x) 0 (f 0x7C 1 0 0) = true ∧
      takesNow (oneTile x) 0 (f 0x7D 1 0 1) = true) ∧
    (∀ x ∈ [withReturn [] 4, withReturn [] 5], takesNow (oneTile x) 0 (f 0x7E 0 1 0) = true) := by decide

/-- LOOP on level 0 and on level 1, with 0 and another number, without an entry, and where R40 refuses it. -/
theorem witness_loop : let f : Form := { opc := 0x7F, opb := 2, legal := opRange 1 255 2, noSlot := true, noEnd := true }
    let one := { inLoop 3 false (tileWith [7]) with core := { (tileWith [7]).core with pc := 0x102 } }
    let two := { inLoop 3 true (tileWith [7]) with core := { (tileWith [7]).core with pc := 0x102 } }
    (∀ x ∈ [tileWith [7], tileWith [0], tileWith [], one, two], takesNow (oneTile x) 0 f = true) ∧
    ((oneTile (tileWith [7])).boundary 0 1).loopRefused 0 2 = false ∧ ((oneTile one).boundary 0 1).loopRefused 0 2 = false ∧
    ((oneTile two).boundary 0 1).loopRefused 0 2 = true ∧ one.ctl.act 0 = true ∧ one.core.d - 1 ≤ one.dlim := by decide

/-- The last instruction of level 1 alone, of level 0 alone, of both and of none. -/
theorem witness_loop_back : let one := (inLoop 3 false (tileWith [])).ctl
    let both := (inLoop 3 true (tileWith [])).ctl
    (one.inBody 0 0x108 = true ∧ one.bodyEnd 0 = 0x10A ∧ one.inBody 1 0x108 = false ∧ one.lc0 ≠ 1) ∧
    (both.inBody 1 0x108 = true ∧ both.bodyEnd 1 = 0x10A ∧ both.bodyEnd 0 = 0x10A ∧ both.lc1 = 1 ∧ both.lc0 ≠ 1) ∧
    one.inBody 0 0x10A = false := by decide

/-- Entries in and out of a delay slot and a mode shadow, for an interrupt, an imprecise and a precise exception, and under EXL. -/
theorem witness_exception_entry :
    let slot := { tileWith [] with core := { (tileWith []).core with
      branch := some { pc := 0x10, target := 0x80, follow := false, link := none, lctl := 0 }, shLeft := 2, shOld := 1, shNew := 0 } }
    (bit (tileWith []).ctl.status 6 = false ∧ (tileWith []).core.shLeft = 0) ∧
    (bit slot.ctl.status 6 = false ∧ 0 < slot.core.shLeft ∧ slot.core.shLeft < 4 ∧ slot.core.branch.isSome = true) ∧
    bit handler.ctl.status 6 = true := by decide

/-- SYS, BRK and ERET, and ERET with STATUS.DS and STATUS.SH set. -/
theorem witness_system_calls : let f : Form := { opc := 0x82, opb := 0, legal := opNone 0, sup := true, noSlot := true, noShadow := true }
    let deep := { handler with ctl := { handler.ctl with status := 0xA61 ||| 0x100, eval := 0x80 } }
    takesNow (oneTile (tileWith [])) 0 { opc := 0x80, opb := 9, noSlot := true, noEnd := true, noShadow := true } = true ∧
    takesNow (oneTile (tileWith [])) 0 { opc := 0x81, opb := 9 } = true ∧ takesNow (oneTile handler) 0 f = true ∧
    takesNow (oneTile deep) 0 f = true ∧ bit deep.ctl.status 8 = true ∧ bit deep.ctl.status 9 = true := by decide

/-- SETM with 0, 1 and 2; HOLD with 0, without a window, and before and after the end of an open one; CRD and CWR. -/
theorem witness_modes : let fm : Form := { opc := 0x83, opb := 0, legal := opNone 0, sup := true, noSlot := true, noShadow := true, din := 1 }
    let fh : Form := { opc := 0x84, opb := 0, legal := opNone 0, sup := true, din := 1 }
    let window (e : Word) : State := oneTile { tileWith [50] with core := { (tileWith [50]).core with hold := some e } }
    (∀ x ∈ [tileWith [0], tileWith [1], tileWith [2]], takesNow (oneTile x) 0 fm = true ∧ takesNow (oneTile x) 0 fh = true) ∧
    takesNow (window 20) 0 fh = true ∧ takesNow (window 90) 0 fh = true ∧
    (((window 90).boundary 0 1).tile 0).core.hold = some 90 ∧
    ((window 90).boundary 0 1).cycle 0 + 1 + BitVec.ofNat 64 (Nat.min 50 (fld Ctl.reset.holdlim 0 10)) = 51 ∧
    takesNow (oneTile rich) 0 { opc := 0x88, opb := 0, legal := isCtl 0, sup := crdSup 0, dout := 1 } = true ∧
    takesNow (oneTile rich) 0 { opc := 0x89, opb := 4, legal := isCtl 4, sup := cwrSup 4, din := 1 } = true := by decide

/-- The first check that fails: a place, two entries, the limit of the stack; and user mode. -/
theorem witness_checks : let last := { inLoop 2 false (tileWith [1, 2]) with core := { (tileWith [1, 2]).core with
      pc := 0x108, branch := some { pc := 0x106, target := 0, follow := false, link := none, lctl := 0x10004 } } }
    let low := { tileWith [1, 2, 3] with ctl := { Ctl.reset with status := 0, stklim := 1 } }
    (∀ x ∈ [tileWith [1, 2], tileWith [1], low, last, inUser (tileWith [1, 2])],
      (oneTile x).takes 0) ∧ last.ctl.isLast 0x108 2 = true ∧ low.dlim < low.core.d - 1 ∧ (inUser (tileWith [])).user = true ∧
    ((oneTile last).boundary 0 1).tile 0 = last := by
  unfold State.takes; decide +kernel

/-! ## Global memory -/

/-- A page of virtual addresses from 0 that maps the memories of the tiles of block 0, from tile 0's on. -/
def page : TlbEntry :=
  { part := 0, big := false, page := 0, city := tileMemBase 0, r := true, w := true, x := true, u := true, nc := false }

def mapping (x : Tile) : Tile := { x with gmem := { x.gmem with tlb := [page] } }

/-- A device whose tile 0 is this one, and on which partition 0 runs in quarter 0. -/
def world (x : Tile) : State := { oneTile x with quarters := [(0, { Quarter.reset with running := some 0 })] }

def slot0 : Slot :=
  { id := 5, fill := none, va := 0x40000, size := 3, zext := false, fwdMask := 0, fwd := 0, val := none, poison := false, pc := 0 }

def withSlots (l : List Slot) (x : Tile) : Tile := { x with gmem := { x.gmem with slots := l } }

def mb0 : MbEntry :=
  { line := tileMemBase 1 / 64, mask := 1, data := 0x5A, seq := 0, relE := 0, fenE := 0, drain := false, plain := true, user := false }

def withMb (l : List MbEntry) (x : Tile) : Tile := { x with gmem := { x.gmem with mb := l } }

def req0 : Req :=
  { id := 5, tile := 0, kind := .load 3, addr := tileMemBase 1, slot := none, seq := 0, relE := 0, acqE := 0, fenE := 0, glda := false
    noInstall := false, big := false, user := false, part := 0, epoch := 0, st := .sent }

def withReq (r : Req) (x : Tile) : State := { world x with reqs := [r] }

/-- A tile that waits in an instruction. -/
def waiting (opc : Byte) (x : Tile) : Tile := { x with core := { x.core with doing := .wait opc 0 } }

/-- A tile in a long instruction. -/
def inLong (opc : Byte) (x : Tile) : Tile := { x with core := { x.core with doing := .long opc 0 } }

theorem test_gld : let y := (after (.gld 0 2) (world (mapping (tileWith [0x40004])))).tile 0
    y.gmem.slots.map (fun sl => (sl.va, sl.size, sl.zext)) = [(0x40004, 2, false)] ∧ y.core.d = 0 := by decide
theorem test_glda : ((after (.glda 0 7) (world (mapping (tileWith [0x40008])))).tile 0).gmem.slots.map (·.zext) = [true] := by decide
theorem test_gld_walks : ((after (.gld 0 3) (world (mapping (tileWith [0x200000])))).tile 0).core.doing =
    .walk 0x60 3 0x200000 kLoad false := by decide
theorem test_gtake : stackOf (after (.gtake 0 0) (oneTile (withSlots [{ slot0 with val := some 9 }] (tileWith [])))) = [9] := by decide
theorem test_gtake_waits : ((after (.gtake 0 0) (oneTile (withSlots [slot0] (tileWith [])))).tile 0).core.doing = .wait 0x62 0 := by decide
theorem test_gst : ((after (.gst 0 1) (world (mapping (tileWith [0x11223344, 0x40002])))).tile 0).gmem.mb.map (fun m => (m.mask, m.data)) =
    [(0xC, 0x33440000)] := by decide +kernel
theorem test_gst_merges : ((after (.gst 0 0) (world (withMb [mb0] (mapping (tileWith [7, 0x40001]))))).tile 0).gmem.mb.map
    (fun m => (m.mask, m.data)) = [(3, 0x75A)] := by decide +kernel
theorem test_gfill : ((after (.gfill 0 0) (oneTile (tileWith [3]))).tile 0).gmem.slots.map (·.val) = [some 3] := by decide
theorem test_aadd_is_sent : (after (.aadd 0 0) (world (mapping (tileWith [3, 0x40008])))).reqs.map (fun r => (r.kind, r.addr)) =
    [(.aadd 3, tileMemBase 1 + 8)] := by decide
theorem test_acas_operands : (after (.acas 0 0) (world (mapping (tileWith [1, 2, 0x40008])))).reqs.map (·.kind) = [.acas 1 2] := by decide
theorem test_mcmp_operands : (after (.mcmp 0 0) (world (mapping (tileWith [1, 2, 0x40008])))).reqs.map (·.kind) = [.mcmp 1 2] := by decide
theorem test_mcnt_operand : (after (.mcnt 0 0) (world (mapping (tileWith [1, 0x40008])))).reqs.map (·.kind) = [.mcnt 1] := by decide
theorem test_waitm : (after (.waitm 0 0) (world (mapping (tileWith [9, 0x40008])))).reqs.map (·.kind) = [.watch 9] := by decide
theorem test_mrcnt_of_nothing : gives (.mrcnt 0 0) [5, 6, 0, 0] = [5] := by decide
theorem test_mrcntm_of_nothing : gives (.mrcntm 0 0) [5, 6, 7, 0, 0] = [5] := by decide
theorem test_gldb_asks : ((after (.gldb 0 0) (world (mapping (tileWith [0x80, 0x40000, 1])))).reqs.map (·.kind)) = [.gldb 0x80] := by decide
theorem test_rel : let g := ((after (.rel 0 0) (oneTile (withMb [mb0] (tileWith [])))).tile 0).gmem
    g.relE = 1 ∧ g.mb.all (·.drain) = true := by decide

def lines (x : Tile) : Tile :=
  { x with ctl := { x.ctl with cachectl := 3 }
           gmem := { x.gmem with dcache := [{ line := 64, data := 0 }, { line := 65, data := 0 }], icache := [{ line := 7, data := 0 }] } }

theorem test_acq_one_set : ((after (.acq 0 0) (oneTile (lines (tileWith [0x1000, 64])))).tile 0).gmem.dcache.map (·.line) = [65] := by decide
theorem test_fenceg : ((after (.fenceg 0 0) (oneTile (lines (tileWith [])))).tile 0).gmem.dcache = [] := by decide
theorem test_cinv : ((after (.cinv 0 0) (oneTile (lines (tileWith [])))).tile 0).gmem.dcache = [] := by decide
theorem test_icinv : let g := ((after (.icinv 0 0) (oneTile (lines (tileWith [])))).tile 0).gmem
    g.icache = [] ∧ g.dcache.length = 2 := by decide

/-- Loads and operations with 8 slots in use, misaligned, mapped, and at a page without an entry; GTAKE with and without a value. -/
theorem witness_loads : let eight := withSlots (List.replicate 8 slot0)
    let f : Form := { opc := 0x60, opb := 7, legal := opLow 3 7, din := 1 }
    let g : Form := { opc := 0x62, opb := 0, legal := opNone 0, dout := 1 }
    (∀ x ∈ [eight (tileWith [0x40000]), mapping (tileWith [0x40004]), mapping (tileWith [0x40008]), mapping (tileWith [0x200000])],
      takesNow (world x) 0 f = true) ∧
    (mapping (tileWith [])).tlbFind 0x40008 = some page ∧ (mapping (tileWith [])).tlbFind 0x200000 = none ∧
    protFault page kLoad false = none ∧ protFault page kBoth false = none ∧ protFault page kStore false = none ∧
    (∀ l ∈ [[], [slot0], [{ slot0 with val := some 9 }], [{ slot0 with val := some 9, poison := true }]],
      takesNow (world (withSlots l (tileWith []))) 0 g = true ∧
      (((world (withSlots l (tileWith []))).boundary 0 1).drain 0).tile 0 = withSlots l (tileWith [])) ∧
    takesNow (world rich) 0 { opc := 0x65, opb := 0, legal := opNone 0, sup := true, din := 1 } = true := by decide +kernel

/-- GST at a line that it joins, at one that it does not, and with a full buffer; the four operations and WAITM. -/
theorem witness_stores : let f : Form := { opc := 0x63, opb := 0, legal := opLow 2 0, din := 2 }
    let full := List.replicate 8 { mb0 with line := 3 }
    (∀ l ∈ [[], [mb0], full], takesNow (world (withMb l (mapping (tileWith [7, 0x4003F])))) 0 f = true) ∧
    (world (tileWith [])).cacheable 0 (page.addr 0x4003F) page.nc = true ∧ mb0.line = page.addr 0x4003F / 64 ∧
    page.addr 0x4003F % 64 + 1 ≤ 64 ∧
    (∀ p ∈ [((0x68 : Byte), 2), (0x69, 3), (0x6A, 3), (0x6B, 2), (0x6E, 2)],
      takesNow (world (mapping (tileWith [1, 2, 0x40008]))) 0 { opc := p.1, opb := 0, legal := opNone 0, din := p.2 } = true) ∧
    (mapping (tileWith [])).tlbFind 0x40008 = some page := by decide

/-- A range and a block of lines, aligned and not, of none and of one, at the end of tile memory and past it. -/
theorem witness_long_issue : let f : Form := { opc := 0x6C, opb := 0, legal := opNone 0, din := 4, dout := 1 }
    let g : Form := { opc := 0x64, opb := 0, legal := opNone 0, din := 3 }
    (∀ l ∈ [[5, 6, 0x40400, 1], [5, 6, 0x40400, 0], [5, 6, 0x40401, 1]], takesNow (world (mapping (tileWith l))) 0 f = true) ∧
    (∀ l ∈ [[0x3FFC0, 0x40000, 1], [0x40000, 0x40000, 1], [0x20, 0x40000, 1], [0x40, 0x40020, 1], [0x40, 0x40000, 0]],
      takesNow (world (mapping (tileWith l))) 0 g = true) ∧
    (((world (mapping (tileWith []))).boundary 0 1).drain 0).rangesAsked 0 = [] ∧
    (((world (mapping (tileWith []))).boundary 0 1).drain 0).gldbLines 0 = [] := by decide

/-- The count that arrives, and the last line of a GLDB. -/
theorem witness_long_arrives : let r := { req0 with kind := .count 0x400 6 0, st := .done 9 false }
    let s := withReq r (inLong 0x6C (tileWith [5, 6, 0x400, 1]))
    let q := { req0 with kind := .gldb 0x80, st := .done 9 false }
    let z := withReq q (inLong 0x64 (tileWith [0x80, 0x40000, 1]))
    ((s.tile 0).longIn = some (0x6C, 0) ∧ (s.tile 0).core.entry 0 = 1 ∧ (s.rangeReqs 0).find? (fun q => q.performed && match q.kind with
        | .count va _ _ => va == (s.tile 0).core.entry 1
        | _ => false) = some r) ∧
    ((z.tile 0).longIn = some (0x64, 0) ∧ z.memOk ∧
      z.reqs.find? (fun q => q.tile = 0 && q.kind == .gldb 0x80 && q.performed) = some q) := by
  unfold State.memOk; decide +kernel

/-- The range at its home, in the memory of tile 1. -/
theorem witness_range_at_home : let r := { req0 with kind := .count 0x400 6 0, addr := tileMemBase 1 }
    let s := withReq r (tileWith [])
    (s.rangeReqs 0)[0]? = some r ∧ s.clean ∧ devAddr r.addr % 1024 = 0 ∧ s.rangeMet r = true ∧
    s.homed r.id r (devAddr r.addr) 1024 := by
  unfold State.clean State.homed; decide +kernel

/-- Each ordering instruction issues, with the cache on and off. -/
theorem witness_ordering : ∀ p ∈ [((0x70 : Byte), false, 0), (0x71, false, 2), (0x72, false, 0), (0x73, true, 0), (0x74, true, 0)],
    takesNow (oneTile (lines rich)) 0 { opc := p.1, opb := 0, legal := opNone 0, sup := p.2.1, din := p.2.2 } = true ∧
    takesNow (oneTile rich) 0 { opc := p.1, opb := 0, legal := opNone 0, sup := p.2.1, din := p.2.2 } = true := by decide

theorem witness_acq_range : (64 : Word) ≠ 0 ∧ (0x1000 : Word).toNat + (64 : Word).toNat ≤ 2 ^ 64 := by decide

/-! ## Events of a tile -/

def flying (rem : Nat) (dest : Landing) (x : Tile) : Tile :=
  { x with core := { x.core with flight := [{ ord := 0, rem, dest, flags := 0x40, exc := none, pc := 0 }] } }

theorem test_result_lands : let y := (after (.resultLands 0) (oneTile (flying 0 (.data 1 42) (tileWith [5, 6])))).tile 0
    y.core.entry 0 = 42 ∧ y.core.flight = [] ∧ bit y.ctl.fcsr 6 = true := by decide
theorem test_result_flies_on : ((after (.resultLands 0) (oneTile (flying 1 (.data 1 42) (tileWith [5, 6])))).tile 0).core.entry 0 = 6 := by decide

def pendingImpr : Tile := { tileWith [] with core := { (tileWith []).core with impr := some (0x20, 0x44, 0) } }

theorem test_imprecise_entry : let y := (after (.impreciseExceptionEntry 0) (oneTile pendingImpr)).tile 0
    fld y.ctl.ecause 0 8 = 0x20 ∧ bit y.ctl.ecause 9 = true ∧ y.ctl.eval = 0x44 := by decide

/-- A tile with interrupts on and timer and message pending. -/
def interrupted (x : Tile) : Tile := { x with ctl := { x.ctl with status := 0x11, ien := 0x3F, ipend := 0x1, tcmp := 0, evec := 0x1000 } }

theorem test_interrupt_entry : let y := (after (.interruptEntry 0) (oneTile (interrupted (tileWith [])))).tile 0
    fld y.ctl.ecause 0 8 = 3 ∧ bit y.ctl.ecause 8 = true ∧ y.core.pc = 0x1080 ∧ bit y.ctl.status 4 = false := by decide
theorem test_interrupt_order : intSource 0x38 = some 4 ∧ intSource 0x28 = some 5 ∧ intSource 0x3 = some 1 := by decide
theorem test_timer : bit ((oneTile (tileWith [])).ipend 0) 3 = false ∧ bit ((after (.timerMatch 0) (oneTile (tileWith []))).ipend 0) 3 = true := by
  decide

def holding : Tile := { tileWith [] with core := { (tileWith []).core with hold := some 5, cycle := 5 }, ctl := (interrupted (tileWith [])).ctl }

theorem test_hold_expiry : let y := (after (.holdExpiry 0) (oneTile holding)).tile 0
    y.core.hold = none ∧ bit y.ctl.status 12 = true := by decide
theorem test_wait_timeout : let y := (after (.waitTimeout 0) (oneTile (waiting 0x62 (withSlots [slot0] (tileWith []))))).tile 0
    fld y.ctl.ecause 0 8 = 0x1A ∧ fld y.ctl.ecause 16 3 = 1 ∧ y.ctl.eval = 0x40000 ∧ y.core.doing = .issue := by decide

def part0 : Partition :=
  { desc := { desc0 with part := 0, entry := 0x40 }, keying := .unkeyed, img := [], imgOk := true, released := true, inTables := false
    saved := [], savedBlocks := [], savedMem := [], ending := none }

def released : State := { world { tileWith [] with core := Core.reset } with parts := [(0, part0)] }

theorem test_release : let y := ((after (.release 0 (released.entryPc 0)) released).tile 0).core
    y.run = .running ∧ y.pc = released.entryPc 0 := by decide

/-- A boundary with a result that is due; an imprecise exception; interrupts at a boundary and in a waiting GTAKE; the end of a window,
and each kind of wait; a tile to be released. -/
theorem witness_tile_events :
    (oneTile (flying 0 (.vec 0 42) (tileWith []))).atBoundary 0 = true ∧
    (oneTile pendingImpr).atBoundary 0 = true ∧
    (let s := oneTile (interrupted (tileWith []))
     let u := (s.landDue 0).checkHold 0
     (s.tile 0).alive = true ∧ intSource (u.ipend 0 &&& (u.tile 0).ctl.ien) = some 3 ∧ (u.tile 0).imprReady = false) ∧
    (let s := oneTile (waiting 0x62 (interrupted (tileWith [])))
     let u := (s.landDue 0).checkHold 0
     (u.tile 0).core.doing = .wait 0x62 0 ∧ (s.tile 0).alive = true ∧ intSource (u.ipend 0 &&& (u.tile 0).ctl.ien) = some 3) ∧
    (oneTile (tileWith [])).cycle 0 < Ctl.reset.tcmp ∧ holding.core.hold = some 5 ∧
    (oneTile (waiting 0x62 (withSlots [slot0] (tileWith [])))).waitsFor 0 0x62 0 = some (1, 0x40000) ∧
    (oneTile (waiting 0xD9 (tileWith [7]))).waitsFor 0 0xD9 0 = some (6, 7) ∧
    (released.part? (released.tile 0).part.toNat = some part0 ∧ (released.quarter (quarterOf 0)).running = some (released.tile 0).part ∧
      released.curfew = false ∧ (released.tile 0).core.run = .unreleased ∧ released.sq.fp.tiles.contains 0 = false) := by decide

/-! ## Fetch and translation -/

theorem test_fetch_misses_permission :
    trap (.fetchGroupArrives 0) (world { mapping (atPc 0x100 (tileWith [])) with
      gmem := { GMem.reset with tlb := [{ page with x := false }] } }) = (0x15, 0x100, 0) := by decide
theorem test_fetch_without_a_page : trap (.fetchGroupArrives 0) (world (atPc 0x200000 (tileWith []))) = (0x12, 0x200000, 0) := by decide
theorem test_xlinv : ((after (.xlinvVa .square 0 0x1000) (world (tileWith []))).quarter 0).invals = [{ part := none, va := some 0x1000 }] := by decide
theorem test_xlinv_complete : ((after (.xlinvComplete 0) { world (mapping (tileWith [])) with
    quarters := [(0, { Quarter.reset with invals := [{ part := some 0, va := none }] })] }).tile 0).gmem.tlb = [] := by decide
theorem test_walk_is_sent : ((after (.tlbMissWalk 0) (world { tileWith [] with
    core := { (tileWith []).core with doing := .walk 0x60 3 0x200000 kLoad false } })).quarter 0).walks.map (·.va) = [0x200000] := by decide

/-- A table of one leaf at level 0 of partition 0's tree in tile 1's memory would be long: a walk without a root fails. -/
theorem test_walk_fails : let s := { world { tileWith [0x200000] with core := { (tileWith [0x200000]).core with doing := .walk 0x60 3 0x200000 kLoad true } } with
      quarters := [(0, { Quarter.reset with walks := [{ tile := 0, va := 0x200000, kind := kLoad, noInstall := false }] })] }
    trap (.walkComplete 0 0) s = (0x10, 0x200000, 0) := by decide

/-- A device whose quarter 0 has a table of three levels for partition 0: one leaf of 1 GiB from address 0. -/
def withTable (walks : List Walk) (x : Tile) : State :=
  { world x with
    mem := [(0x1000, 0x01), (0x1001, 0x20), (0x2000, 0x01), (0x2001, 0x30), (0x3000, 0x3F), (0x3003, 0x40)]
    quarters := [(0, { Quarter.reset with
      running := some 0, ptroot := [(0, 0x1001)], walks, grants := [(0, { Grant.reset with hbSize := 1 })] })] }

def leaf : TlbEntry :=
  { part := 0, big := true, page := 0, city := 0x40000000, r := true, w := true, x := true, u := true, nc := false }

def walking (x : Tile) : Tile := { x with core := { x.core with doing := .walk 0x60 3 0x200000 kLoad true } }

def walk0 : Walk := { tile := 0, va := 0x200000, kind := kLoad, noInstall := false }

theorem test_walk_finds_its_leaf : let y := (after (.walkComplete 0 0) (withTable [walk0] (walking (tileWith [0x200000])))).tile 0
    y.gmem.tlb = [leaf] ∧ y.gmem.slots.map (·.va) = [0x200000] ∧ y.core.d = 0 ∧ y.core.pc = 2 := by decide +kernel

def fetching : Tile :=
  { mapping (atPc 0x100 (tileWith [])) with
    ctl := { Ctl.reset with cachectl := 2 }
    gmem := { GMem.reset with tlb := [page], icache := [{ line := tileMemBase 0 / 64 + 4, data := 0 }] } }

/-- A fetch of a cached line, of a page without X and of no page; walks with a leaf and without, of a held load and of a prefetch. -/
theorem witness_fetch_and_translation :
    ((world fetching).atBoundary 0 = true ∧ fetching.tlbFind 0x100 = some page ∧ protFault page kFetch false = none ∧
      fetching.icen = true ∧ cacheFind fetching.gmem.icache (page.addr 0x100 / 64) = some { line := tileMemBase 0 / 64 + 4, data := 0 }) ∧
    protFault { page with x := false } kFetch false = some 0x15 ∧
    ((world (atPc 0x200000 (tileWith []))).storesDone 0 = true ∧ ((world (tileWith [])).walk 0 0 0x200000).leaf = none) ∧
    ((world (tileWith [])).far = [] ∧ (world fetching).entersFirst 0 = false) ∧
    (let s := withTable [walk0] (walking (tileWith [0x200000]))
     (s.walk 0 0 0x200000).leaf = some leaf ∧ (s.quarter 0).walks = [walk0] ∧ (s.tile 0).alive = true ∧
      (s.tile 0).core.entry 0 = 0x200000 ∧ leaf.covers 0 0x200000 = true ∧ protFault leaf kLoad false = none) ∧
    (let s := withTable [] (walking (tileWith [0x200000]))
     s.walkCount 0 < 32 ∧ s.storesDone 0 = true) ∧
    (world (tileWith [])).mayCtl .square 0 = true ∧ ((world (tileWith [])).quarter 0).invals.length < 16 := by decide +kernel

/-! ## Requests at their home and back -/

theorem test_load_value : let s := withReq { req0 with slot := some 5, st := .done 0x8000000080 false } (withSlots [{ slot0 with size := 0 }] (tileWith []))
    ((after (.loadValueArrives 0 0) s).tile 0).gmem.slots.map (·.val) = [some 0xFFFFFFFFFFFFFF80] := by decide +kernel
theorem test_line_fill : let s := withReq { req0 with kind := .fill false 1 0xAA, st := .done 0x1122 false } (lines (tileWith []))
    ((after (.lineFillArrives 0 0) s).tile 0).gmem.dcache.head? = some { line := tileMemBase 1 / 64, data := 0x11AA } := by decide +kernel
theorem test_mb_drain_timer : ((after (.mbDrainTimer 0 0) (oneTile (withMb [mb0] (tileWith [])))).tile 0).gmem.mb.map (·.drain) = [true] := by
  decide +kernel
theorem test_mb_entry_sent : let s := after (.mbEntrySent 0) (world (withMb [{ mb0 with drain := true }] (tileWith [])))
    s.reqs.map (fun r => (r.kind, r.addr)) = [(.write 1 0x5A, tileMemBase 1)] ∧ (s.tile 0).gmem.mb = [] := by decide +kernel
theorem test_write_ack : (after (.writeAckArrives 0 5) (withReq { req0 with kind := .write 1 0, st := .done 0 false } (tileWith []))).reqs = [] := by
  decide +kernel

/-- A request at a home whose first bytes are 0x80 to 0x87, in the memory of tile 1. -/
def atHome (kind : ReqKind) : State :=
  { withReq { req0 with kind } (tileWith []) with mem := (List.range 8).map fun i => (tileMemBase 1 + i, BitVec.ofNat 8 (0x80 + i)) }

def answerOf (s : State) : List ReqState := s.reqs.map (·.st)

theorem test_global_read : answerOf (after (.globalReadAtHome 5) (atHome (.load 1))) = [.done 0x8180 false] := by decide +kernel
theorem test_global_write : let s := after (.globalWriteAtHome 5) (atHome (.write 6 0x332211))
    s.byteAt (tileMemBase 1) = 0x80 ∧ s.byteAt (tileMemBase 1 + 1) = 0x22 ∧ s.byteAt (tileMemBase 1 + 2) = 0x33 := by decide +kernel
theorem test_read_denied : let s := { atHome (.load 1) with quarters := [] }
    answerOf (after (.globalReadAtHome 5) s) = [.done 0 false] ∧ (after (.globalReadAtHome 5) s).sq.dlog.head = 1 := by decide +kernel
theorem test_aadd_at_home : let s := after (.operationAtHome 5) (atHome (.aadd 0x7878787878787878))
    answerOf s = [.done 0x8786858483828180 false] ∧ s.wordAt (tileMemBase 1) = 0xFFFEFDFCFBFAF9F8 := by decide +kernel
theorem test_acas_at_home : (after (.operationAtHome 5) (atHome (.acas 3 0x8786858483828180))).wordAt (tileMemBase 1) = 3 ∧
    (after (.operationAtHome 5) (atHome (.acas 3 4))).wordAt (tileMemBase 1) = 0x8786858483828180 := by decide +kernel

/-- MCNT keeps its sum between 0 and all ones (R185). -/
theorem test_mcnt_at_home : (after (.operationAtHome 5) (atHome (.mcnt 0x7FFFFFFFFFFFFFFF))).wordAt (tileMemBase 1) = 0xFFFFFFFFFFFFFFFF ∧
    (after (.operationAtHome 5) { atHome (.mcnt 0xFFFFFFFFFFFFFFFF) with mem := [] }).wordAt (tileMemBase 1) = 0 := by decide +kernel
theorem test_watch_fires_at_once : answerOf (after (.watchPlaced 0) (atHome (.watch 0x8786858483828180))) = [.done 0 false] := by decide +kernel
theorem test_watch_is_placed : (after (.watchPlaced 0) (atHome (.watch 0x8786858483828181))).watches.map (·.addr) = [tileMemBase 1] := by
  decide +kernel
theorem test_watch_reread : answerOf (after (.watchReread 0) { atHome (.watch 1) with reqs := [{ req0 with kind := .watch 1, st := .watching }] }) =
    [.done 0 false] := by decide +kernel
theorem test_watch_reply : ((after (.watchReplyArrives 0) (withReq { req0 with kind := .watch 1, st := .done 0 false }
    (waiting 0x6E (tileWith [1, 2])))).tile 0).core.d = 0 := by decide +kernel
theorem test_range_count : answerOf (after (.rangeCountAtHome 0 ⟨0, 128⟩) { atHome (.count 0 0x81 0xFF) with mem := [(tileMemBase 1 + 16, 0x81), (tileMemBase 1 + 1016, 0x81)] }) =
    [.done 2 false] := by decide +kernel
theorem test_range_count_ends : stackOf (after (.rangeCountArrives 0) (withReq { req0 with kind := .count 0x400 6 0, st := .done 9 false }
    (inLong 0x6C (tileWith [5, 6, 0x400, 1])))) = [14] := by decide +kernel
theorem test_gldb_line : let s := after (.gldbLineArrives 0) (withReq { req0 with kind := .gldb 0x80, st := .done 0x77 false }
      (inLong 0x64 (tileWith [0x80, 0x40000, 1])))
    s.byteAt (tileMemBase 0 + 0x80) = 0x77 ∧ (s.tile 0).core.d = 0 := by decide +kernel
theorem test_op_buffer_writeback : (after (.opBufferWriteback (.hbm 0 0) 2) { world (tileWith []) with
    oplines := [{ unit := opUnitNo (.hbm 0 0), line := 128, dirty := true }] }).oplines.map (·.dirty) = [false] := by decide +kernel

/-- A value that arrives for a slot and for a GTAKE that waits for it; a fill; an entry that drains; an acknowledged write. -/
theorem witness_requests : let r : Req := { req0 with slot := some 5, st := .done 0x80 false }
    let s := withReq r (withSlots [slot0] (tileWith []))
    let z := withReq r (waiting 0x62 (withSlots [slot0] (tileWith [])))
    let f : Req := { req0 with kind := .fill false 1 0xAA, st := .done 0x1122 false }
    let m := world (withMb [{ mb0 with drain := true }] (tileWith []))
    ((s.values 0)[0]? = some r ∧ (s.tile 0).waitsIn = none) ∧
    ((z.tile 0).waitsIn = some (0x62, 0) ∧ (z.tile 0).core.flight = [] ∧ (z.tile 0).gmem.slots = [slot0] ∧ slot0.id = 5) ∧
    (((withReq f (lines (tileWith []))).reqs.filter fun q => q.tile = 0 && q.performed && match q.kind with
        | .fill _ _ _ => true
        | _ => false)[0]? = some f ∧ (lines (tileWith [])).longIn = none ∧ (lines (tileWith [])).waitsIn = none ∧
      (lines (tileWith [])).den = true) ∧
    ((m.tile 0).gmem.mb.find? (fun k => k.drain) = some { mb0 with drain := true } ∧ m.unacked 0 < 64 ∧ m.relMet 0 0 = true ∧
      m.fenMet 0 0 = true ∧ (m.tile 0).resetting = none) ∧
    (withReq { req0 with kind := .write 1 0, st := .done 0 false } (tileWith [])).req? 5 =
      some { req0 with kind := .write 1 0, st := .done 0 false } := by decide +kernel

/-- Reads, writes, operations and watches that their home serves, and one that it denies; the old value of an operation. -/
theorem witness_homes :
    (∀ k ∈ [ReqKind.load 3, .write 6 0, .aadd 1, .acas 1 2, .mcmp 1 2, .mcnt 1, .watch 0], (atHome k).homed 5 { req0 with kind := k } (tileMemBase 1) 8) ∧
    (atHome (.write 6 0)).homed 5 { req0 with kind := .write 6 0 } (tileMemBase 1) 64 ∧ devAddr req0.addr = tileMemBase 1 ∧
    (atHome (.load 3)).clean ∧ (atHome (.load 3)).memOk ∧ tileMemBase 1 % 64 = 0 ∧
    { atHome (.load 3) with quarters := [] }.access req0.who (tileMemBase 1) = .deny 1 ∧
    (let r : Req := { req0 with kind := .aadd 1, slot := some 5, st := .done ((7 : Word).setWidth 512) false }
     ((withReq r (withSlots [slot0] (tileWith []))).values 0)[0]? = some r) := by
  unfold State.homed State.clean State.memOk; decide +kernel

/-- A watch whose word has its value, one whose word has not, one that reads again, and one that has been answered. -/
theorem witness_watches : let w (x : Word) (st : ReqState) : Req := { req0 with kind := .watch x, st }
    let word : Word := 0x8786858483828180
    (atHome (.watch word)).watchReq 0 = some (w word .sent) ∧ (atHome (.watch word)).wordAt (tileMemBase 1) = word ∧
    (atHome (.watch word)).watchFree (tileMemBase 1) = true ∧
    (let s := { atHome (.watch 1) with reqs := [w 1 .watching] }
     s.watchReq 0 = some (w 1 .watching) ∧ s.staleReq (w 1 .watching) = false ∧ s.access req0.who (tileMemBase 1) = .serve ∧
      (s.watches.any fun w => w.who == .tile 5) = false) ∧
    (let s := withReq (w 1 (.done 0 false)) (waiting 0x6E (tileWith [1, 2]))
     (s.tile 0).waitsIn = some (0x6E, 0) ∧ s.watchReq 0 = some (w 1 (.done 0 false)) ∧ (w 1 (.done 0 false)).performed = true) := by
  decide +kernel

/-! ## Vectors -/

/-- The low bits of a vector. -/
def lowOf (n : Nat) (z : Line) : Nat := z.toNat % 2 ^ n

theorem test_vdup : let y := ((after (.vdup 0 0) (oneTile (tileVec [] [7]))).tile 0).vec
    y.vd = 2 ∧ nth y.vs 1 0 = 7 := by decide +kernel
theorem test_vdrop : givesV (.vdrop 0 0) [] [7, 8] = 7 := by decide +kernel
theorem test_vswap : givesV (.vswap 0 0) [] [7, 8] = 7 := by decide +kernel
theorem test_vover : givesV (.vover 0 0) [] [7, 8] = 7 := by decide +kernel
theorem test_vrot : givesV (.vrot 0 0) [] [7, 8, 9] = 7 := by decide +kernel
theorem test_vnip : givesV (.vnip 0 0) [] [7, 8] = 8 := by decide +kernel
theorem test_vsplat : fld (givesV (.vsplat 0 7) [0x1AB] []) 496 16 = 0xABAB := by decide +kernel
theorem test_vpull : stackOf (after (.vpull 0 1) (oneTile (tileVec [] [0xAA55]))) = [0xAA] := by decide +kernel
theorem test_vins : givesV (.vins 0 0x42) [0x11234] [0xFFFFFFFFFFFFFFFF] = 0xFFFF1234FFFFFFFF := by decide +kernel
theorem test_vadd_wraps : lowOf 16 (givesV (.vadd 0 7) [] [0x02FF, 0x0101]) = 0x0300 := by decide +kernel
theorem test_vadd_saturates : let s := after (.vadd 0 0x1F) (oneTile (tileVec [] [0xFF, 1]))
    lowOf 16 (givesV (.vadd 0 0x1F) [] [0xFF, 1]) = 0xFF ∧ bit ((s.drain 0).tile 0).ctl.fcsr 5 = true := by decide +kernel

/-- 1 + 2 = 3 in FP32. -/
theorem test_vadd_fp32 : lowOf 64 (givesV (.vadd 0 1) [] [0x3F800000, 0x40000000]) = 0x40400000 := by decide +kernel
theorem test_vsub_int32 : lowOf 64 (givesV (.vsub 0 5) [] [1, 2]) = 0xFFFFFFFF := by decide +kernel
theorem test_vmul_int16 : lowOf 32 (givesV (.vmul 0 6) [] [0x8000, 2]) = 0 := by decide +kernel
theorem test_vfma_int8 : lowOf 16 (givesV (.vfma 0 7) [] [3, 4, 5]) = 17 := by decide +kernel

/-- 2 × 3 + 1 = 7 in FP64. -/
theorem test_vfma_fp64 : lowOf 64 (givesV (.vfma 0 0) [] [0x4000000000000000, 0x4008000000000000, 0x3FF0000000000000]) =
    0x401C000000000000 := by decide +kernel
theorem test_vminmax_signed : lowOf 8 (givesV (.vminmax 0 7) [] [0xFF, 1]) = 0xFF := by decide +kernel
theorem test_vminmax_maximum : lowOf 8 (givesV (.vminmax 0 0x2F) [] [0xFF, 1]) = 0xFF := by decide +kernel
theorem test_vcmp_less : lowOf 16 (givesV (.vcmp 0 0x47) [] [0xFF, 1]) = 0x00FF := by decide +kernel
theorem test_vsel : lowOf 16 (givesV (.vsel 0 0) [] [0xAA, 0x55, 0xF0]) = 0xA5 := by decide +kernel
theorem test_vlogic_and_not : lowOf 16 (givesV (.vlogic 0 0x60) [] [0xFF, 0x0F]) = 0xF0 := by decide +kernel
theorem test_vshift_sar : lowOf 16 (givesV (.vshift 0 0x47) [] [0x4080, 9]) = 0x40C0 := by decide +kernel
theorem test_vcvt_widens : lowOf 64 (givesV (.vcvt 0 0xB9) [] [0x7FFF]) = 0x0000007FFFFFFFFF := by decide +kernel
theorem test_vcvt_fp32_to_int32 : lowOf 64 (givesV (.vcvt 0 0x19) [] [0xC0000000]) = 0xFFFFFFFE := by decide +kernel
theorem test_vred_sum : givesV (.vred 0 0xF) [] [0x0201FF] = 2 := by decide +kernel
theorem test_vshuf : lowOf 24 (givesV (.vshuf 0 0) [] [0x332211, 0x000102]) = 0x112233 := by decide +kernel
theorem test_vslide : lowOf 16 (givesV (.vslide 0 1) [] [0x332211, 0]) = 0x3322 := by decide +kernel
theorem test_vunary_negate : lowOf 16 (givesV (.vunary 0 7) [] [0x0102]) = 0xFFFE := by decide +kernel

/-- The square root of 4 in FP32. -/
theorem test_vunary_root : lowOf 64 (givesV (.vunary 0 0x41) [] [0x40800000]) = 0x40000000 := by decide +kernel
theorem test_vdiv : lowOf 32 (givesV (.vdiv 0 1) [] [0x3F800000, 0x40000000]) = 0x3F000000 := by decide +kernel
theorem test_vdot4 : lowOf 64 (givesV (.vdot4 0 0) [] [0xFF, 2, 5]) = 3 := by decide +kernel
theorem test_vstat : stackOf (after (.vstat 0 0) (oneTile (tileVec [] [1, 2]))) = [2] := by decide +kernel
theorem test_vld : lowOf 64 (nth (((after (.vld 0 0) (bytes8 (tileWith [0]))).drain 0).tile 0).vec.vs 0 0) = 0x8786858483828180 := by
  decide +kernel
theorem test_vst : let s := after (.vst 0 1) (oneTile (tileVec [0] [0xBBAA]))
    s.mem = [(tileMemBase 0 + 64, 0xAA), (tileMemBase 0 + 65, 0xBB)] := by decide +kernel
theorem test_vgather : let s := after (.vgather 0 2) (bytes8 (tileVec [0] [1]))
    let y := ((s.drain 0).tile 0).vec
    fld (nth y.vs 0 0) 0 64 = 0x8382818087868584 ∧ (s.tile 0).vec.port = 15 ∧ y.port = 0 := by decide +kernel
theorem test_vgather_far : trap (.vgather 0 2) (oneTile (tileVec [0x3FFF8] [2])) = (0x32, 0x40000, 0) := by decide +kernel
theorem test_vscatter_flies : let y := (after (.vscatter 0 3) (oneTile (tileVec [8] [0x11, 0]))).tile 0
    y.core.flight.map (·.rem) = [15] ∧ y.vec.vd = 0 := by decide +kernel

def scatter0 : Flight := { ord := 0, rem := 0, dest := .scatter [(8, [1, 2])], flags := 0, exc := none, pc := 0 }

def scattering : State := oneTile { tileWith [] with core := { (tileWith []).core with flight := [scatter0] } }

theorem test_vscatter_write : (after (.vscatterWrite 0) scattering).mem = [(tileMemBase 0 + 8, 1), (tileMemBase 0 + 9, 2)] := by decide +kernel
theorem test_vcopy : let s := after (.vcopy 0 0) (bytes8 (tileWith [64, 0, 1]))
    s.wordAt (tileMemBase 0 + 64) = 0x8786858483828180 ∧ s.byteAt (tileMemBase 0 + 72) = 0 := by decide +kernel
theorem test_vfill : let s := after (.vfill 0 0) (oneTile (tileWith [0x0201, 64, 1]))
    s.wordAt (tileMemBase 0 + 120) = 0x0201 ∧ s.wordAt (tileMemBase 0 + 128) = 0 := by decide +kernel
theorem test_vcopy_range : fld ((after (.vcopy 0 0) (oneTile (tileWith [0x40000, 0, 1]))).tile 0).ctl.ecause 0 8 = 7 := by decide +kernel

/-- Each shape of the vector instructions issues, on integer lanes with and without S and on each floating-point format. -/
theorem witness_vector_forms : ∀ f ∈ ([
      { opc := 0xA4, opb := 0x80, legal := true, vin := 3, vout := 3 }, { opc := 0xA5, opb := 7, legal := opLow 3 7, din := 1, vout := 1 },
      { opc := 0xA6, opb := 63, legal := opLane 63, dout := 1, vin := 1, vout := 1 },
      { opc := 0xA7, opb := 0xC7, legal := opLane 0xC7, din := 1, vin := 1, vout := 1 },
      { opc := 0xA8, opb := 0x1F, legal := opArith 1 0x1F, vin := 2, vout := 1 }, { opc := 0xA8, opb := 4, legal := opArith 1 4, vin := 2, vout := 1 },
      { opc := 0xAB, opb := 0, legal := opArith 1 0, vin := 3, vout := 1 }, { opc := 0xBA, opb := 3, legal := opArith 1 3 && isFp (fmtOf 3), vin := 2, vout := 1 },
      { opc := 0xAD, opb := 0xA1, legal := opArith 6 0xA1, vin := 2, vout := 1 }, { opc := 0xB5, opb := 0x62, legal := opArith 4 0x62, vin := 1, vout := 1 },
      { opc := 0xB0, opb := 0x47, legal := opArith 3 0x47 && !isFp (fmtOf 0x47), vin := 2, vout := 1 },
      { opc := 0xB1, opb := 0xB9, legal := (cvtBits (fld (0xB9 : Byte) 0 4)).isSome && (cvtBits (fld (0xB9 : Byte) 4 4)).isSome, vin := 1, vout := 1 },
      { opc := 0xAF, opb := 0x80, legal := true, vin := 1, vout := 1 }, { opc := 0xB9, opb := 0x18, legal := (0x18 : Byte) &&& 0xE7 == 0, vin := 3, vout := 1 }] :
        List Form), (oneTile rich).issues 0 f := all_issue (by decide +kernel)

theorem witness_integer_formats : 4 ≤ (4 : Byte).toNat % 8 ∧ 4 ≤ (0xFF : Byte).toNat % 8 := by decide

/-- A lane operation that sets an enabled flag, in precise mode and not: 1 ÷ 0 in FP32 with the trap of division by zero enabled. -/
theorem witness_enabled_flag : let z := fpFormat 1
    ((z.div 0x3F800000 0).2 ≠ 0) ∧ trapCode 0xFFFFFFFF (z.div 0x3F800000 0).2 ≠ none ∧ trapCode 0 (z.div 0x3F800000 0).2 = none := by
  decide +kernel

/-- Lines and lanes inside tile memory, at its end, past it and misaligned; a VSCATTER that is due. -/
theorem witness_vector_port : let fl : Form := { opc := 0xA0, opb := 0, port := true, din := 1, vout := 1 }
    let fg : Form := { opc := 0xA2, opb := 2, legal := opGather 2, port := true, din := 1, vin := 1, vout := 1 }
    let fc : Form := { opc := 0xA3, opb := 2, legal := opGather 2, port := true, din := 1, vin := 2 }
    (∀ l ∈ [[0x3FFC0], [0x40000], [0x20]], takesNow (oneTile (tileVec l [1, 2])) 0 fl = true) ∧
    (∀ l ∈ [[0x3FFF8], [0x40000], [1], [0]], takesNow (oneTile (tileVec l [1, 2])) 0 fg = true ∧
      takesNow (oneTile (tileVec l [1, 2])) 0 fc = true) ∧
    ((oneTile (tileVec [0] [1, 2])).boundary 0 1).memOk ∧ ((oneTile (tileVec [0] [1, 2])).boundary 0 1).marks = [] ∧
    ((scattering.tile 0).core.flight = [scatter0] ∧ scattering.memOk) := by
  unfold State.memOk; decide +kernel

/-- VCOPY and VFILL of lines that lie inside, end past tile memory at either end, and are misaligned. -/
theorem witness_lines : let f (opc : Byte) : Form := { opc, opb := 0, legal := opNone 0, din := 3 }
    (∀ l ∈ [[0x40, 0, 1], [0x40000, 0, 1], [0, 0x40000, 1], [0x20, 0, 1], [0, 0x20, 1], [0x3FFC0, 0, 1]],
      takesNow (oneTile (tileWith l)) 0 (f 0xB6) = true ∧ takesNow (oneTile (tileWith l)) 0 (f 0xB7) = true) ∧
    (let w := ((oneTile (tileWith [0x40, 0, 1])).boundary 0 1).drain 0
     w.memOk ∧ (w.tile 0).gmem.mb = [] ∧ w.marks = []) := by
  unfold State.memOk; decide +kernel

/-! ## The matrix unit -/

def withTmu (f : Tmu → Tmu) (x : Tile) : Tile := { x with tmu := f x.tmu }

def tmma0 : Tmma := { ord := 0, cfg := 0x800, a := 0, b := 1, z := true, pc := 0, started := false }

def queued (l : List Tmma) : Tile := withTmu (fun u => { u with queue := l }) (tileWith [0])

theorem test_tcfg : ((after (.tcfg 0 0) (oneTile (tileWith [0xFFFFFFFFFFFFFFFF]))).tile 0).tmu.tcfg = 0xFFFFFFFFFFFF := by decide +kernel
theorem test_tcfgr : gives (.tcfgr 0 0) [] = [0x40F03F0] := by decide +kernel
theorem test_tmma : ((after (.tmma 0 0x48) (oneTile (tileWith []))).tile 0).tmu.queue.map (fun m => (m.a, m.b, m.z)) = [(0, 1, true)] := by
  decide +kernel
theorem test_tmma_reserved_type : trap (.tmma 0 0) (oneTile (withTmu (fun u => { u with tcfg := 0x803 }) (tileWith []))) = (0x38, 0x803, 0) := by
  decide +kernel
theorem test_tpull_sign : let x := withTmu (fun u => { u with acc := u.acc.setIfInBounds 5 0xFFFFFFFF }) (tileWith [])
    stackOf (after (.tpull 0 0x45) (oneTile x)) = [0xFFFFFFFFFFFFFFFF] ∧ stackOf (after (.tpull 0 5) (oneTile x)) = [0xFFFFFFFF] := by
  decide +kernel
theorem test_tpull_waits : ((after (.tpull 0 5) (oneTile (queued [tmma0]))).tile 0).core.doing = .wait 0xC5 5 := by decide +kernel
theorem test_tvec : let x := withTmu (fun u => { u with acc := u.acc.setIfInBounds 17 9 }) (tileWith [])
    fld (nth (((after (.tvec 0 1) (oneTile x)).drain 0).tile 0).vec.vs 0 0) 0 64 = 0x900000000 := by decide +kernel
theorem test_tsta : let x := withTmu (fun u => { u with acc := u.acc.setIfInBounds 1 0x0A0B }) (tileWith [0x40])
    (after (.tsta 0 0) (oneTile x)).mem = [(tileMemBase 0 + 0x44, 0x0B), (tileMemBase 0 + 0x45, 0x0A)] := by decide +kernel
theorem test_tlda : nth ((after (.tlda 0 0) (bytes8 (tileWith [0]))).tile 0).tmu.acc 1 0 = 0x87868584 := by decide +kernel
theorem test_tstat : stackOf (after (.tstat 0 0) (oneTile (withTmu (fun u => { u with sat := true, queue := [tmma0, tmma0] }) (tileWith [])))) =
    [18] := by decide +kernel
theorem test_tload : let y := (after (.tload 0 3) (bytes8 (withTmu (fun u => { u with tcfg := 0x4000000 }) (tileWith [0])))).tile 0
    lowOf 64 (y.tmu.row 3 0) = 0x8786858483828180 ∧ y.core.d = 0 := by decide +kernel
theorem test_tstore : let x := withTmu (fun u => { u with tcfg := 0x4000000, tr := u.tr.setIfInBounds 3 (Vector.replicate 8 0x0102) }) (tileWith [0x80])
    (after (.tstore 0 3) (oneTile x)).mem = [(tileMemBase 0 + 0x80, 2), (tileMemBase 0 + 0x81, 1)] := by decide +kernel
theorem test_tmma_start : ((after (.tmmaStart 0) (oneTile (queued [tmma0]))).tile 0).tmu.queue.map (·.started) = [true] := by decide +kernel

/-- 2 × 3 + (−1) × 4 = 2. -/
theorem test_tmma_finish : let x := withTmu (fun u => { u with
      queue := [{ tmma0 with started := true }], tr := (u.tr.setIfInBounds 0 (Vector.replicate 8 0xFF02)).setIfInBounds 1 (Vector.replicate 8 0x0403) }) (tileWith [])
    let y := ((after (.tmmaFinish 0) (oneTile x)).tile 0).tmu
    nth y.acc 0 0 = 2 ∧ nth y.acc 1 0 = 0 ∧ y.queue = [] := by decide +kernel

def loadingRow : State :=
  withReq { req0 with kind := .row 0, st := .done 0x77 false } (withTmu (fun u => { u with tcfg := 0x4000000 }) (inLong 0xC2 (tileWith [0])))

theorem test_tload_row_arrives : ((after (.tloadRowArrives 0) loadingRow).tile 0).tmu.row 0 0 = 0x77 := by decide +kernel

/-- TMMAs with a good and a bad configuration and a full queue; the instructions that wait for the array, and blocks of the accumulator
inside, past and misaligned. -/
theorem witness_matrix_unit : let ft : Form := { opc := 0xC4, opb := 0x48, legal := opLow 7 0x48 }
    let fs : Form := { opc := 0xC6, opb := 0, legal := opNone 0, din := 1 }
    (∀ x ∈ [queued [], queued [tmma0, tmma0, tmma0, tmma0], withTmu (fun u => { u with tcfg := 0x803 }) (queued [])],
      takesNow (oneTile x) 0 ft = true) ∧ cfgBad Tmu.reset.tcfg = false ∧ cfgBad 0x803 = true ∧
    (∀ l ∈ [[0x3FF00], [0x3FF40], [0x20]], takesNow (oneTile (tileWith l)) 0 fs = true) ∧
    takesNow (oneTile (queued [tmma0])) 0 { opc := 0xC5, opb := 5, legal := opLow 7 5, dout := 1 } = true ∧
    takesNow (oneTile (queued [])) 0 { opc := 0xC9, opb := 1, legal := opLow 2 1, vout := 1 } = true ∧
    (((oneTile (queued [])).boundary 0 1).drain 0).memOk ∧ (((oneTile (queued [])).boundary 0 1).drain 0).marks = [] := by
  unfold State.memOk; decide +kernel

/-- TLOAD and TSTORE whose rows fit, whose second row lies past tile memory, misaligned, and of a register in use; the last row that arrives. -/
theorem witness_rows : let fl : Form := { opc := 0xC2, opb := 0, legal := opLow 4 0, din := 1 }
    let two (l : List Word) : Tile := withTmu (fun u => { u with tcfg := 0x4020000 }) (tileWith l)
    (∀ x ∈ [two [0], two [0x3FFC0], two [0x20], withTmu (fun u => { u with queue := [tmma0] }) (two [0])], takesNow (oneTile x) 0 fl = true) ∧
    (fld (0x4020000 : Word) 17 3 = 1 ∧ fld (0x4020000 : Word) 20 28 = 64) ∧ tmma0.a.toNat = 0 ∧
    ((loadingRow.tile 0).longIn = some (0xC2, 0) ∧ (loadingRow.tile 0).firstRow = cfgRows (loadingRow.tile 0).tmu.tcfg ∧
      loadingRow.reqs.find? (fun q => q.tile = 0 && q.kind == .row (loadingRow.tile 0).firstRow && q.performed) =
        some { req0 with kind := .row 0, st := .done 0x77 false }) := by decide +kernel

/-- The oldest TMMA before and after its start, whose partial sums stay in range. -/
theorem witness_array : ((oneTile (queued [tmma0])).tile 0).tmu.queue = [tmma0] ∧ tmma0.started = false ∧
    ((oneTile (queued [{ tmma0 with started := true }])).tile 0).waitsIn = none ∧
    fld tmma0.cfg 0 2 = 0 ∧ fld tmma0.cfg 2 2 < 2 ∧ fld tmma0.cfg 10 7 = 2 ∧ tmma0.a ≠ tmma0.b := by decide +kernel

/-! ## The stags -/

/-- The bytes of words from an address on, without those that are 0. -/
def wordsAt (a : Nat) (l : List Word) : List Host.Cell :=
  (l.zipIdx.flatMap fun p => (List.range 8).map fun i => (a + 8 * p.2 + i, p.1.extractLsb' (8 * i) 8)).filter fun c => c.2 != 0

/-- A device whose block 0 is this one and whose memory is this. -/
def withBlock (b : Block) (mem : List Host.Cell) (x : Tile) : State := { world x with blocks := [(0, b)], mem }

/-- One output of K = 2 signed INT8 elements: A at offset 0 of tile 0's memory and B at 0x100, each row 64 bytes on, and the INT32 output at 0x200. -/
def dot : StagCmd :=
  { words := #v[0x4000, 0x200010001, 0x4080000000, 0x4080000100, 0, 0x4080000200, 0], off := 0x400, tile := 0, part := 0, relE := 0, fenE := 0
    seq := 0, bad := false, behind := false }

def run0 : StagRun := { srow := 0, otile := 0, s := 0, before := 0, cyc := 0, cells := [], flags := .none_, err := none }

def stagBlock (q : List StagCmd) (run : Option StagRun) : Block := { Block.reset with stag := { Stag.reset with queue := q, run } }

/-- A = 2, −1 and B = 3, 4. -/
def dotState (run : Option StagRun) : State :=
  withBlock (stagBlock [dot] run) ([(tileMemBase 0, 2), (tileMemBase 0 + 0x40, 0xFF), (tileMemBase 0 + 0x100, 3), (tileMemBase 0 + 0x140, 4)]) (tileWith [])

theorem test_sgo : let s := after (.sgo 0 0) (withBlock Block.reset (wordsAt (tileMemBase 0 + 0x40) [7, 8]) (tileWith [0x40]))
    stackOf s = [1] ∧ (s.block 0).stag.queue.map (fun c => (c.off, nth c.words 1 0)) = [(0x40, 8)] := by decide +kernel
theorem test_sgo_full : let s := after (.sgo 0 0) (withBlock (stagBlock (List.replicate 16 dot) none) [] (tileWith [0x40]))
    stackOf s = [0] ∧ nth (s.block 0).stag.ctrs 6 0 = 1 := by decide +kernel
theorem test_sgo_misaligned : trap (.sgo 0 0) (oneTile (tileWith [0x48])) = (6, 0x48, 0) := by decide +kernel
theorem test_sstat : stackOf (after (.sstat 0 0) (withBlock (stagBlock [dot, dot] none) [] (tileWith []))) = [2] := by decide +kernel
theorem test_sctr : stackOf (after (.sctr 0 6) (withBlock { Block.reset with stag := { Stag.reset with ctrs := (Vector.replicate 16 0).setIfInBounds 6 9 } } [] (tileWith []))) =
    [9] := by decide +kernel
theorem test_sctrclr : nth ((after (.sctrclr 0 0) (withBlock { Block.reset with stag := { Stag.reset with ctrs := Vector.replicate 16 9 } } [] (tileWith []))).block 0).stag.ctrs 6 0 =
    0 := by decide +kernel

theorem test_scancel : let s := after (.scancel 0 0) (dotState none)
    stackOf s = [1] ∧ (s.block 0).stag.queue = [] := by decide +kernel
theorem test_stag_command_start : ((after (.stagCommandStart 0) (dotState none)).block 0).stag.run.map (fun r => (r.srow, r.otile, r.err)) =
    some (0, 0, none) := by decide +kernel

/-- 2 × 3 + (−1) × 4 = 2. -/
theorem test_stag_output_tile : let s := after (.stagOutputTileDone 0) (dotState (some run0))
    s.valueAt (tileMemBase 0 + 0x200) 4 = 2 ∧ (s.block 0).stag.run.map (·.otile) = some 1 := by decide +kernel
theorem test_stag_complete : let s := after (.stagCommandComplete 0) (dotState (some { run0 with otile := 1 }))
    (s.block 0).stag.queue = [] ∧ (s.block 0).stag.run = none := by decide +kernel
theorem test_stag_data_error : ((after (.stagDataError 0) (dotState (some run0))).block 0).stag.run.map (·.err) = some (some 9) := by decide +kernel
theorem test_stag_preempt : let s := after (.stagPreempt 0 1) (dotState (some run0))
    (s.block 0).stag.paused = true ∧ (s.block 0).stag.run.map (·.srow) = some 1 := by decide +kernel
theorem test_stag_resume : ((after (.stagResume 0) (withBlock { Block.reset with stag := { Stag.reset with paused := true } } [] (tileWith []))).block 0).stag.paused =
    false := by decide +kernel

/-- A record of K = 9,000, whose first pass ends after 8,192 rows. -/
def long0 : StagCmd := { dot with words := dot.words.setIfInBounds 1 0x232800010001 }

/-- A 16-bit attempt whose cell has overflowed with every row in. -/
def acc16 : StagCmd := { dot with words := dot.words.setIfInBounds 0 0x4100 }

def spilled : StagRun := { run0 with srow := 2, cells := [.word 40000 true] }

/-- SGO inside, past tile memory, misaligned, and at a retired stag. -/
theorem witness_stag_instructions : let f : Form := { opc := 0xD0, opb := 0, legal := opNone 0, din := 1, dout := 1 }
    (∀ l ∈ [[0x3FFC0], [0x40000], [0x48]], takesNow (oneTile (tileWith l)) 0 f = true) ∧
    ({ FloorPlan.reset with stags := [0] }).stags.contains (blockOf 0) = true ∧ FloorPlan.reset.stags.contains (blockOf 0) = false ∧
    (dotState none).memOk ∧ (∀ i < 8, (dotState none).access dot.who (tileMemBase 0 + 0x438 + i) = .serve) := by
  unfold State.memOk; decide +kernel

/-- A command at the head before its start, sound and refused in each way; one whose pass ends, one that has overflowed, one whose tile is done, one
that is complete with and without an error, and one that is held. -/
theorem witness_stag_commands :
    (let s := dotState none
     (s.block 0).stag.queue = [dot] ∧ (s.block 0).stag.paused = false ∧ (s.block 0).resetting = none ∧ s.relMet 0 0 = true ∧ s.fenMet 0 0 = true) ∧
    (recFld dot.words 0 0 4 < 4 ∧ recFld dot.words 0 12 3 = 4 ∧ recFld dot.words 0 16 2 = 0) ∧ 0xB < recFld (dot.words.setIfInBounds 0 0x400C) 0 0 4 ∧
    ((run0.srow / 8192 + 1) * 8192 < recK long0.words ∧ recAcc16 long0.words = false ∧ run0.otile < recTiles long0.words) ∧
    ((dotState (some run0)).clean ∧ (dotState (some run0)).memOk ∧ recM dot.words = 1 ∧ recN dot.words = 1 ∧ recK dot.words = 2 ∧
      recFld dot.words 0 0 18 = 0x4000 ∧
      (∀ i < 2, (dotState (some run0)).access dot.who (stagAddr 0 0x80000000 (64 * i)) = .serve ∧
        (dotState (some run0)).access dot.who (stagAddr 0 0x80000100 (64 * i)) = .serve) ∧
      (∀ i < 4, (dotState (some run0)).access dot.who (stagAddr 0 0x80000200 i) = .serve)) ∧
    recTiles dot.words ≤ 1 ∧ (dotState (some { run0 with otile := 1 })).memOk := by
  unfold State.clean State.memOk; decide +kernel

theorem witness_stag_overflow : let s := withBlock (stagBlock [acc16] (some spilled)) [] (tileWith [])
    ∃ job, s.job 0 = some job ∧ job.abandons (s.stagAdvance 0 job (recK acc16.words)).2 = true := by
  refine ⟨_, rfl, ?_⟩
  decide +kernel

/-! ## The DMA engines -/

def chain0 : Chain := { head := 0, tile := 0, part := 0, user := false, relE := 0, fenE := 0, seq := 0 }

/-- 8 bytes from tile 1's memory to tile 2's, with city addresses. -/
def move8 : List Word := [BitVec.ofNat 64 (tileMemBase 1), BitVec.ofNat 64 (tileMemBase 2), 0x100000008, 0, 0, 0x20, 0, 0]

def dmaRun0 : DmaRun :=
  { id := 0, desc := 0, words := #v[BitVec.ofNat 64 (tileMemBase 1), BitVec.ofNat 64 (tileMemBase 2), 0x100000008, 0, 0, 0x20, 0, 0], issued := 0
    fail := none, stopped := false, met := false, lastDst := 0, back := false }

def xfer0 : Transfer :=
  { id := 0, ch := 0, run := 0, part := 0, epoch := 0, user := false, pos := 0, len := 8, dst := tileMemBase 2, data := [1, 2, 3, 4, 5, 6, 7, 8], err := none
    st := .ready }

def dmaState (c : Channel) (slots : List Transfer) (mem : List Host.Cell) : State :=
  withBlock { Block.reset with dma := { Dma.reset with chans := Dma.reset.chans.setIfInBounds 0 c, slots, tlb := [page] } } mem (mapping (tileWith [0x40]))

def fresh0 : Channel := { Channel.reset with chains := [chain0] }
def live0 : Channel := { fresh0 with live := true, runs := [dmaRun0] }
def spent0 : Channel := { fresh0 with live := true, runs := [{ dmaRun0 with issued := 8 }] }

theorem test_dmago : ((after (.dmago 0 0) (dmaState .reset [] [])).chan 0 0).chains.map (·.head) = [0x40] := by decide +kernel
theorem test_waitd_of_no_chain : ((after (.waitd 0 0) (dmaState fresh0 [] [])).tile 0).core.d = 0 := by decide +kernel
theorem test_dmastop : let s := after (.dmastop 0 0) (dmaState { fresh0 with chains := [chain0, chain0] } [] [])
    stackOf s = [0x40, 2] ∧ (s.chan 0 0).chains = [] := by decide +kernel
theorem test_dmastat : stackOf (after (.dmastat 0 0) (dmaState { live0 with evt := 3 } [] [])) = [0x40, 0x30021] := by decide +kernel
theorem test_dmaack : let s := after (.dmaack 0 0) (dmaState { live0 with evt := 3 } [] [])
    stackOf s = [0x40, 3] ∧ (s.chan 0 0).evt = 0 := by decide +kernel
theorem test_dmactr : stackOf (after (.dmactr 0 1) (dmaState .reset [] [])) = [0x40, 0] := by decide +kernel
theorem test_dmactrclr : nth ((after (.dmactrclr 0 0) (dmaState .reset [] [])).block 0).dma.ctrs 1 0 = 0 := by decide +kernel
theorem test_descriptor_start : let c := (after (.descriptorStart 0 0) (dmaState fresh0 [] (wordsAt (tileMemBase 0) move8))).chan 0 0
    c.live = true ∧ c.runs.map (·.fail) = [none] := by decide +kernel
theorem test_descriptor_refused : ((after (.descriptorStart 0 0) (dmaState fresh0 [] [])).chan 0 0).runs.map (·.fail) = [some (2, 0)] := by decide +kernel
theorem test_transfer_issue : ((after (.transferIssue 0 0) (dmaState live0 [] (wordsAt (tileMemBase 1) [0x0807060504030201]))).block 0).dma.slots.map
    (fun x => (x.dst, x.data)) = [(tileMemBase 2, [1, 2, 3, 4, 5, 6, 7, 8])] := by decide +kernel
theorem test_transfer_complete : let s := after (.transferComplete 0 0) (dmaState live0 [xfer0] [])
    s.wordAt (tileMemBase 2) = 0x0807060504030201 ∧ (s.block 0).dma.slots = [] := by decide +kernel
theorem test_descriptor_complete : let s := after (.descriptorComplete 0 0) (dmaState spent0 [] [])
    (s.chan 0 0).chains = [] ∧ (s.chan 0 0).live = false := by decide +kernel

/-- A completion ring of 16 records in tile 3's memory with 5 of them appended and so many consumed. -/
def ring (cons : Word) : List Host.Cell := wordsAt (tileMemBase 3) [5, cons, 4]

def ringRun : DmaRun := { dmaRun0 with
  issued := 8, words := (dmaRun0.words.setIfInBounds 5 0x28).setIfInBounds 6 (BitVec.ofNat 64 (tileMemBase 3)) }

theorem test_completion_record : let s := after (.descriptorComplete 0 0) (dmaState { spent0 with runs := [ringRun] } [] (ring 0))
    s.wordAt (tileMemBase 3) = 6 ∧ s.wordAt (tileMemBase 3 + 64 + 5 * 32) = 0x4000 := by decide +kernel
theorem test_ring_full : ((after (.ringConsReread 0 0) (dmaState { spent0 with runs := [ringRun], cqwait := true } [] (ring 0xFFFFFFFFFFFFFFF5))).chan 0 0).cqwait =
    true := by decide +kernel

/-- DMAGO at an aligned and a misaligned descriptor and with a full channel; WAITD of a chain that is there and one that is not. -/
theorem witness_dma_instructions : let f : Form := { opc := 0xD8, opb := 0, legal := opNone 0, din := 1 }
    let sixteen : Channel := { fresh0 with chains := List.replicate 16 chain0 }
    takesNow (dmaState .reset [] []) 0 f = true ∧ takesNow (dmaState sixteen [] []) 0 f = true ∧
    takesNow (oneTile (tileWith [0x48])) 0 f = true ∧ (mapping (tileWith [])).tlbFind 0x40 = some page ∧
    (fresh0.hasChain 0 = true ∧ fresh0.hasChain 0x40 = false) ∧
    takesNow (dmaState live0 [] []) 0 { opc := 0xDA, opb := 0x1F, legal := true, sup := true, dout := 1 } = true := by decide +kernel

/-- A descriptor to be read, one with a transfer to issue, a transfer to be written, and descriptors that complete with no ring, with room in it and with
none. -/
theorem witness_dma_channels :
    (let s := dmaState fresh0 [] (wordsAt (tileMemBase 0) move8)
     s.dmaRuns 0 = true ∧ (s.chan 0 0).chains = [chain0] ∧ s.clean ∧ s.memOk ∧ (s.block 0).dma.tlb.find? (fun x => x.covers 0 0) = some page ∧
      (∀ i < 64, s.access chain0.who (tileMemBase 0 + i) = .serve) ∧ s.isLocal (page.addr 0) = true) ∧
    descBad dmaRun0.words false = false ∧
    (let s := dmaState live0 [] (wordsAt (tileMemBase 1) [7])
     (s.chan 0 0).runs = [] ++ [dmaRun0] ∧ (s.chan 0 0).ready = true ∧ bit (dmaRun0.word 5) 5 = true ∧
      (∀ i < 8, s.access chain0.who (tileMemBase 1 + i) = .serve)) ∧
    (let s := dmaState live0 [xfer0] []
     (s.block 0).dma.slots[0]? = some xfer0 ∧ xfer0.data.length = xfer0.len ∧ (∀ i < 8, s.access (xfer0.who 0) (tileMemBase 2 + i) = .serve)) ∧
    (let s := dmaState { spent0 with runs := [ringRun] } [] (ring 0)
     s.runOver 0 ringRun = true ∧ ringRun.bar ≠ 2 ∧ (s.tile 0).waitsIn = none ∧ s.clean ∧ s.memOk ∧
      (∀ i < 24, s.access chain0.who (tileMemBase 3 + i) = .serve) ∧ fld (s.wordAt (tileMemBase 3 + 16)) 0 5 = 4 ∧
      (s.wordAt (tileMemBase 3) - s.wordAt (tileMemBase 3 + 8)).toNat < 2 ^ 4) := by
  unfold State.clean State.memOk; decide +kernel

/-! ## Queues -/

/-- A tile whose receive queue k is this one. -/
def withQueue (k : Nat) (q : RQueue) (x : Tile) : Tile := { x with queues := x.queues.setIfInBounds k q }

def message0 : Message := { len := 2, src := 33, part := 0, epoch := 0, data := 0x0B0A }

def open0 : RQueue := { RQueue.reset with isOpen := true }

/-- An attempt of tile 0 to send two bytes to queue 3 of tile 1. -/
def attempt0 : Attempt :=
  { id := 9, tile := 0, opc := 0xE0, qid := 11, len := 2, data := 0x0B0A, slot := none, part := 0, epoch := 0, seq := 0, relE := 0, fenE := 0
    acked := false, st := .waiting }

/-- A device with this attempt, whose tile 1 has this queue 3. -/
def sending (a : Attempt) (q : RQueue) (x : Tile) : State :=
  { world x with tiles := [(0, x), (1, withQueue 3 q (tileWith []))], attempts := [a] }

theorem test_send_waits : let s := after (.send 0 0) (bytes8 (tileWith [0, 2, 11]))
    (s.tile 0).core.doing = .wait 0xE0 0 ∧ s.attempts.map (fun a => (a.qid, a.len, a.data)) = [(11, 2, 0x8180)] := by decide +kernel
theorem test_send_length : trap (.send 0 0) (oneTile (tileWith [0, 65, 11])) = (0x50, 11, 0) := by decide +kernel
theorem test_sendt : let s := after (.sendt 0 0) (bytes8 (tileWith [0, 2, 11]))
    (s.tile 0).core.d = 0 ∧ (s.tile 0).gmem.slots.length = 1 ∧ s.attempts.map (·.opc) = [0xE1] := by decide +kernel
theorem test_sendc : (after (.sendc 0 0) (bytes8 (tileWith [0, 2, 11]))).attempts.map (·.opc) = [0xE2] := by decide +kernel
theorem test_recv : let s := after (.recv 0 0) (oneTile (withQueue 3 { open0 with msgs := [message0] } (tileWith [0x40, 3])))
    stackOf s = [0x210002] ∧ s.mem = [(tileMemBase 0 + 0x40, 0x0A), (tileMemBase 0 + 0x41, 0x0B)] ∧ ((s.tile 0).queue 3).msgs = [] := by
  decide +kernel
theorem test_recv_closed : trap (.recv 0 0) (oneTile (tileWith [0x40, 3])) = (0x51, 3, 0) := by decide +kernel
theorem test_select : gives (.select 0 0) [0] = [0] ∧ stackOf (after (.select 0 0)
    (oneTile (withQueue 5 { open0 with msgs := [message0] } (withQueue 2 open0 (tileWith [0x3C]))))) = [5] := by decide +kernel
theorem test_qopen : let y := (after (.qopen 0 0) (oneTile (tileWith [4]))).tile 0
    (y.queue 2).isOpen = true ∧ (y.queue 3).isOpen = false := by decide +kernel
theorem test_qclose : let y := (after (.qclose 0 0) (oneTile (withQueue 2 { open0 with msgs := [message0, message0] } (tileWith [4])))).tile 0
    (y.queue 2).isOpen = false ∧ (y.queue 2).msgs = [] ∧ (y.queue 2).drops = 2 := by decide +kernel
theorem test_qstat : stackOf (after (.qstat 0 2) (oneTile (withQueue 2 { open0 with msgs := [message0], epoch := 7 } (tileWith [])))) =
    [0x700FF0021] := by decide +kernel
theorem test_qimask : ((after (.qimask 0 0) (oneTile (tileWith [0x1A5]))).tile 0).qimask = 0xA5 := by decide +kernel
theorem test_message_delivered : let s := after (.messageArrives 9) (sending attempt0 open0 (tileWith []))
    ((s.tile 1).queue 3).msgs.map (fun m => (m.len, m.src)) = [(2, 0)] ∧ s.attempts.map (·.st) = [.flying .delivered] := by decide +kernel
theorem test_message_stale : let s := after (.messageArrives 9) (sending attempt0 { open0 with epoch := 1 } (tileWith []))
    ((s.tile 1).queue 3).stale = 1 ∧ s.attempts.map (·.st) = [.flying .discarded] := by decide +kernel
theorem test_answer_completes_send :
    let s := after (.messageAnswerArrives 9) (sending { attempt0 with st := .flying .delivered } open0 (waiting 0xE0 (tileWith [0, 2, 11])))
    (s.tile 0).core.d = 0 ∧ s.attempts = [] := by decide +kernel
theorem test_resend : (after (.sendResend 9) (sending { attempt0 with st := .refused } open0 (tileWith []))).attempts.map (·.st) = [.waiting] := by
  decide +kernel
theorem test_reservation_lapse : ((after (.reservationLapse 1 3) (sending attempt0 { open0 with waiters := [7, 8], resv := true } (tileWith []))).tile 1).queue 3 =
    { open0 with waiters := [8], resv := true } := by decide +kernel

/-- SEND and SENDT of sound operands and of each kind of faulty ones; RECV from closed, empty and full queues at good and bad places; SELECT. -/
theorem witness_queue_instructions : let f : Form := { opc := 0xE0, opb := 0, legal := opNone 0, din := 3 }
    let g : Form := { opc := 0xE3, opb := 0, legal := opNone 0, din := 2, dout := 1 }
    let h : Form := { opc := 0xE4, opb := 0, legal := opNone 0, din := 1, dout := 1 }
    (∀ l ∈ [[0x3FFC0, 64, 163839], [0, 65, 11], [0, 0, 11], [0, 64, 163840], [0x3FFC8, 64, 11], [4, 2, 11]],
      takesNow (oneTile (tileWith l)) 0 f = true) ∧
    takesNow (oneTile (withSlots (List.replicate 8 slot0) (tileWith [0, 2, 11]))) 0 { f with opc := 0xE1 } = true ∧
    (∀ q ∈ [RQueue.reset, open0, { open0 with msgs := [message0] }], ∀ l ∈ [[0x3FFC0, 3], [0x3FFC8, 3], [4, 3]],
      takesNow (oneTile (withQueue 3 q (tileWith l))) 0 g = true) ∧ message0.len ≤ 64 ∧
    (∀ q ∈ [RQueue.reset, open0, { open0 with msgs := [message0] }], takesNow (oneTile (withQueue 3 q (tileWith [8]))) 0 h = true) := by
  decide +kernel

/-- A message for another partition's tile, a closed queue, an old epoch, a full queue and one with room; the answers to a SEND and a SENDT; a refused
message and a reservation. -/
theorem witness_messages :
    (∀ q ∈ [RQueue.reset, { open0 with epoch := 1 }, { open0 with msgs := List.replicate 16 message0 }, open0],
      (sending attempt0 q (tileWith [])).attempt? 9 = some attempt0 ∧ (sending attempt0 q (tileWith [])).maySend attempt0 = true) ∧
    ({ attempt0 with part := 1 }.part ≠ ((sending attempt0 open0 (tileWith [])).tile 1).part) ∧
    (1 ≤ ((1 : BitVec 32) - attempt0.epoch).toNat ∧ ((1 : BitVec 32) - attempt0.epoch).toNat ≤ 2 ^ 31) ∧
    ((sending { attempt0 with st := .flying .delivered } open0 (waiting 0xE0 (tileWith [0, 2, 11]))).tile 0).waitsIn = some (0xE0, 0) ∧
    ((sending { attempt0 with st := .flying .delivered, slot := some 5, opc := 0xE1 } open0 (withSlots [slot0] (tileWith []))).tile 0).waitsIn = none ∧
    { open0 with waiters := [7], resv := true }.reservedFrom 0 = true := by decide +kernel

/-! ## Tallies -/

/-- Quarter 0 in partition 0's hands, with a grant. -/
def granted (x : Tile) : State := { world x with quarters := [(0, { Quarter.reset with running := some 0, grants := [(0, .reset)] })] }

theorem test_tadd : ((after (.tadd 0 0) (granted (tileWith [7, 0x45]))).block 1).tops.map (fun o => (o.i, o.op)) =
    [(5, .add 7 (.tile 0 0 0))] := by decide +kernel
theorem test_tsub : ((after (.tsub 0 0) (granted (tileWith [7, 0x45]))).block 1).tops.map (·.op) = [.sub 7 (.tile 0 0 0)] := by decide +kernel
theorem test_tread : let s := after (.tread 0 0) (granted (tileWith [0x45]))
    (s.tile 0).gmem.slots.length = 1 ∧ s.reqs.map (·.kind) = [.tread] ∧ (s.block 1).tops.length = 1 := by decide +kernel
theorem test_tadd_beyond : trap (.tadd 0 0) (granted (tileWith [7, 81920])) = (0x52, 81920, 0) := by decide +kernel
theorem test_tevts : let s := after (.tevts 0 0) (oneTile { tileWith [] with tevts := 6 })
    stackOf s = [6] ∧ (s.tile 0).tevts = 0 := by decide +kernel
theorem test_waitt : let s := after (.waitt 0 1) (granted (tileWith [4, 5]))
    (s.tile 0).core.doing = .wait 0xE7 1 ∧ (s.block 0).tops.map (·.op) = [.wait 4 true 0] := by decide +kernel

def stagAdd : TallyOp := { id := 1, i := 5, tile := none, relE := 0, acqE := 0, fenE := 0, seq := 0, part := 0, epoch := 0, op := .add 1 .stag }

/-- TADD of 2 by tile 3.20.4, which is tile 3,396. -/
def tileAdd : TallyOp := { id := 2, i := 5, tile := some 3396, relE := 0, acqE := 0, fenE := 0, seq := 0, part := 0, epoch := 0, op := .add 2 (.tile 3396 0 0x44) }

def watch5 : TallyWatch := { num := 0, tile := 3401, i := 5, n := 4, consume := true, placed := true, served := false }

/-- Tally 5 of block 3.20 in the example of R286, with this limit. -/
def tally5 (limit : BitVec 32) : State :=
  { State.reset with
    tiles := [(3396, tileWith []), (3401, waiting 0xE7 (tileWith [4, 13573]))]
    blocks := [(212, { Block.reset with
      tallies := [(5, { Tally.reset with value := 18, limit, thresh := 16, even := true })], tops := [stagAdd, tileAdd], watches := [watch5] })] }

/-- The example of R286: VALUE stops at LIMIT, the adding tile hears of it, and the watch is not served. -/
theorem test_tally_overflows : let s := after (.tallyCycle 212 5 [1, 2]) (tally5 20)
    (s.tally 212 5).value = 20 ∧ (s.tally 212 5).ovf = true ∧ ((s.tile 3396).core.impr.map (·.1)) = some 0x53 ∧
    (s.block 212).watches.map (·.served) = [false] := by decide +kernel

/-- The same with the highest LIMIT: VALUE reaches 21, and 17 after the consumption. -/
theorem test_tally_serves : let s := after (.tallyCycle 212 5 [1, 2]) (tally5 0xFFFFFFFF)
    (s.tally 212 5).value = 17 ∧ (s.tally 212 5).ovf = false ∧ (s.block 212).watches.map (·.served) = [true] := by decide +kernel
theorem test_tally_retry : ((after (.tallyWatchRetry 3401)
    { tally5 20 with blocks := [(212, { Block.reset with watches := [{ watch5 with placed := false }] })] }).block 212).tops.map (·.op) = [.wait 4 true 3401] := by
  decide +kernel
theorem test_waitt_reply : ((after (.waittReplyArrives 3401)
    { tally5 20 with blocks := [(212, { Block.reset with watches := [{ watch5 with placed := false, served := true }] })] }).tile 3401).core.d = 0 := by
  decide +kernel

def stuck : State :=
  { world (waiting 0xE3 (tileWith [0, 3])) with quarters := [(0, { Quarter.reset with gridEn := true })] }

theorem test_gridlock : let s := after (.gridlockFire 0) stuck
    (s.quarter 0).gridFired = true ∧ bit (s.quarter 0).gridList 0 = true ∧ s.out = [.toSquare 4 0 1] := by decide +kernel

/-- A tally of one's own, of none and beyond the last; WAITT of each. -/
theorem witness_tally_instructions : let f : Form := { opc := 0xE6, opb := tallyByte 0 0, legal := true, din := 2 }
    let g : Form := { opc := 0xE7, opb := 1, legal := opLow 1 1, din := 2 }
    (∀ l ∈ [[7, 81919], [7, 81920], [0, 5]], takesNow (granted (tileWith l)) 0 f = true ∧ takesNow (granted (tileWith l)) 0 g = true) ∧
    (granted (tileWith [])).ownsTally 0 0 = true ∧ (world (tileWith [])).ownsTally 0 0 = false := by decide +kernel

/-- A frozen tally, sums below zero, within LIMIT and above it, a served watch, and the tiles that wait. -/
theorem witness_tally_cycles : let frozen : Tally := { Tally.reset with ovf := true }
    frozen.frozen = true ∧ (tally5 20).marks = [] ∧ ((tally5 20).block 212).resetting = none ∧ ((tally5 20).tally 212 5).frozen = false ∧
    ((tally5 20).block 212).tops.all (fun o => (tally5 20).mayTally 212 o) = true ∧ 18 ≤ 20 ∧ stagAdd.watch? = none ∧ tileAdd.watch? = none ∧
    watch5.n ≤ 18 ∧ watch5.n ≠ 0 ∧ watch5.num < 64 ∧
    ((tally5 20).tile 3401).waitsIn = some (0xE7, 0) ∧ ((tally5 20).tile 3401).core.entry 0 / 64 = 212 ∧
    (stuck.quarter 0).gridEn = true ∧ stuck.liveTiles 0 = [0] ∧ (stuck.tile 0).waitsIn = some (0xE3, 0) := by decide +kernel

/-! ## Streets, groups and sums -/

/-- Quarter 0 with partition 0 running and this change of it. -/
def quarter0 (f : Quarter → Quarter) (x : Tile) : State := { oneTile x with quarters := [(0, f { Quarter.reset with running := some 0 })] }

/-- A group of the tiles (0, 0) to (1, 0) of quarter 0. -/
def grouped : State := quarter0 (fun y => { y with mcgrp := [(3, (0x10001, 0x100))] }) (tileWith [])

def rtag0 : RTag := { RTag.reset with v := true, kind := true, tag := 5, dest := BitVec.ofNat 56 (tileMemBase 1), expect := 3 }

def tagged (e : RTag) : State := quarter0 (fun y => { y with rtags := [(5, e)] }) (tileWith [])

def rpacket0 : RPacket :=
  { tag := 5, part := 0, epoch := 0, home := 0, kind := true, dest := tileMemBase 1, run := 0, mask := 1
    lanes := (Vector.replicate 16 0).setIfInBounds 0 0x7FFFFFFF, cnt := 1, flags := 0, path := [] }

theorem test_link_resend : (after (.linkCrcResend ⟨.street 9, 77⟩) State.reset).linkFails.map (·.2) = [(77, 1)] := by decide +kernel
theorem test_link_resends_another_flit : (after (.linkCrcResend ⟨.street 9, 78⟩) { State.reset with linkFails := [(linkKey (.street 9), (77, 7))] }).linkFails.map (·.2) =
    [(78, 1)] := by decide +kernel
theorem test_link_eighth_failure : let s := after (.linkCrcResend ⟨.street 9, 77⟩) { State.reset with linkFails := [(linkKey (.street 9), (77, 7))] }
    s.linkFails = [] ∧ (s.quarter 0).elog.head = 1 ∧ s.sq.spots.map (·.unit) = [⟨5, 9⟩] := by decide +kernel
theorem test_multicast : let s := after (.multicastWrite .square 0 3 0x40 [7, 8]) grouped
    s.mem = [(tileMemBase 0 + 0x40, 7), (tileMemBase 0 + 0x41, 8), (tileMemBase 1 + 0x40, 7), (tileMemBase 1 + 0x41, 8)] := by decide +kernel
theorem test_reduction_inject : (after (.reductionInjectWrite .square 0 5 8 [1, 2, 0, 0]) (tagged rtag0)).rpackets.map (fun p => (p.mask, nth p.lanes 2 0)) =
    [(4, 0x201)] := by decide +kernel

/-- A packet that has still to pass the edge ring of quarter 0. -/
def onTheRing : RPacket := { rpacket0 with path := [.ring 0] }

theorem test_reduction_saturates : let s := after (.reductionCombine 0 1) { tagged rtag0 with rpackets := [onTheRing, onTheRing] }
    s.rpackets.map (fun p => (nth p.lanes 0 0, p.cnt)) = [(0x7FFFFFFF, 2)] := by decide +kernel
theorem test_reduction_land : let s := after (.reductionLand 0) { tagged rtag0 with rpackets := [rpacket0] }
    s.valueAt (tileMemBase 1) 4 = 0x7FFFFFFF ∧ (s.rtag 0 5).landed = 1 ∧ s.rpackets = [] := by decide +kernel
theorem test_reduction_beyond : let s := after (.reductionLand 0) { tagged { rtag0 with expect := 0 } with rpackets := [rpacket0] }
    (s.rtag 0 5).drop = 1 ∧ s.mem = [] := by decide +kernel
theorem test_rtexp : let e := (after (.rtexpWrite .square 0 5 9) (tagged { rtag0 with landed := 2, done := true })).rtag 0 5
    e.expect = 9 ∧ e.landed = 0 ∧ e.done = false := by decide +kernel
theorem test_nelem : let g := (after (.nelemWrite .square 1 7 9) { State.reset with edges := [(1, { Edge.reset with groups := [(7, { RGroup.reset with retgot := 5 })] })] }).rgroup 1 7
    g.nelem = 9 ∧ g.retgot = 0 := by decide +kernel

/-- Streets and avenues that are links and ones that are none; a good group, one without V, and its writer; a tag that serves, one that does not and a full one; packets that join; writers
that reach the edge dies and ones that do not. -/
theorem witness_streets : linkQuarter (.street 9) = some 0 ∧ linkQuarter (.avenue 79) = some 19 ∧ linkQuarter (.avenue 0) = none ∧
    (let w := Tab.read (0, 0) 3 (grouped.quarter 0).mcgrp
     grouped.mayCtl .square 0 = true ∧ bit w.1 0 = true ∧ fld w.1 1 2 ≠ 3 ∧ fld w.2 0 5 ≤ fld w.2 8 5 ∧ fld w.2 16 5 ≤ fld w.2 24 5 ∧
      tileAt 0 1 0 = 1 ∧ (∀ i < 2, grouped.access { src := 6, num := 0, part := some 0, user := false } (tileMemBase 1 + 0x40 + i) = .serve)) ∧
    bit (Tab.read ((0, 0) : Word × Word) 4 (grouped.quarter 0).mcgrp).1 0 = false ∧ grouped.mayCtl .host 0 = false ∧
    (((tagged rtag0).rtag 0 5).v = true ∧ (tagged rtag0).destOk rtag0.dest.toNat = true ∧ (tagged rtag0).writerPart .square 0 = rtag0.part) ∧
    (tagged RTag.reset).tagServes RTag.reset 5 0 = false ∧ onTheRing.joins onTheRing = true ∧ (tagged rtag0).roadOpen onTheRing.path = true ∧
    onTheRing.meets onTheRing = [.ring 0] ∧ { tagged rtag0 with rpackets := [rpacket0] }.arrivesNext 0 rpacket0 = true ∧ grouped.multicastOpen 0 3 = true ∧
    ((tagged rtag0).tagServes rtag0 5 0 = true ∧ rtag0.kind = rpacket0.kind ∧ ¬rtag0.expect.toNat < rtag0.landed.toNat + rpacket0.cnt ∧
      epochOld rpacket0.epoch 0 = false ∧ (tagged rtag0).clean ∧ (tagged rtag0).memOk ∧
      (∀ k < 64, (tagged rtag0).access { src := 7, num := 0, part := some 0, user := false } (tileMemBase 1 + k) = .serve)) ∧
    mayEdge .square = true ∧ mayEdge .host = false := by
  unfold State.clean State.memOk; decide +kernel

/-! ## The Hive -/

/-- Quarter 0 with partition 0 in it: 1 GiB of its stack at virtual address 0 and 1 MiB of block store at 0x40000000; with these records. -/
def hive (h : HiveRegs) (streams : Tab Stream) (mem : List Host.Cell) (x : Tile) : State :=
  { oneTile x with
    mem := [(0x1000, 0x01), (0x1001, 0x20), (0x2000, 0x01), (0x2001, 0x30), (0x3000, 0x3F), (0x3003, 0x40), (0x3008, 0x3F), (0x300D, 0x08)] ++ mem
    quarters := [(0, { Quarter.reset with
      running := some 0, ptroot := [(0, 0x1001)], hive := [(0, h)], streams
      grants := [(0, { Grant.reset with hbBase := 0, hbSize := 2, bsBase := 0, bsSize := 1 })] })] }

def ready0 : HiveRegs := { HiveRegs.reset with en := true, rdy := true }

def stream0 : Stream := { Stream.reset with state := 2, gen := 1, prio := 3, deadline := 77, step := 4, pos := 8 }

/-- The handle of record 3 of quarter 0. -/
def handle3 : Word := 0x100000003

def hiveWith (st : Stream) (l : List Word) : State := hive ready0 [(3, st)] [] (tileWith l)

/-- The result of a Hive instruction on record 3, and the record after it. -/
def hiveResult (c : Instr) (st : Stream) (l : List Word) : List ReqState × Stream :=
  let s := after c (hiveWith st l)
  (s.reqs.map (·.st), s.stream 0 3)

theorem test_hnew : let s := after (.hnew 0 0) (hive ready0 [] [] (tileWith [99, 0x105]))
    ((s.quarter 0).streams.map fun e => (e.2.state, e.2.prio, e.2.deadline, e.2.gen)) = [(2, 5, 99, 1)] := by decide +kernel
theorem test_hset_state : hiveResult (.hset 0 0) stream0 [4, handle3] = ([.done 2 false], { stream0 with state := 4 }) := by decide +kernel
theorem test_hset_refused : hiveResult (.hset 0 0) stream0 [3, handle3] = ([.done 0 false], stream0) := by decide +kernel
theorem test_hset_deadline : hiveResult (.hset 0 2) stream0 [5, handle3] = ([.done 77 false], { stream0 with deadline := 5 }) := by decide +kernel
theorem test_hget_word0 : (hiveResult (.hget 0 0) stream0 [handle3]).1 = [.done 0x100000032 false] := by decide +kernel
theorem test_hget_stale_handle : (hiveResult (.hget 0 2) { stream0 with gen := 2 } [handle3]).1 = [.done 0 false] := by decide +kernel
theorem test_hcell_append_without_cells : (hiveResult (.hcellAppend 0 0) stream0 [1, handle3]).1 = [.done 0 false] := by decide +kernel
theorem test_hcell_entry_beyond : (hiveResult (.hcellEntry 0 0) stream0 [0, handle3]).1 = [.done 0 false] := by decide +kernel
theorem test_hcell_release_beyond : (hiveResult (.hcellRelease 0 0) stream0 [1, handle3]).1 = [.done 0 false] := by decide +kernel
theorem test_hdone : hiveResult (.hdone 0 0) { stream0 with state := 3 } [9, handle3] = ([.done 5 false], { stream0 with step := 5, pos := 9 }) := by
  decide +kernel
theorem test_hdone_pauses : (hiveResult (.hdone 0 1) { stream0 with state := 3, ppend := true } [9, handle3]).2.state = 4 := by decide +kernel

/-- One stream is selected at the first beat; the table goes to the block store. -/
theorem test_hbeat : let r := hiveResult (.hbeat 0 0) stream0 [1, 0x40000000]
    r.1 = [.done 0x100000001 false] ∧ r.2.state = 3 ∧ r.2.lastsel = 1 := by decide +kernel
theorem test_hbeat_limit : trap (.hbeat 0 0) (hiveWith stream0 [4097, 0x40000000]) = (0x58, 4097, 0) := by decide +kernel
theorem test_hfree : let r := hiveResult (.hfree 0 0) stream0 [handle3]
    r.1 = [.done 0 false] ∧ r.2.state = 0 ∧ r.2.gen = 2 := by decide +kernel
theorem test_hadopt : let s := after (.hadopt 0 0) (hive ready0 [] (wordsAt 0x40001000 [0, 55, 6, 7]) (tileWith [0x1000, 0]))
    ((s.quarter 0).streams.map fun e => (e.2.state, e.2.deadline, e.2.step, e.2.pos)) = [(4, 55, 6, 7)] := by decide +kernel
theorem test_hive_enable : ((after (.hiveEnable .square 0 0 5) (hive .reset [] [] (tileWith []))).hive 0 0) = { HiveRegs.reset with en := true, jrnen := true } := by
  decide +kernel
/-- A device with a cell's move in progress from 0x10000 to the first cell of its HBM4 area, or where nothing is mapped. -/
def moving (up : Bool) (oldVa : Nat) : State :=
  let s := hive ready0 [(3, stream0)] [] (tileWith [])
  { s with quarters := s.quarters.map fun e => (e.1, { e.2 with
    moves := [{ part := 0, stream := 3, cell := 0, up, oldVa, newIx := 0, freed := false }] }) }

theorem test_cell_move_lost : (after (.cellMoveComplete 0 0) (moving true 0x100000000)).out = [.toSquare 5 0 3] := by decide +kernel

/-- An intake ring of 16 entries at 0x1000 with PROD = 1, whose first entry has these words. -/
def intake (k : Intake) (entry : List Word) (st : Stream) : State :=
  hive { ready0 with intakeEn := true, intakeBase := 0x1000, intake := k } [(3, st)]
    (wordsAt 0x40001000 [1, 0, 4] ++ wordsAt 0x40001040 entry) (tileWith [])

def active0 : Intake := { active := true, cons := 0, applied := false, count := 0, dead := false }

def resultWord (c : Instr) (entry : List Word) (st : Stream) : Word × Stream :=
  let s := after c (intake active0 entry st)
  (s.wordAt 0x40001078, s.stream 0 3)

theorem test_intake_ready : resultWord (.intakeReady 0 0) [2, handle3] { stream0 with state := 4 } = (1, stream0) := by decide +kernel
theorem test_intake_pause : resultWord (.intakePause 0 0) [3, handle3] stream0 = (1, { stream0 with state := 4 }) := by decide +kernel
theorem test_intake_finish : resultWord (.intakeFinish 0 0) [4, handle3] stream0 = (1, { stream0 with state := 5 }) := by decide +kernel
theorem test_intake_finish_refused : resultWord (.intakeFinish 0 0) [4, handle3] { stream0 with state := 3 } = (4, { stream0 with state := 3 }) := by
  decide +kernel
theorem test_intake_deadline : resultWord (.intakeDeadline 0 0) [6, handle3, 5] stream0 = (1, { stream0 with deadline := 5 }) := by decide +kernel
theorem test_intake_free : (resultWord (.intakeFree 0 0) [5, handle3] stream0).2.state = 0 := by decide +kernel
theorem test_intake_reserved : (resultWord (.intakeReady 0 0) [0x102, handle3] stream0).1 = 5 := by decide +kernel
theorem test_intake_watch_fires : let s := { intake { active0 with active := false } [] stream0 with
      watches := [{ addr := 0x40001000, x := 1, who := .intake 0 0, part := 0, epoch := 0 }] }
    ((after (.intakeWatchFires 0 0) s).hive 0 0).intake = active0 := by decide +kernel
theorem test_intake_cons : let s := after (.intakeConsAdvance 0 0) (intake { active0 with applied := true } [] stream0)
    s.wordAt 0x40001008 = 1 ∧ (s.hive 0 0).intake.active = false := by decide +kernel

def mirrored (bad : Bool) : State :=
  hive { ready0 with miraddr := 0x40000000, mirroring := some 16, mirBad := bad } [] [] (tileWith [])

theorem test_mirror_header : let s := after (.mirrorHeaderWrite 0 0) (mirrored false)
    s.wordAt 0x45000000 = 0x100000010 ∧ (s.hive 0 0).mseq = 16 := by decide +kernel
theorem test_mirror_lost : let s := after (.mirrorHeaderWrite 0 0) (mirrored true)
    (s.hive 0 0).mirlost = 1 ∧ s.out = [.toSquare 7 0 0] := by decide +kernel

/-- Each Hive instruction issues; a handle that names a stream and one that does not; an open slice and a closed one; a table that a BEAT may write, in the
store and elsewhere; the only stream that is ready; a record to adopt. -/
theorem witness_hive_instructions :
    (∀ p ∈ [((0xE8 : Byte), (0 : Byte), 2), (0xE9, 8, 2), (0xEA, 10, 1), (0xEB, 2, 2), (0xEC, 2, 2), (0xED, 0, 2), (0xEE, 0, 1), (0xEF, 0, 2)],
      takesNow (hiveWith stream0 [1, handle3]) 0 { opc := p.1, opb := p.2.1, din := p.2.2 } = true) ∧
    (let s := hiveWith stream0 [0, handle3]
     s.named 0 handle3 = some (0, 3) ∧ s.named 0 0x200000003 = none ∧ s.record? 0 handle3 = some (0, 3) ∧ s.sq.spots = [] ∧
      s.hiveCity 0 0 0x1000 kLoad false = some 0x40001000 ∧ s.hiveCity 0 0 0x1040 kLoad false = some 0x40001040 ∧ s.isLocal 0x40001040 = true ∧
      s.hiveOpen 0 0 = true ∧ s.hiveOpen 1 0 = false ∧
      s.hiveMap 0 0 0x40000000 kStore false = some 0x80000000000 ∧ regionOf 0x80000000000 = .store 0 ∧
      s.hiveMap 0 0 0 kStore false = some 0x40000000 ∧ s.hiveMap 0 0 0x80000000 kStore false = none ∧ s.readyOrder 0 0 = [3] ∧
      s.relMet 0 0 = true ∧ s.fenMet 0 0 = true ∧ epochOld (s.epochOf 0 0) 0 = false ∧ s.clean ∧ (s.stream 0 0).state = 0 ∧
      s.canAppend 0 3 1 = false ∧ (s.walk 0 0 0x1000).leaf.isSome = true ∧
      (∀ i < 128, isMemory (0x40001000 + i) = true ∧ s.access (whoHive 0 0) (0x40001000 + i) = .serve)) := by
  unfold State.clean; decide +kernel

/-- Room for a cell: pages of the list area and HBM4 cells that are free. -/
theorem witness_append : let h := { ready0 with hbmCells := 9, hbmFree := 9, listPages := 9, listFree := 9 }
    (hive h [(3, stream0)] [] (tileWith [])).canAppend 0 3 1 = true := by decide +kernel

/-- No mover of any Hive is at work in the device of the intake tests, and none has reason to start. -/
theorem witness_still (q : Nat) (p : PartNo) : let h := (intake active0 [2, handle3] stream0).hive q p
    h.promq = [] ∧ h.demoting = false ∧ h.resv.toNat + h.low.toNat ≤ h.hbmFree.toNat := by
  unfold State.hive State.quarter intake Sys2Proof.Tests.hive
  rcases q with _ | q
  · simp only [Tab.read, if_pos]
    split
    · decide
    · split <;> decide
  · exact ⟨rfl, rfl, Nat.le_refl 0⟩

/-- Writers and states of HCTL; a move that maps and one that does not; a watch that fires; an entry at CONS; a round that ends; mirrors. -/
theorem witness_hive_events :
    ((hiveWith stream0 []).mayHive .square 0 0 = true ∧ (hiveWith stream0 []).mayHive .host 0 0 = false ∧ (hiveWith stream0 []).streamsOf 0 0 = [3]) ∧
    (∀ m, ((moving false 0x10000).quarter 0).moves[0]? = some m → (moving false 0x10000).moveMaps 0 m = true) ∧
    (∀ m, ((moving true 0x100000000).quarter 0).moves[0]? = some m → (moving true 0x100000000).moveMaps 0 m = false) ∧
    (let s := intake active0 [2, handle3] stream0
     (s.hive 0 0).intake.active = true ∧ (s.ringLook 0 0).2 = .words (natBytes 8 1 ++ natBytes 8 0 ++ natBytes 8 4 ++ natBytes 8 0) ∧
      fld (bytesWord (natBytes 8 1 ++ natBytes 8 0 ++ natBytes 8 4) 2) 0 5 = 4 ∧ s.clean ∧ s.memOk ∧ s.ringEntry 0 0 0 4 = 0x1040 ∧
      s.hiveCity 0 0 0x1040 kLoad false = some 0x40001040 ∧ s.isLocal 0x40001040 = true ∧
      (∀ j < 8, s.hiveCity 0 0 (0x1040 + 8 * j) kStore false = some (0x40001040 + 8 * j)) ∧
      (∀ j < 64, s.access (whoHive 0 0) (0x40001040 + j) = .serve) ∧ s.hiveCity 0 0 0x1008 kStore false = some 0x40001008 ∧
      { s with txs := [] }.ringOwes 0 0 = false) ∧
    (({ intake active0 [2, handle3] stream0 with mem := [] }).ringLook 0 0).2 = .unfit ∧
    (let s := mirrored false
     (s.hive 0 0).mirroring = some 16 ∧ s.owes (.mirror 0 0) = false ∧ (s.hive 0 0).jcells = [] ∧ s.isLocal 0x45000000 = true ∧ isMemory 0x45000000 = true ∧
      (∀ i < 16, s.access (whoHive 0 0) (0x45000000 + i) = .serve) ∧ s.clean ∧ s.memOk) := by
  unfold State.clean State.memOk
  refine ⟨by decide +kernel, ?_, ?_, by decide +kernel, by decide +kernel, by decide +kernel⟩
  · intro m h; cases h; decide +kernel
  · intro m h; cases h; decide +kernel

/-! ## Ports and the switch -/

/-- A device of number 7 whose port 0 is this one. -/
def portIs (x : Port) : State := { State.reset with ports := [(0, x)], quarters := [(0, { Quarter.reset with devnum := 7 })] }

def up0 : Port := { Port.reset with state := 3, session := true, counted := true, peer := 5, lanes := 3 }

def qualified0 : Port := { Port.reset with state := 2, counted := true }

def peer5 : Handshake := { devnum := 5, sigOk := true, chainOk := true, allowed := true }

def beat5 : BeatMsg := { sport := 1, devnum := 5, role := 0, curfew := false, mepoch := 1, tsend := 900, techo := 0, tback := 0, authOk := true }

/-- The bytes of a READ of 64 bytes at 0x123440 of device 7, by device 5 and partition 2, epoch 3, TXID 9 and 32 hops (R344). -/
def readBytes : List Byte :=
  [0x01, 0x00, 0x08, 0x05, 0x70, 0x00, 0x20, 0x00, 0x40, 0x34, 0x12, 0, 0, 0, 0, 0, 3, 0, 0, 0, 9, 0, 0, 0, 0x40, 0, 0, 0, 0, 0, 0, 0]

def dataFlit0 : Flit :=
  { type := 1, cls := 0, vc := 0, seq := 0, ackseq := 0xFFF, fpo := 0, rsv := 0, payload := readBytes ++ List.replicate 210 0, fecOk := true, authOk := true }

def kept (seq : BitVec 12) : TxFlit := { seq, fpo := 0, cls := 0, vc := 0, bytes := [seq.setWidth 8] }

/-- A port that has sent three flits and had none acknowledged. -/
def sent3 : Port := { up0 with nextSeq := 3, replay := [kept 0, kept 1, kept 2] }

theorem test_training_done : ((after (.portTrainingDone 0)
    { portIs { Port.reset with state := 1 } with sq := { Square.reset with fp := { FloorPlan.reset with lane := 2 } } }).port 0).lanes = 2 := by decide +kernel
theorem test_no_signal : ((after (.noSignalTimeout 0) (portIs { Port.reset with state := 1 })).port 0).measured = true := by decide +kernel
/-- 1e-6 of four lanes' 850 Gb/s is 850,000 bit errors a second (R343). -/
theorem test_third_failed_count : let s := after (.qualifyCountEnd 0 ⟨850001, 3, 4⟩) (portIs { Port.reset with state := 2, lanes := 3, failedCounts := 2 })
    (s.port 0).state = 1 ∧ (s.port 0).cwcorr = 3 ∧ (s.port 0).symerr = 4 ∧ s.out = [.toManager 3 0] := by decide +kernel
theorem test_count_passes : let s := after (.qualifyCountEnd 0 ⟨425000, 0, 0⟩) (portIs { Port.reset with state := 2, lanes := 1 })
    (s.port 0).counted = true ∧ (s.port 0).state = 2 := by decide +kernel
/-- 1e-5 of it is 8,500,000; the port that retrains says so with a control flit (R340, R343). -/
theorem test_error_count : let s := after (.errorCountEnd 0 ⟨8500001, 0, 0⟩) (portIs { up0 with violSec := 8 })
    (s.port 0).state = 1 ∧ (s.port 0).violSec = 0 ∧ s.out = [.ctl 0 0 0xFFF (4 :: List.replicate 241 0)] := by decide +kernel
theorem test_error_count_below : ((after (.errorCountEnd 0 ⟨8500000, 0, 0⟩) (portIs up0)).port 0).state = 3 := by decide +kernel
theorem test_retrain_waits : let s := { portIs up0 with sq := { Square.reset with permits := { Permits.reset with held := [⟨.spotL, ⟨7, 0⟩⟩] } } }
    ((after (.retrain 0) s).port 0).state = 3 ∧ (after (.retrain 0) s).sq.permits.wait = [portRetrain 0] := by decide +kernel
theorem test_admit : ((after (.admitPort .square 0) (portIs { up0 with state := 4 })).port 0).state = 1 := by decide +kernel
theorem test_violation_rate : ((after (.violationRateFence 0) (portIs { up0 with violSec := 1001 })).port 0).state = 4 ∧
    ((after (.violationRateFence 0) (portIs { up0 with violSec := 1000 })).port 0).state = 3 := by decide +kernel
def readPacket : Packet :=
  { op := 1, len := 0, part := 2, sdev := 5, ddev := 7, hops := 32, addr := 0x123440, epoch := 3, txid := 9, status := 0, oparg := 64
    rsv := false, data := [] }

theorem test_packet_bytes : packetOf readBytes = readPacket ∧ packetBytes readPacket = readBytes := by decide +kernel
theorem test_data_flit : let s := after (.dataFlit 0 dataFlit0) (portIs up0)
    (s.edge 0).queue = [{ inPort := some 0, via := none, cls := 0, vc := 0, flits := 1, pkt := packetOf readBytes }] ∧ (s.port 0).expect = 1 := by decide +kernel
theorem test_data_flit_ahead : let s := after (.dataFlit 0 { dataFlit0 with seq := 2 }) (portIs up0)
    s.out = [.ctl 0 0 0xFFF (2 :: List.replicate 241 0)] ∧ (s.port 0).waitSeq = true ∧ (s.port 0).violSec = 1 ∧ (s.edge 0).queue = [] := by decide +kernel
theorem test_nak : (after (.nak 0 1) (portIs sent3)).out = [.flit 0 2 0xFFF 0 0 0 [2], .flit 0 1 0xFFF 0 0 0 [1]] := by decide +kernel
theorem test_nak_of_nothing : ((after (.nak 0 5) (portIs sent3)).port 0).viol = 1 := by decide +kernel
theorem test_credit : let s := after (.credit 0 ([4, 7] ++ List.replicate 16 0)) (portIs up0)
    Tab.read 0 1 (s.port 0).peerFreed = 7 := by decide +kernel
theorem test_credit_send : (after (.creditSend 0) (portIs { up0 with freed := [(17, 9)] })).out =
    [.ctl 0 0 0xFFF (3 :: List.replicate 24 0 ++ 9 :: List.replicate 216 0)] := by decide +kernel
theorem test_beat_send : (after (.beatSend 0) { portIs { up0 with beatPeer := 3, beatHere := 4 } with time := 50 }).out =
    [.ctl 0 0 0xFFF ([1, 0, 7, 0] ++ List.replicate 4 0 ++ natBytes 8 50 ++ natBytes 8 3 ++ natBytes 8 4 ++ List.replicate 210 0)] := by
  decide +kernel
theorem test_beat_missing : ((after (.beatSend 0) (portIs up0)).port 0).beatmiss = 1 ∧
    ((after (.beatSend 0) (portIs { up0 with heard := true })).port 0).beatmiss = 0 := by decide +kernel
theorem test_beat : let x := (after (.beat 0 beat5) (portIs { up0 with state := 2 })).port 0
    x.state = 3 ∧ x.beatPeer = 900 := by decide +kernel
/-- Port 0 leads to the manager, device 5, of which nothing has set this device's time. -/
def timed (ready : Bool) : State :=
  let s := portIs up0
  { s with time := 1000, edges := [(0, { Edge.reset with routes := [(5, 0x40)] })], dist := { s.dist with manager := 5 }
           sq := { s.sq with ready } }

/-- Sent at 5,020, after a BEAT of this device that left at 900 arrived at 5,000: half the round trip is 40 ns. -/
def timeBeat : BeatMsg := { beat5 with tsend := 5020, techo := 900, tback := 5000 }

theorem test_beat_sets_time : let s := after (.beat 0 timeBeat) (timed false)
    (s.time, s.dist.behind, s.dist.timeSet) = (5060, 0, some 5060) := by decide +kernel
theorem test_beat_disciplines_time : let s := after (.beat 0 timeBeat) (timed true)
    (s.time, s.dist.behind) = (1000, 4060) := by decide +kernel
theorem witness_beat : (timed false).sq.ready = false ∧ (timed true).sq.ready = true ∧ timeBeat.techo ≠ 0 ∧
    timeBeat.devnum = up0.peer ∧ bit (Tab.read 0 5 ((timed true).edge 0).routes) 6 = true := by decide +kernel
theorem test_beat_of_another : ((after (.beat 0 { beat5 with devnum := 6 }) (portIs up0)).port 0).state = 4 := by decide +kernel
theorem test_beat_timeout : let s := after (.beatTimeout 0) (portIs up0)
    (s.port 0).state = 4 ∧ (s.port 0).beatmiss = 3 ∧ s.out = [.toManager 2 0, .toSquare 1 0 0] := by decide +kernel
theorem test_hello : let s := after (.hello 0 peer5) (portIs qualified0)
    (s.port 0).hsStep = 2 ∧ (s.port 0).peer = 5 := by decide +kernel
theorem test_hello_from_above : ((after (.hello 0 { peer5 with devnum := 8 }) (portIs qualified0)).port 0).state = 4 := by decide +kernel
theorem test_reply : let s := after (.reply 0 { peer5 with devnum := 9 }) (portIs qualified0)
    (s.port 0).hsStep = 3 ∧ (s.port 0).session = true := by decide +kernel
theorem test_fin : ((after (.fin 0 peer5) (portIs { qualified0 with hsStep := 2, peer := 5 })).port 0).session = true := by decide +kernel

/-- Ports in each state, lanes retired and not, writers, messages in and out of their length, flits of each kind, and retrain free and blocked. -/
theorem witness_ports :
    ((portIs { Port.reset with state := 1 }).port 0).state = 1 ∧ (portIs qualified0).port 0 = qualified0 ∧ ((portIs up0).port 0).state = 3 ∧
    ((portIs { up0 with state := 4, violSec := 1001 }).port 0).state = 4 ∧ bit (portIs up0).sq.fp.lane 0 = false ∧
    (portIs up0).permitBlocked (portRetrain 0) = false ∧ (portIs up0).sq.permits.wait = [] ∧
    ({ portIs up0 with sq := { Square.reset with permits := { Permits.reset with held := [⟨.spotL, ⟨7, 0⟩⟩] } } } : State).permitBlocked (portRetrain 0) = true ∧
    mayEdge .square = true ∧ mayEdge .host = false ∧ peer5.devnum < (portIs up0).devnum ∧ (portIs up0).devnum < (9 : DevNo) ∧
    beat5.devnum = up0.peer ∧ up0.replay.length < (up0.nextSeq - 5).toNat ∧ (sent3.nextSeq - 1).toNat ≤ sent3.replay.length ∧
    (List.replicate 18 (0 : Byte)).length = 18 := by decide +kernel

/-- A flit in order, its packet whole at the payload's end or cut; one whose ACKSEQ is for a flit never sent; duplicates and flits ahead, at the bound. -/
theorem witness_flits : let f := dataFlit0
    f.payload.length = 242 ∧ f.fecOk = true ∧ f.type = 1 ∧ f.authOk = true ∧ f.seq = up0.expect ∧ ((f.ackseq + 1 - up0.acked).toNat ≤ (up0.nextSeq - up0.acked).toNat) ∧
    ¬(((5 : BitVec 12) + 1 - up0.acked).toNat ≤ (up0.nextSeq - up0.acked).toNat) ∧ ((up0.expect - 0x800).toNat = 2048) ∧ ((up0.expect - 0x7FF).toNat = 2049) ∧
    (let k := packetOf readBytes
     k.rsv = false ∧ k.len.toNat = k.data.length ∧ opKnown k.op = true ∧ lengthOk k = true ∧ opClass k.op = f.cls ∧
      f.payload = packetBytes k ++ List.replicate 210 0) ∧
    (let k := { packetOf readBytes with op := 2, len := 256, data := List.replicate 256 7 }
     k.rsv = false ∧ k.len.toNat = k.data.length ∧ lengthOk k = true ∧ opClass k.op = f.cls ∧ ((packetBytes k).take 242).length = 242 ∧
      242 < (packetBytes k).length) := by decide +kernel

/-- A packet of device 5 for device 9, which came by port 0. -/
def passing (hops : Byte) : Queued :=
  { inPort := some 0, via := none, cls := 0, vc := 0, flits := 1, pkt := { packetOf readBytes with ddev := 9, hops } }

/-- A device with this packet at its first third, whose route to device 9 is port 1 over a dateline. -/
def routed (x : Queued) : State :=
  { portIs up0 with ports := [(0, { up0 with rxFlits := [(0, 1)] }), (1, up0)]
                    edges := [(0, { Edge.reset with queue := [x], routes := [(9, 0x61)] })] }

theorem test_switch_keeps_its_own : let s := after (.switchForward 0 0) (routed { passing 9 with pkt := packetOf readBytes })
    s.inbox.map (·.pkt) = [packetOf readBytes] ∧ (s.edge 0).queue = [] ∧ Tab.read 0 0 (s.port 0).freed = 1 := by decide +kernel
theorem test_switch_reduction : let s := after (.switchForward 0 0) (routed { passing 9 with via := some 1 })
    (s.port 1).replay.map (fun f => (f.seq, f.vc, f.bytes.take 7)) = [(0, 0, [0x01, 0x00, 0x08, 0x05, 0x90, 0x00, 0x08])] ∧ (s.edge 0).queue = [] := by
  decide +kernel
theorem test_switch_hops_end : let s := after (.switchForward 0 0) (routed { passing 1 with via := some 1 })
    s.out = [.toManager 4 9] ∧ (s.port 0).viol = 1 ∧ (s.edge 0).queue.map (fun x => (x.via, x.pkt.op, x.pkt.status, x.pkt.ddev)) = [(some 0, 0x10, 2, 5)] := by
  decide +kernel

/-- Packets that stay, that pass with hops left, with their last hop and without credit, by their route and by their group; and one without a route. -/
theorem witness_switch :
    ((routed (passing 9)).edge 0).queue[0]? = some (passing 9) ∧ (passing 9).pkt.data.length ≤ 256 ∧ (passing 9).pkt.ddev ≠ (routed (passing 9)).devnum ∧
    opClass (passing 9).pkt.op ≠ 2 ∧ (routed (passing 9)).port 1 = up0 ∧ up0.maySend 1 1 = true ∧ { up0 with sentCnt := [(1, 32)] }.maySend 1 1 = false ∧
    ((routed (passing 9)).port 1).state = 3 ∧ ((routed (passing 9)).port 2).state ≠ 3 ∧ (portIs up0).usable 0 0 = [] := by decide +kernel

theorem witness_route : ∃ q dl, (routed (passing 9)).route ((routed (passing 9)).edge 0).routes 0 (passing 9).pkt = some (q, dl) := by
  have h : (routed (passing 9)).usable (Tab.read 0 (passing 9).pkt.ddev.toNat ((routed (passing 9)).edge 0).routes) 0 = [(1, true)] := by decide +kernel
  exact ⟨1, true, by simp only [State.route, h, List.length_singleton, Nat.mod_one]; rfl⟩
theorem witness_no_route : (routed (passing 9)).route ((routed (passing 9)).edge 1).routes 0 (passing 9).pkt = none := by
  have h : (routed (passing 9)).usable (Tab.read 0 (passing 9).pkt.ddev.toNat ((routed (passing 9)).edge 1).routes) 0 = [] := by decide +kernel
  simp only [State.route, h]; rfl

/-! ## Requests of other devices -/

/-- A request of device 5 for partition 0 in HBM4 of quarter 0, and a device with it in its inbox where 0x40000 holds this word. -/
def remote (op : Byte) (oparg : Word) (data : List Byte) : Queued :=
  { inPort := some 0, via := none, cls := opClass op, vc := 0, flits := 1
    pkt := { packetOf readBytes with op, part := 0, epoch := 0, addr := 0x700000040000, len := BitVec.ofNat 9 data.length, oparg, data } }

def serving (x : Queued) (v : Word) : State :=
  { portIs up0 with mem := wordsAt 0x40000 [v], inbox := [x]
                    quarters := [(0, { Quarter.reset with devnum := 7, running := some 0, grants := [(0, { Grant.reset with hbSize := 1 })] })] }

def words (l : List Word) : List Byte := l.flatMap fun w => natBytes 8 w.toNat

theorem test_remote_read : (after (.fabricRead 0) (serving (remote 1 8 []) 5)).inbox = [] := by decide +kernel
theorem test_remote_write : let s := after (.fabricWrite 0) (serving (remote 2 0 [0xAB]) 5)
    s.mem = [(0x40000, 0xAB)] ∧ s.inbox = [] := by decide +kernel
theorem test_remote_write_old_epoch : let x := remote 2 0 [0xAB]
    (after (.fabricWrite 0) { serving x 5 with quarters := [(0, { Quarter.reset with devnum := 7, pepoch := [(0, 1)] })] }).mem = [(0x40000, 5)] := by decide +kernel
theorem test_remote_aadd : (after (.fabricAadd 0) (serving (remote 3 0 (words [3])) 5)).wordAt 0x40000 = 8 := by decide +kernel
theorem test_remote_acas : (after (.fabricAcas 0) (serving (remote 4 0 (words [9, 5])) 5)).wordAt 0x40000 = 9 ∧
    (after (.fabricAcas 0) (serving (remote 4 0 (words [9, 6])) 5)).wordAt 0x40000 = 5 := by decide +kernel
theorem test_remote_mcmp : (after (.fabricMcmp 0) (serving (remote 5 0 (words [9, 5])) 5)).wordAt 0x40000 = 9 := by decide +kernel
theorem test_remote_mcnt_stops_at_zero : (after (.fabricMcnt 0) (serving (remote 6 0 (words [0xFFFFFFFFFFFFFFFA])) 5)).mem = [] := by decide +kernel
theorem test_remote_watch_waits : (after (.fabricWatch 0) (serving (remote 7 0 (words [6])) 5)).watches =
    [{ addr := 0x40000, x := 6, who := .remote 5 9, part := 0, epoch := 0 }] := by decide +kernel
theorem test_remote_watch_fires : let s := after (.fabricWatch 0) (serving (remote 7 0 (words [5])) 5)
    s.watches = [] ∧ s.inbox = [] := by decide +kernel
/-- Three words of the 1 KiB are read; the rest come later (R188). -/
theorem test_remote_count : (after (.fabricCount ⟨0, 3⟩) (serving (remote 8 0 (words [5, 0xFF])) 5)).inbox.map (fun x => (x.run.got, x.run.sum)) = [(3, 1)] ∧
    (after (.fabricCount ⟨0, 128⟩) (serving (remote 8 0 (words [5, 0xFF])) 5)).inbox = [] := by decide +kernel
theorem test_remote_unwatch : (after (.fabricUnwatch 0)
    { serving (remote 0x0B 0 []) 5 with watches := [{ addr := 0x40000, x := 6, who := .remote 5 9, part := 0, epoch := 0 }] }).watches = [] := by decide +kernel

/-- Requests that are served, absorbed and denied; a watch that waits and one that fires; one that is held. -/
theorem witness_remote_requests : let s (x : Queued) := serving x 5
    (s (remote 1 8 [])).inbox[0]? = some (remote 1 8 []) ∧ pktAddr (remote 1 8 []).pkt = 0x40000 ∧ (s (remote 1 8 [])).absorbs (remote 1 8 []).pkt = false ∧
    { s (remote 1 8 []) with sq := { Square.reset with phase := 7, cause := 0x12 } }.absorbs (remote 1 8 []).pkt = true ∧
    (∀ i < 8, isMemory (0x40000 + i) = true ∧ (s (remote 1 8 [])).access (whoRemote (remote 1 8 []).pkt) (0x40000 + i) = .serve) ∧
    (portIs up0).access (whoRemote (remote 1 8 []).pkt) 0x40000 = .deny 1 ∧ (s (remote 1 8 [])).wordAt 0x40000 = 5 ∧
    (s (remote 1 8 [])).watchFree 0x40000 = true ∧ (s (remote 1 8 [])).clean ∧ (s (remote 1 8 [])).memOk := by
  unfold State.clean State.memOk; decide +kernel

/-! ## Groups and replies -/

/-- A member's entry of group 5, generation 1, whose UPPORT is port 2 and whose child is port 3; a packet of the group; and a device with both. -/
def group0 : RGroup := { RGroup.reset with v := true, kind := true, group := 5, ggen := 1, upport := 2, child := 8, nelem := 1, retnote := 0x50000 }

def ofGroup (op : Byte) (gen : Byte) : Queued := remote op (0x10000050003 + BitVec.ofNat 64 (gen.toNat * 0x100000000)) (natBytes 4 7 ++ natBytes 4 9)

def inGroup (x : Queued) (g : RGroup) : State := { serving x 0 with edges := [(0, { Edge.reset with groups := [(5, g)] })] }

theorem test_partial_waits : (((after (.fabricPartial 0) (inGroup (ofGroup 9 1) group0)).edge 0).queue.map (fun x => (x.via, x.pkt.op))) = [(some 2, 9)] := by
  decide +kernel
theorem test_partial_of_an_old_generation : let s := after (.fabricPartial 0) (inGroup (ofGroup 9 2) group0)
    (s.rgroup 0 5).drops = 1 ∧ s.out = [] ∧ (s.edge 0).queue = [] := by decide +kernel
theorem test_return : let s := after (.fabricReturn 0) (inGroup { ofGroup 0x0A 1 with pkt := { (ofGroup 0x0A 1).pkt with data := natBytes 4 7 } } group0)
    s.mem = [(0x40000, 7), (0x50000, 1)] ∧ (s.edge 0).queue.map (·.via) = [some 3] ∧ (s.rgroup 0 5).retgot = 4 := by decide +kernel
theorem test_return_of_no_group : (after (.fabricReturn 0) (inGroup (ofGroup 0x0A 1) RGroup.reset)).out = [.toManager 1 5] := by decide +kernel

def tx0 (op : Byte) : Transaction := { txid := 9, op, city := 0x900000040000, owner := .req 5, unwatched := false }

/-- A device that awaits a reply to this request of tile 0. -/
def awaiting (x : Queued) (op : Byte) (k : ReqKind) : State :=
  { serving x 0 with reqs := [{ req0 with kind := k, st := .sent }], txs := [tx0 op] }

/-- The request after a reply of this OP and status. -/
def replied (c : Instr) (op status : Byte) (data : List Byte) (req : Byte) (k : ReqKind) : List ReqState :=
  let x := remote op 0 data
  (after c (awaiting { x with pkt := { x.pkt with status } } req k)).reqs.map (·.st)

theorem test_data_reply : replied (.fabricData 0) 0x10 0 (natBytes 4 77) 1 (.load 3) = [.done 77 false] := by decide +kernel
theorem test_data_reply_poison : replied (.fabricData 0) 0x10 1 (natBytes 4 77) 1 (.load 3) = [.done 77 true] := by decide +kernel
theorem test_ack_reply : replied (.fabricAck 0) 0x11 0 [] 2 (.write 1 0) = [.done 0 false] := by decide +kernel
theorem test_old_reply : replied (.fabricOld 0) 0x12 0 (natBytes 8 5) 3 (.aadd 1) = [.done 5 false] := by decide +kernel
theorem test_fired_reply : replied (.fabricFired 0) 0x13 0 [] 7 (.watch 1) = [.done 0 false] := by decide +kernel
theorem test_total_reply : replied (.fabricTotal 0) 0x14 0 (natBytes 8 3) 8 (.count 0 0 0) = [.done 3 false] := by decide +kernel
theorem test_reply_to_nothing : let s := after (.fabricData 0) (serving (remote 0x10 0 []) 0)
    (s.port 0).viol = 1 ∧ s.inbox = [] := by decide +kernel
theorem test_transaction_timeout : (after (.transactionTimeout 9) (awaiting (remote 1 8 []) 1 (.load 3))).reqs.map (·.st) = [.done 0 true] := by decide +kernel
theorem test_watch_has_no_timeout : (after (.transactionTimeout 9) (awaiting (remote 1 8 []) 7 (.watch 1))).txs = [tx0 7] := by decide +kernel

/-- A group that is known and current, a root's, and one that is not known; replies that end their transaction and one that ends none. -/
theorem witness_groups : let s := inGroup (ofGroup 9 1) group0
    s.inbox[0]? = some (ofGroup 9 1) ∧ (ofGroup 9 1).third = 0 ∧ s.rgroup 0 5 = group0 ∧ (ofGroup 9 1).pkt.oparg.extractLsb' 16 16 = group0.group ∧
    group0.ggen = (ofGroup 9 1).pkt.oparg.extractLsb' 32 8 ∧ group0.ggen ≠ (ofGroup 9 2).pkt.oparg.extractLsb' 32 8 ∧ group0.part = (ofGroup 9 1).pkt.part ∧
    s.curfew = false ∧ epochOld (ofGroup 9 1).pkt.epoch (s.homeEpoch 0 0x40000) = false ∧ s.clean ∧ s.memOk ∧
    (∀ i < 8, isMemory (0x40000 + i) = true ∧ s.access { src := 7, num := 0, part := some 0, user := false } (0x40000 + i) = .serve) ∧
    (∀ i < 8, isMemory (0x50000 + i) = true ∧ s.access { src := 7, num := 0, part := some 0, user := false } (0x50000 + i) = .serve) ∧
    (let r := awaiting (remote 0x10 0 []) 1 (.load 3)
     r.txs.find? (fun y => y.txid = 9 && endsTx y 0x10) = some (tx0 1) ∧ (r.req? 5).isSome = true ∧ r.txs.find? (fun y => y.txid = 9 && endsTx y 0x13) = none) := by
  unfold State.clean State.memOk; decide +kernel

/-! ## The district -/

/-- A district of devices 3, 5, 7 and 8, the last a standby, with this role for device 7. -/
def district (role : BitVec 3) (manager : DevNo) (missed : Nat) : State :=
  { portIs up0 with dist := { role, manager, mepoch := 4, missed, behind := 0, timeSet := none, registry := [], reports := [], change := none
                              failed := false, vacant := none
                              members := [(3, ⟨0, 6, 0⟩), (5, ⟨1, 0, 1⟩), (7, ⟨role, 0, 0⟩), (8, ⟨3, 0, 0⟩)] } }

/-- A device of the district that a MGMT packet of device 5 has reached. -/
def told (role : BitVec 3) (manager : DevNo) : State := { district role manager 0 with inbox := [remote 0x20 0 []] }

theorem test_mgmt_of_another : let s := after (.mgmt 0 5 (.route 9 0x41)) (told 0 3)
    s.out = [.toManager 7 5] ∧ (s.port 0).viol = 1 ∧ (s.edge 0).routes = [] ∧ s.inbox = [] := by decide +kernel
theorem test_mgmt_of_no_sender : after (.mgmt 0 6 (.route 9 0x41)) (told 0 3) = told 0 3 := by decide +kernel
theorem test_mgmt_report : let s := after (.mgmt 0 5 (.fenced 3)) (told 2 7)
    s.dist.reports = [(3, ⟨1, 0, false⟩)] ∧ (s.port 0).viol = 0 := by decide +kernel
theorem test_mgmt_group : let s := after (.mgmt 0 5 (.group 5 3 0x64)) { told 0 5 with edges := [(2, { Edge.reset with groups := [(5, { group0 with retgot := 9 })] })] }
    s.rgroup 2 5 = { group0 with nelem := 100, retgot := 0 } := by decide +kernel
/-- Its manager, without a spare, with device 8 in this role, and the one link of device 3 reported fenced. -/
def noSpare (role8 : BitVec 3) : State :=
  { district 2 7 0 with dist := { (district 2 7 0).dist with members := [(3, ⟨0, 6, 0⟩), (7, ⟨2, 0, 0⟩), (8, ⟨role8, 0, 0⟩)]
                                                             reports := [(3, ⟨1, 0, false⟩)] } }

theorem test_exclude_without_spares : let s := after (.managerExclude ⟨3, 1, [(3, .other), (8, .route 3 0)]⟩) (noSpare 1)
    s.dist.mepoch = 5 ∧ (Tab.read ⟨0, 0, 0⟩ 3 s.dist.members).state = 3 ∧
    s.out = [.mgmt 8 (.route 3 0), .mgmt 8 (.member 8 1 0 0 5), .mgmt 8 (.member 7 2 0 0 5), .mgmt 8 (.member 3 0 6 3 5)] := by decide +kernel
theorem test_exclude_waits_for_standby : let s := after (.managerExclude ⟨3, 1, []⟩) (noSpare 3)
    s.dist.mepoch = 4 ∧ (Tab.read ⟨0, 0, 0⟩ 3 s.dist.members).state = 0 ∧ s.dist.change.isSome = true := by decide +kernel
theorem test_no_cause_to_exclude : (after (.managerExclude ⟨3, 2, []⟩) (noSpare 1)).dist.mepoch = 4 := by decide +kernel
theorem test_heartbeats : (after .mgmtHeartbeat (district 2 7 0)).out = [.mgmt 8 .heartbeat] ∧ (after .mgmtHeartbeat (district 3 5 7)).dist.missed = 8 := by decide +kernel
theorem test_takeover : let s := after .managerTakeover (district 3 5 100)
    s.dist.manager = 7 ∧ s.dist.role = 2 ∧ s.dist.mepoch = 5 ∧ s.out = [.mgmt 8 (.takeover 7 5), .mgmt 5 (.takeover 7 5), .mgmt 3 (.takeover 7 5)] := by decide +kernel
theorem test_no_takeover_yet : after .managerTakeover (district 3 5 99) = district 3 5 99 := by decide +kernel

/-- A manager, a standby that announces itself, and devices that are neither; a descriptor that the record permits. -/
theorem witness_district : (district 2 7 0).isManager = true ∧ (district 0 5 0).isManager = false ∧ (district 0 5 0).dist.manager = 5 ∧
    (district 0 5 0).announces 8 (.takeover 8 5) = true ∧ (district 0 5 0).announces 3 (.route 9 0) = false ∧ ((district 0 5 0).port 0).state = 3 ∧
    (district 2 7 0).dist.members.find? (fun y => y.1 = 3) = some (3, ⟨0, 6, 0⟩) ∧ (district 2 7 0).dist.members.Pairwise (fun u v => u.1 < v.1) ∧
    (district 3 5 100).managerOut = false ∧ (district 3 3 0).managerOut = false := by decide +kernel

/-! ## The host link -/

def record7 : OpRecord :=
  { devnum := 7, role := 0, hostGib := 1, vfexp := 1, permitted := 2, boot := [], ownerDebug := false }

/-- A device with a tier of one channel an edge die, a host region of 1 GiB, and a window of partition 0 with these bits onto 0x40000 of HBM4. -/
def hosted (window : Word) (mem : List Host.Cell) : State :=
  { portIs Port.reset with
    mem
    quarters := [(0, { Quarter.reset with devnum := 7, running := some 0, grants := [(0, { Grant.reset with hbSize := 1 })] })]
    sq := { Square.reset with record := some record7 }
    pop := { tall := true, channels := 0x010101, moduleGib := 64, ddrPatrol := [], ddrSkip := [], ddrSelf := 0 }
    hregs := [(0, { HostRegs.reset with hwin := (Vector.replicate 4 (0, 0)).setIfInBounds 0 (window, 0x40000), vfen := true, msixen := true })]
    host := { up := true, hostviol := 0, exposed := 1, media := true, cxl := []
              tlb := [{ part := 0, big := true, page := 0, city := 0x700000000000, r := true, w := true, x := false, u := true, nc := false }] } }

theorem test_host_region : let s := hosted 0 []
    (s.hostBase, (after (.cxlMemWrite 0x40 1 0xAB) s).mem) = (0x20000000000 + 167 * gib, [(0x20000000000 + 167 * gib + 0x40, 0xAB)]) := by decide +kernel
theorem test_host_window_read : (after (.cxlMemRead 0x10000000000) (hosted 1 [(0x40000, 5)])).out = [.hostData 0x10000000000 5 false] := by decide +kernel
theorem test_host_window_write : let s := after (.cxlMemWrite 0x10000000040 3 0x0201) (hosted 3 [])
    s.mem = [(0x40040, 1), (0x40041, 2)] ∧ s.out = [.hostDone] := by decide +kernel
theorem test_host_window_read_only : let s := after (.cxlMemWrite 0x10000000000 1 9) (hosted 1 [])
    (s.hreg 0).hvaddr = 0x8000010000000000 ∧ s.host.hostviol = 1 ∧ s.mem = [] := by decide +kernel
theorem test_host_add_window : (after (.cxlMemWrite 0x10000000000 0xFF 3) (hosted 7 [(0x40000, 5)])).mem = [(0x40000, 8)] := by decide +kernel
theorem test_bar_hrsize : (after (.cxlIoRead 0 0x1C000) (hosted 0 [])).out = [.hostWord 1] := by decide +kernel
theorem test_bar_vfwin : (after (.cxlIoRead 1 0x10) (hosted 0x507 [])).out = [.hostWord 0x507] := by decide +kernel
theorem test_bar_mask : let s := after (.cxlIoWrite 1 0x1058 0) (hosted 0 [])
    (s.hreg 0).mask = 0xFFFFFFFFFFFFFFDF := by decide +kernel
theorem test_hmsi : let s := hosted 0 []
    (after (.hmsi .square 0 0 5) s).out = [] ∧ ((after (.hmsi .square 0 0 5) s).hreg 0).pend = 32 ∧
    (after (.vectorUnmask 0 5) (after (.hmsi .square 0 0 5) s)).out = [.msix 1 5] := by decide +kernel
theorem test_configuration_space : ((after (.configurationSpaceWrite 1 true false) (hosted 0 [])).hreg 0).msixen = false := by decide +kernel
theorem test_mailbox : (after (.unsupportedMailbox 0x4300) (hosted 0 [])).out = [.mailbox 6 false [0x4300]] ∧
    (after .clearEventRecords (hosted 0 [])).out = [.mailbox 5 true []] := by decide +kernel
theorem test_ucie_pair : linkModules 0b1111 0 = 15 ∧ linkModules 0b1011 0 = 9 ∧ linkModules 0b0110 0 = 6 ∧ linkModules 0b0100 0 = 0 := by decide +kernel

/-- The host region, a window shown and one that is not, an address that no slot holds, a mapped page, a partial word, and a sender of vectors. -/
theorem witness_host : let s := hosted 7 []
    s.host.up = true ∧ s.hostSize = gib ∧ 0x10000000000 / 64 * 64 = 0x10000000000 ∧ s.curfew = false ∧
    bit (nth (s.hreg 0).hwin 0 (0, 0)).1 0 = true ∧ bit (nth (s.hreg 0).hwin 1 (0, 0)).1 0 = false ∧ fld (7 : Word) 8 13 = 0 ∧
    (s.host.tlb.find? fun e => e.covers 0 0x40000).isSome = true ∧
    (∀ e ∈ s.host.tlb, e.addr 0x40000 = 0x700000040000 ∧ protFault e kLoad true = none ∧ protFault e kStore true = none) ∧
    s.isLocal 0x700000040000 = true ∧ (∀ i < 64, isMemory (0x40000 + i) = true ∧ s.access (whoWindow 0) (0x40000 + i) = .serve) ∧
    (∀ i < 64, isMemory (s.hostBase + i) = true ∧ s.access whoHost (s.hostBase + i) = .serve) ∧
    (s.hreg 0).msixen = true ∧ bit s.host.exposed 0 = true ∧ bit s.host.exposed 1 = false ∧ s.mayHive .square 0 0 = true ∧ s.mayHive .host 0 0 = false ∧
    bit s.sq.ucieBad 0 = false ∧ s.clean ∧ s.memOk := by
  unfold State.clean State.memOk; decide +kernel

/-! ## Attestation and keys -/

def desc1 : PartDesc :=
  { part := 1, selfkey := false, vfexp := true, share := true, imgsrc := false, qmask := 1, bssize := 2, hbmgib := 3, ddrgib := 0, imgaddr := 0
    imglen := 4, entry := 0, imgdig := [], reserved := false }

def part1 : Partition :=
  { desc := desc1, keying := .unkeyed, img := [1, 2, 3, 4], imgOk := true, released := false, inTables := false, saved := [], savedBlocks := []
    savedMem := [], ending := none }

/-- A device with this partition 1. -/
def keyed (x : Partition) : State := { hosted 0 [] with parts := [(1, x)] }

def kx (part : Byte) (formOk : Bool) : KxInit := { part, formOk }

theorem test_kx_init : ((after (.kxInit (kx 1 true)) (keyed part1)).part? 1).map (·.keying) = some .exchanging := by decide +kernel
theorem test_kx_init_errors : (after (.kxInit (kx 2 true)) (keyed part1)).out = [.spdm (.vendor 0x7F) [3]] ∧
    (after (.kxInit (kx 1 false)) (keyed part1)).out = [.spdm (.vendor 0x7F) [7]] := by decide +kernel
theorem test_kx_fin_confirm : let s := after (.kxFin 1 false) (keyed { part1 with keying := .exchanging })
    s.out = [.spdm (.vendor 0x7F) [5]] ∧ (s.part? 1).map (·.keying) = some .unkeyed := by decide +kernel
theorem test_slots : (after (.getCertificate 1) (hosted 0 [])).out = [.spdm .error []] ∧ (after (.challenge 2 []) (hosted 0 [])).out = [.spdm .error []] := by
  decide +kernel
theorem test_measurement_blocks : (after (.getMeasurements 8 []) (hosted 0 [])).out = [.spdm .error []] ∧ (after .getPqsig (hosted 0 [])).out = [.spdm .error []] := by
  decide +kernel
theorem test_pqmode : (after (.pqmode 1) (hosted 0 [])).sec.pqmode = 1 ∧ (after (.pqmode 2) (hosted 0 [])).out = [.spdm (.vendor 0x7F) [7]] := by decide +kernel

/-- Partitions in each state of their keys; the two modes; a zeroised partition; an unlocked device. -/
theorem witness_attestation : (keyed part1).host.up = true ∧ (keyed part1).part? 1 = some part1 ∧ (keyed part1).part? 2 = none ∧
    (keyed { part1 with keying := .keyed }).part? 1 = some { part1 with keying := .keyed } ∧ (kx 1 true).formOk = true ∧
    (1 : Nat) ∉ (keyed part1).sec.zeroised ∧ (keyed part1).sec.unlocked = false ∧ (keyed part1).sec.signed = none ∧
    Tab.has (0x11 - 0x10) (keyed part1).parts = true ∧ (keyed part1).slotHeld 0 = true ∧ (keyed part1).slotHeld 1 = false := by decide +kernel

/-! ## Bring-up -/

/-- A device in a phase of bring-up. -/
def inPhase (k : BitVec 3) : State :=
  { State.reset with sq := { Square.reset with phase := k, record := some record7 }, module := { Module.reset with powerGood := true, millivolt := 54000 } }

def found7 : BootFound :=
  { uds0 := true, uds1 := true, fwA := some (image0 0xABC 3), fwB := none, cfgA := some (config0 0xABC { record7 with role := 2 }), cfgB := none
    fpA := some (plan0 0xABC 6 [40]), fpB := none, uid := 0xABC }

def memory0 : MemFound := { stackFail := 0, chanFail := 0, populated := 0x010101, moduleGib := 64, uniform := true, tall := true }

theorem test_power_good : let s := after .powerGood State.reset
    s.sq.phase = 1 ∧ s.module.powerGood = true := by decide +kernel
theorem test_shutdown : let s := after (.shutdown 35999) (inPhase 6)
    s.sq.phase = 0 ∧ s.module.powerGood = false := by decide +kernel
theorem test_no_shutdown : after (.shutdown 36000) (inPhase 6) = inPhase 6 := by decide +kernel
theorem test_supply_in_range : after (.supplyExcursion 40000) (inPhase 6) = inPhase 6 := by decide +kernel
theorem test_reset_pin : let s := after .resetPin (inPhase 6)
    s.sq.phase = 0 ∧ s.module.resetLow = true ∧ (after .resetPinRises s).sq.phase = 1 := by decide +kernel
theorem test_phase_1 : let s := after (.phaseSquareEnd found7) (inPhase 1)
    s.sq.phase = 2 ∧ s.sq.active = some false ∧ s.sq.standby = true ∧ s.dist.manager = 7 ∧ s.sq.fp.gen = 6 ∧ s.sq.fp.tiles = [40] := by decide +kernel
theorem test_phase_2 : let s := after .phaseClocksEnd (inPhase 2)
    s.sq.phase = 3 ∧ (s.quarter 19).devnum = 7 := by decide +kernel
theorem test_phase_3 : let s := after (.phaseMemoryTrainingEnd memory0) (inPhase 3)
    s.sq.phase = 4 ∧ s.pop.channels = 0x010101 := by decide +kernel
theorem test_uneven_channels : evenChannels 0x070301 = 0x010101 := by decide +kernel
theorem test_phase_4 : let s := after (.phaseTestEnd [5] [] []) (inPhase 4)
    s.sq.phase = 5 ∧ s.sq.fp.tiles = [5] ∧ (s.port 17).state = 1 := by decide +kernel
theorem test_phase_5_waits : after (.phaseLinksEnd 15 []) (inPhase 5) = inPhase 5 := by decide +kernel
theorem test_phase_5 : let s := after (.phaseLinksEnd 15 [71]) { inPhase 5 with ports := (List.range 18).map fun p => (p, { Port.reset with measured := true }) }
    s.sq.phase = 6 ∧ s.host.up = true ∧ s.sq.ucie = 15 ∧ bit s.sq.fp.lane 71 = true := by decide +kernel
theorem test_phase_6 : let s := after (.phaseComputeEnd [] [3]) { inPhase 6 with time := 5000000 }
    s.sq.ready = true ∧ s.sq.fp.stags = [3] ∧ s.sq.tready = 5 ∧ s.sq.fp.gen = 1 ∧ s.sq.flash.fp.gen = 1 := by decide +kernel

/-- Each phase in progress, the supply's bounds, a reset that is held, and populations that R202 permits and does not. -/
theorem witness_bring_up : (∀ k < 8, (inPhase (BitVec.ofNat 3 k)).sq.phase.toNat = k ∧ (inPhase (BitVec.ofNat 3 k)).sq.ready = false) ∧
    (inPhase 1).module.powerGood = true ∧ State.reset.module.powerGood = false ∧ (after .resetPin (inPhase 6)).module.resetLow = true ∧
    populationOk 0x010101 true = true ∧ populationOk 0x010100 true = false ∧ (inPhase 5).portsMeasured = false ∧ (inPhase 1).mon.xfer = none := by
  decide +kernel

/-! ## Partitions and resets -/

/-- A device that is ready and has accepted this descriptor. -/
def accepted (d : PartDesc) : State :=
  { inPhase 6 with sq := { (inPhase 6).sq with ready := true, running := true, descs := [d] } }

theorem test_partition_refused : after (.partitionDescriptor { desc1 with bssize := 21 } [] true) (accepted { desc1 with bssize := 21 }) =
    { accepted desc1 with sq := { (accepted desc1).sq with descs := [] } } := by decide +kernel
theorem test_descriptor_not_accepted : after (.partitionDescriptor desc1 [] true) (accepted { desc1 with bssize := 3 }) = accepted { desc1 with bssize := 3 } := by
  decide +kernel
theorem test_range_free : rangeFree [(2, 3)] 5 1 = true ∧ rangeFree [(2, 3)] 4 1 = false ∧ rangeFree [(2, 3)] 1 1 = true ∧ rangeFree [(2, 3)] 1 2 = false := by
  decide +kernel
theorem test_destroy : let s := after (.partitionDestroy 1) (keyed part1)
    (s.part? 1).map (·.ending) = some (some true) ∧ Tab.read 0 1 (s.quarter 5).pepoch = 1 := by decide +kernel
theorem test_slice_waits : after (.timeSliceSwitch 1 1) (keyed part1) = keyed part1 := by decide +kernel
theorem test_treset : let s := after (.treset .square 0 0x400) (world (withMb [mb0] (tileWith [3])))
    (s.tile 0).resetting = some true ∧ (s.tile 0).gmem.mb = [] := by decide +kernel
theorem test_treset_retired : let s := { world (tileWith [3]) with sq := { Square.reset with fp := { FloorPlan.reset with tiles := [0] } } }
    after (.treset .square 0 0x400) s = s := by decide +kernel
theorem test_treset_busy : ((after (.treset .square 0 1) (world { tileWith [] with resetting := some false })).quarter 0).rheld = [(0, 1, none)] := by decide +kernel
theorem test_breset : let s := after (.breset .square 0 3) (world (tileWith []))
    (s.block 3).resetting = some false ∧ (s.tile 63).resetting = some false ∧ (s.tile 64).resetting = none := by decide +kernel
theorem test_preset_busy : ((after (.preset .square 0 1) (keyed { part1 with ending := some true })).quarter 0).rheld = [(0x18, 1, none)] := by decide +kernel
theorem test_preset_of_nothing : after (.preset .square 0 0) (keyed part1) = keyed part1 := by decide +kernel
theorem test_reset_ends : let s := after (.resetRepliesDrained 0) { world { tileWith [3] with resetting := some true } with
      quarters := [(0, { Quarter.reset with relpc := 0x40 })] }
    (s.tile 0).core.d = 0 ∧ (s.tile 0).core.run = .running ∧ (s.tile 0).core.pc = 0x40 := by decide +kernel

/-- Descriptors that are taken and refused, partitions that stand and that end, reset registers that are free and busy, and their writers. -/
theorem witness_partitions :
    ((accepted desc1).sq.ready = true ∧ (accepted desc1).sq.running = true ∧ (accepted desc1).curfew = false ∧ desc1 ∈ (accepted desc1).sq.descs ∧
      Tab.has 1 (accepted desc1).parts = false ∧ Tab.has 1 (keyed part1).parts = true ∧ PartDesc_ok desc1 = true ∧ bit desc1.qmask 0 = true ∧ (accepted desc1).quarters = []) ∧
    ((keyed part1).part? 1 = some part1 ∧ part1.ending = none ∧ (keyed part1).holders 0 = [0]) ∧
    (let s := keyed { part1 with ending := some true }
     s.parts = [((1 : PartNo).toNat, { part1 with ending := some true })] ∧ (s.quarter 0).rheld = [] ∧ s.partQuiet 1 = true) ∧
    (let s := { keyed part1 with sq := { Square.reset with running := true }, parts := [(1, part1), (2, { part1 with desc := { desc1 with part := 2 } })] }
     (s.part? 2).isSome = true ∧ s.sq.running = true ∧ s.quartersOf 2 = [0] ∧ s.runsIn 0 = [0] ∧ s.tilesIn [0] = []) ∧
    (let s := world { tileWith [] with resetting := some true }
     s.mayCtl .square 0 = true ∧ s.mayCtl .host 0 = false ∧ s.tresetBusy 0 = true ∧ s.bresetBusy 0 = false ∧ s.presetBusy 0 = false ∧
      s.tileQuiet 0 = true ∧ (s.block (blockOf 0)).resetting = none ∧ s.tiles = [(0, s.tile 0)]) ∧
    (let s := { keyed part1 with quarters := [(0, { Quarter.reset with running := some 1 })] }
     s.presetBusy 0 = false ∧ s.resetter .square = none ∧ (s.quarter 0).running = some 1 ∧ s.part? 1 = some part1) := by decide +kernel

/-- Grants that can be placed: a place is always among those that fit. -/
theorem witness_plan : (accepted desc1).plan desc1 ≠ none := by
  have some_fit (l : List Nat) (n : Nat) (h : l ≠ []) : ∃ x, l[n % l.length]? = some x :=
    ⟨_, List.getElem?_eq_getElem (Nat.mod_lt n (List.length_pos_iff.mpr h))⟩
  have hq : PartDesc_quarters desc1 = [0] := by decide +kernel
  obtain ⟨b, hb⟩ : ∃ b, placeRange ((accepted desc1).bsTaken 0) 20 desc1.bssize.toNat (Config.free ((accepted desc1).fresh + 2 * 0)) = some b :=
    some_fit _ _ (by decide +kernel)
  obtain ⟨h, hh⟩ : ∃ h, placeRange ((accepted desc1).hbTaken 0) ((accepted desc1).stackSize / gib) desc1.hbmgib.toNat
      (Config.free ((accepted desc1).fresh + 2 * 0 + 1)) = some h := some_fit _ _ (by decide +kernel)
  have hg : ∃ g, (accepted desc1).placeGrant desc1 0 0 = some g := by unfold State.placeGrant; rw [hb, hh]; exact ⟨_, rfl⟩
  obtain ⟨g, hg⟩ := hg
  unfold State.plan
  dsimp only
  rw [if_neg]
  · rw [if_pos (show desc1.ddrgib = 0 from rfl)]
    simp [hq, hg]
  · decide +kernel

/-! ## Spot tests, permits and the Squares -/

def spot0 : Spot :=
  { unit := ⟨3, 5⟩, running := false, again := false, entry := none, storm := false, was := false, asked := false }

/-- A device whose Square acts, with this spot test. -/
def tested (x : Spot) : State :=
  { State.reset with tiles := [(5, tileWith [])], sq := { Square.reset with running := true, phase := 6, spots := [x] } }

theorem test_spot_start : let s := after (.spotTestStart ⟨3, 5⟩) (tested spot0)
    (s.tile 5).core.run = .stopped ∧ (s.quarter 0).permits.held = [⟨.spotT, ⟨3, 5⟩⟩] ∧ s.sq.spots.map (fun x => (x.running, x.was)) = [(true, true)] := by
  decide +kernel
theorem test_spot_passes : let s := after (.spotTestEnd ⟨3, 5⟩ true) (tested { spot0 with running := true, asked := true })
    s.sq.spots = [] ∧ s.out = [.mon true 1 [1]] := by decide +kernel
theorem test_spot_repeats : (after (.spotTestEnd ⟨3, 5⟩ false) (tested { spot0 with running := true })).sq.spots = [{ spot0 with running := true, again := true }] := by
  decide +kernel
theorem test_spot_repeat_passes : (after (.spotTestEnd ⟨3, 5⟩ true) (tested { spot0 with running := true, again := true })).sq.failures = [(⟨3, 5⟩, 0)] := by
  decide +kernel
theorem test_spot_retires : let s := after (.spotTestEnd ⟨3, 5⟩ false) (tested { spot0 with running := true, again := true })
    s.sq.fp.tiles = [5] ∧ s.sq.fp.dirty = true ∧ s.out = [.toManager 8 5] := by decide +kernel

/-- A test that may start, one that runs, one repeated; a unit that failed 30 days ago, at the bound and past it; a permit that is blocked. -/
theorem witness_spots : (tested spot0).spotOf ⟨3, 5⟩ = some spot0 ∧ (tested spot0).spotOf ⟨3, 6⟩ = none ∧ (tested spot0).sq.running = true ∧
    (tested spot0).permitBlocked (spotPermit ⟨3, 5⟩) = false ∧ ((tested spot0).permitsOf (unitGranter ⟨3, 5⟩)).wait = [] ∧
    (tested spot0).failedBefore ⟨3, 5⟩ = false ∧ ((tested spot0).tile 5).core.doing = .issue ∧
    (let s := { tested spot0 with sq := { (tested spot0).sq with failures := [(⟨3, 5⟩, 0)] } }
     { s with time := BitVec.ofNat 64 days30 }.failedBefore ⟨3, 5⟩ = true ∧ { s with time := BitVec.ofNat 64 (days30 + 1) }.failedBefore ⟨3, 5⟩ = false) ∧
    (let s := { tested spot0 with quarters := [(0, { Quarter.reset with permits := { Permits.reset with held := [clockPermit 0] } })] }
     s.permitBlocked (spotPermit ⟨3, 5⟩) = true) := by decide +kernel

/-- A device whose Squares are in this state. -/
def squares (x : Square) : State := { State.reset with sq := { x with phase := 6 } }

def both : Square := { Square.reset with uds0 := true, uds1 := true, active := some false, standby := true, running := true }

theorem test_permit_granted_in_turn : let w : Permit := ⟨.measure, ⟨24, 0⟩⟩
    (after (.permitGrant ⟨none, 0⟩) (squares { both with permits := { Permits.reset with wait := [w, ⟨.flashw, ⟨24, 0⟩⟩] } })).sq.permits =
      { Permits.reset with held := [w], wait := [⟨.flashw, ⟨24, 0⟩⟩] } := by decide +kernel
theorem test_recalibration : ((after (.hbmRefreshRecalibration 3) { State.reset with time := 5 }).quarter 3).permits =
    { Permits.reset with held := [⟨.hbmcal, ⟨20, 3⟩⟩], till := [(⟨.hbmcal, ⟨20, 3⟩⟩, 2000005)] } := by decide +kernel
theorem test_interface_retrain : (after (.memoryInterfaceRetrain (.ddr 9)) (squares both)).sq.permits.till = [(⟨.retrain, ⟨22, 9⟩⟩, 5000000)] := by decide +kernel
theorem test_floor_plan_write : let s := after .floorPlanWriteDone (squares { both with fp := { FloorPlan.reset with gen := 4, dirty := true, tiles := [9] } })
    s.sq.flash.fp = { FloorPlan.reset with gen := 5, tiles := [9] } ∧ s.sq.permits.held = [] := by decide +kernel
theorem test_control_entry : (after (.controlEntryRewrite 7) (tested { spot0 with unit := ⟨12, 7⟩ })).sq.spots = [] := by decide +kernel
theorem test_measure_same : after (.measureCheck true) (squares both) = squares both := by decide +kernel
theorem test_heartbeat : let x := (after (.squareHeartbeat 0x7FF 0x3FF true) (squares { both with lost0 := 4, lost1 := 4, silent := 3 })).sq
    (x.lost0, x.lost1, x.silent) = (0, 5, 0) := by decide +kernel
theorem test_quorum_lost_for_1_ms : (after .quorumLoss (squares { both with lost0 := 10, lost1 := 3 })).sq.running = false ∧
    (after .quorumLoss (squares { both with lost0 := 9, lost1 := 99 })).sq.running = true := by decide +kernel
theorem test_square_takeover : let x := (after .squareTakeover (squares { both with silent := 10, heard1 := 0x7FF, heard0 := 0x800 })).sq
    x.active = some true ∧ x.standby = false := by decide +kernel
theorem test_square_no_takeover : let s := squares { both with silent := 10, heard1 := 0x7FF, heard0 := 1 }
    after .squareTakeover s = s := by decide +kernel
theorem test_edge_die_limit_in_curfew : let s := { State.reset with sq := { both with phase := 7, cause := 0x12 } }
    after (.edgeDieThermalLimit 1) s = s := by decide +kernel
theorem test_conflicts : conflict ⟨.spotM, ⟨1, 16⟩⟩ ⟨.clock, ⟨23, 0⟩⟩ = true ∧ conflict ⟨.spotM, ⟨1, 16384⟩⟩ ⟨.clock, ⟨23, 0⟩⟩ = false ∧
    conflict ⟨.patrol, ⟨9, 64⟩⟩ ⟨.hbmcal, ⟨20, 1⟩⟩ = true ∧ conflict ⟨.sweep, ⟨1, 5⟩⟩ ⟨.patrol, ⟨1, 5⟩⟩ = false := by decide +kernel

/-- Permits that are free and blocked, Squares that hold quorum and do not, and a takeover's bounds. -/
theorem witness_squares : (squares both).permitBlocked ⟨.measure, ⟨24, 0⟩⟩ = false ∧ (squares both).granterActs none = true ∧
    (squares { both with running := false }).granterActs none = false ∧ (squares both).curfew = false ∧
    quorum 0x7FF = true ∧ quorum 0x3FF = false ∧ both.here0 = true ∧ both.here1 = true ∧ ({ both with active := none } : Square).active = none ∧
    ({ both with standby := false } : Square).here1 = false := by decide +kernel

/-! ## Clocks, power and the module -/

/-- A device whose quarter 0 has these clock registers. -/
def clocked (c : QClk) : State := { State.reset with quarters := [(0, { Quarter.reset with clk := c })], sq := { Square.reset with phase := 6, running := true } }

theorem test_thermal_hot : let c := (after (.thermalSample 0 95 40) (clocked QClk.reset)).clk 0
    (c.thermal, c.step, c.tpeak, c.op) = (1, some 1, 95, 0) := by decide +kernel
theorem test_thermal_cool : ((after (.thermalSample 0 25 90) (clocked { QClk.reset with thermal := 2, op := 2, coolN := 500 })).clk 0).thermal = 1 ∧
    ((after (.thermalSample 0 25 90) (clocked { QClk.reset with thermal := 2, op := 2, coolN := 499 })).clk 0).thermal = 2 := by decide +kernel
theorem test_power_over : let s := after (.powerSample 16501) (clocked { QClk.reset with op := 1 })
    ((s.clk 0).power, (s.clk 1).power, (s.clk 2).power, (s.clk 3).power) = (0, 1, 1, 0) := by decide +kernel
theorem test_power_between : (after (.powerSample 16000) { clocked QClk.reset with module := { Module.reset with overCnt := 7, underCnt := 9 } }).module =
    { Module.reset with watt := 16000 } := by decide +kernel
theorem test_step_end : let c := (after (.opStepEnd 0) (clocked { QClk.reset with thermal := 1, step := some 1 })).clk 0
    (c.op, c.step, c.vq, c.stepped) = (1, none, 720, 1) := by decide +kernel
theorem test_step_up : ((after (.opStepUpTimer 0) (clocked { QClk.reset with op := 1 })).clk 0).step = some 0 := by decide +kernel
theorem test_qclk_request : ((after (.qclkReq .square 0 0x200) (clocked QClk.reset)).clk 0).reqs = [(64, 2)] := by decide +kernel

/-- Ceilings above and below the point, samples at their bounds, and a neighbour that is near or far. -/
theorem witness_clocks : (clocked QClk.reset).permitBlocked (clockPermit 0) = false ∧ (∀ n ∈ adjacent 0, leastOp 1 ≤ ((clocked QClk.reset).clk n).op.toNat) ∧
    (clocked { QClk.reset with op := 1 }).mayRise 0 = true ∧ (clocked { QClk.reset with op := 7 }).mayRise 0 = true ∧
    ({ QClk.reset with op := 1 } : QClk).ceil = 0 ∧ ({ QClk.reset with thermal := 3 } : QClk).ceil = 3 ∧ (clocked QClk.reset).curfew = false ∧
    (clocked QClk.reset).mayCtl .square 0 = true ∧ (clocked QClk.reset).mayCtl .host 0 = false ∧ adjacent 7 = [2, 8, 12, 6] ∧
    (clocked QClk.reset).clockFree 0 = true := by decide +kernel

theorem test_gate : ((after (.blockGate 2) { State.reset with quarters := [(0, { Quarter.reset with cycles := 9 })] }).block 2).gatedAt = some 9 := by decide +kernel
theorem test_no_gate : let s := oneTile (tileWith [])
    after (.blockGate 0) s = s := by decide +kernel
theorem test_wake : let b := (after (.blockWake 2) { State.reset with
      blocks := [(2, { Block.reset with gatedAt := some 4, waking := true })], quarters := [(0, { Quarter.reset with cycles := 9 })] }).block 2
    (b.gatedAt, b.lost) = (none, 5) := by decide +kernel
theorem test_pll_waits : after (.pllOff 0) State.reset = State.reset := by decide +kernel
theorem test_pll_lock : ((after (.pllLock 0) (clocked { QClk.reset with plloff := true })).clk 0).plloff = false := by decide +kernel
theorem test_tpark : let x := (after (.tpark .square 0 0x2001) (oneTile (tileWith []))).tile 0
    (x.park, x.wake, x.lslot) = (true, 0x20, false) := by decide +kernel
theorem test_parks : let x := (after (.tilePark 0) (oneTile { tileWith [] with park := true })).tile 0
    (x.parked, x.park) = (true, true) := by decide +kernel
theorem test_wakes_on_a_slot : let x := (after (.tileWake 0) (oneTile { tileWith [] with park := true, parked := true, came := true })).tile 0
    (x.parked, x.park) = (false, false) := by decide +kernel
theorem test_self_refresh : ((after (.selfRefreshEntry (.hbm 1 0)) State.reset).quarter 1).selfRef = true ∧
    (after (.selfRefreshEntry (.ddr 5)) State.reset).pop.ddrSelf = 32 := by decide +kernel
theorem test_burst : ((after (.patrolBurst (.hbm 1 0)) { State.reset with quarters := [(1, { Quarter.reset with selfRef := true })] }).quarter 1).patrol = 64 := by
  decide +kernel
theorem test_patrol_corrects : let s := after (.hbmPatrol 1) { State.reset with marks := [(0x1000000000, false)] }
    (s.marks, (s.quarter 1).elog.corr, (s.quarter 1).patrol) = ([], 1, 1) := by decide +kernel
theorem test_ddr_patrol : Tab.read 0 0 (after (.ddr5Patrol 0) (hosted 0 [])).pop.ddrPatrol = 1 := by decide +kernel
theorem test_sweeper : let s := after (.sweeperAccess 0) { State.reset with marks := [(0x80000000018, false), (0x80000000020, false)] }
    (s.marks, (s.block 0).sweep) = ([(0x80000000020, false)], 1) := by decide +kernel
theorem test_sweeper_skips : let s := { State.reset with quarters := [(0, { Quarter.reset with permits := { Permits.reset with held := [⟨.spotM, ⟨2, 0⟩⟩] } })] }
    (((after (.sweeperForcedAccess 0) s).block 0).skipped, ((after (.sweeperForcedAccess 0) s).quarter 0).permits.skips) =
      ([0x80000000000, 0x80000000008, 0x80000000010, 0x80000000018], 1) := by decide +kernel

/-- Blocks that are idle, gated and waking; tiles that may park and wake; memories in self-refresh and out of it, with errors that can be corrected and not. -/
theorem witness_sleep : ((State.reset.block 2).gatedAt = none ∧ State.reset.runnable 32 = false ∧ (State.reset.block 2).stag.queue = []) ∧
    ((oneTile (tileWith [])).runnable 0 = true ∧ (oneTile { tileWith [] with park := true }).ipend 0 = 0 ∧ ((oneTile { tileWith [] with park := true }).tile 0).alive = true ∧
      (oneTile (tileWith [])).ipend 0 &&& (tileWith []).wake.setWidth 64 = 0) ∧
    ({ State.reset with marks := [(0x1000000000, true)] }.dramBad 0x1000000000 = true ∧ { State.reset with marks := [(0x1000000000, false)] }.dramBad 0x1000000000 = false) ∧
    (hosted 0 []).channelLines ≠ 0 ∧ (hosted 0 []).channelLine 0 0 = 0x20000000000 ∧ (hosted 0 []).permitBlocked ⟨.patrol, ⟨10, 0⟩⟩ = false ∧
    sweepAt 0 655360 = (tileMemBase 0, 64) ∧ sweepAt 0 655359 = (0x800013FFFE0, 32) ∧ State.reset.sweepRetired (storeBase 0) = false := by decide +kernel

theorem test_log_soon : let l := VioLog.reset.addDevice ⟨5, 6, 0, false, 0, 0⟩
    (l.soon 19, l.soon 20) = (true, false) := by decide +kernel
theorem test_coolant : (after (.coolantSample 19 30 40) (squares both)).sq.dlog.head = 1 ∧ (after (.coolantSample 20 40 60) (squares both)).sq.dlog.head = 0 := by
  decide +kernel
theorem test_insertion : let s := after (.moduleInsertion 8) { squares both with ports := [(17, { Port.reset with state := 4 })] }
    s.module.cages = 0x100 ∧ (s.port 17).state = 1 := by decide +kernel
theorem test_removal : ((after (.moduleRemoval 0) (portIs up0)).port 0).state = 4 := by decide +kernel

/-- A device with these readings. -/
def measured : State :=
  { clocked { QClk.reset with tj := 71, thbm := 64 } with
    module := { Module.reset with powerGood := true, millivolt := 50000, watt := 15000, flow := 30, inlet := 35, outlet := 55 } }

theorem test_bus_bootstat : (after .smbBootstat measured).out = [.smbus [6]] := by decide +kernel
theorem test_bus_uid : (after .smbUid { measured with sq := { measured.sq with uid := 99 } }).out = [.smbus [99]] := by decide +kernel
theorem test_bus_temperatures : (after .smbTemperatures measured).out = [.smbus [71, 64]] ∧ (after .readTemperature1 measured).out = [.smbus [71]] := by decide +kernel
theorem test_bus_power : (after .smbInputPower measured).out = [.smbus [15000]] ∧ (after .readPin measured).out = [.smbus [15000]] := by decide +kernel
theorem test_bus_coolant : (after .smbCoolant measured).out = [.smbus [30, 35, 55]] := by decide +kernel
theorem test_bus_supply : (after .readVin measured).out = [.smbus [50000]] ∧ (after .readIin measured).out = [.smbus [300000]] := by decide +kernel
theorem test_bus_write : (after (.pmbusWrite 1) measured).out = [.nack] ∧ (after (.pmbusWrite 1) State.reset).out = [] := by decide +kernel

/-- Cages with a module and without; the hottest sensors. -/
theorem witness_module : bit measured.module.cages 0 = false ∧ measured.sq.phase ≠ 0 ∧ State.reset.sq.phase = 0 ∧
    (∀ q < 20, (measured.clk q).tj.toNat ≤ 71) ∧ (measured.clk 0).tj.toNat = 71 ∧ (measured.clk 0).thbm.toNat = 64 := by decide +kernel

/-! ## The monitor -/

/-- A device unlocked with these scopes. -/
def unlocked (mem ctl fw : Bool) (x : Tile) : State :=
  { oneTile x with sq := both, sec := { State.reset.sec with unlocked := true, mem, ctl, fw } } |> fun s => { s with sq := { s.sq with phase := 6, uid := 0xABC } }

def locked : State := squares both

theorem test_mon_unknown : (after .unknownCommand locked).out = [.mon false 1 []] ∧ (after .unknownCommand State.reset).out = [] := by decide +kernel
theorem test_mon_overlong : (after .overlongLine locked).out = [.mon false 7 []] := by decide +kernel
theorem test_mon_abort : (after .abortCharacter { locked with mon := { xfer := none, output := true } }).out = [.mon false 12 []] ∧
    (after .abortCharacter locked).out = [] := by decide +kernel
theorem test_mon_rom : (after .temps { State.reset with sq := { both with phase := 7, cause := 2 } }).out = [.mon false 1 []] := by decide +kernel
theorem test_mon_log : (after (.log .square 2) { locked with sq := { locked.sq with
      dlog := (VioLog.reset.addDevice ⟨5, 6, 0, false, 0, 0⟩).addDevice ⟨27, 8, 4, true, 2, 1⟩ } }).out = [.mon true 1 [27, 8, 0x100020014, 5, 6, 0]] := by decide +kernel
theorem test_mon_floor : (after (.floor (some 0)) { locked with sq := { locked.sq with fp := { FloorPlan.reset with tiles := [5, 1030], banks := [9] } } }).out =
    [.mon true 1 [1, 5, 0, 1, 9]] := by decide +kernel
theorem test_mon_permits : (after (.permits none) { locked with sq := { locked.sq with permits := { Permits.reset with held := [⟨.measure, ⟨24, 0⟩⟩], waits := 3 } } }).out =
    [.mon true 1 [0x100, 3, 0]] := by decide +kernel
theorem test_mon_tally : (after (.tally 2 5) { locked with blocks := [(2, { Block.reset with tallies := [(5, { Tally.reset with value := 7, note := 3 })] })] }).out =
    [.mon true 1 [7, 0xFFFFFFFF, 0xFFFFFFFF, 3, 0]] := by decide +kernel
theorem test_mon_tally_clr : ((after (.tallyClr 2 5) { unlocked false true false Tile.reset with
      blocks := [(2, { Block.reset with tallies := [(5, { Tally.reset with ovf := true })] })] }).tally 2 5) = Tally.reset := by decide +kernel
theorem test_mon_queue_retired : (after (.queue 5 0) { locked with sq := { locked.sq with fp := { FloorPlan.reset with tiles := [5] } } }).out = [.mon false 5 []] := by
  decide +kernel
theorem test_mon_peek_locked : (after (.peek 0x1000 8) locked).out = [.mon false 3 []] ∧
    (after (.peek 0x1000 8) (unlocked false true true Tile.reset)).out = [.mon false 4 []] := by decide +kernel
theorem test_mon_peek : (after (.peek 0x1002 2) { unlocked true false false Tile.reset with mem := [(0x1002, 0x34), (0x1003, 0x12)] }).out = [.mon true 1 [0x1234]] ∧
    (after (.peek 0x1001 2) (unlocked true false false Tile.reset)).out = [.mon false 5 []] := by decide +kernel
theorem test_mon_poke : (after (.poke 0x1002 2 0x1234) (unlocked true false false Tile.reset)).mem = [(0x1002, 0x34), (0x1003, 0x12)] := by decide +kernel
theorem test_mon_dump : let s := after (.dump 0x1000 16) { unlocked true false false Tile.reset with mem := [(0x1008, 5)] }
    s.out = [.mon true 1 [0, 5]] ∧ s.mon.output = true := by decide +kernel
theorem test_mon_dump_too_long : (after (.dump 0x1000 0x1000001) (unlocked true false false Tile.reset)).out = [.mon false 2 []] := by decide +kernel
theorem test_mon_spot : (after (.spot ⟨3, 5⟩) (unlocked false true false Tile.reset)).sq.spots.map (fun x => (x.unit, x.asked)) = [(⟨3, 5⟩, true)] ∧
    (after (.spot ⟨3, 20480⟩) (unlocked false true false Tile.reset)).out = [.mon false 2 []] := by decide +kernel

/-- Scopes that are in force and not, units and addresses that can be reached and not, the ROM's monitor, and memory that serves the Square. -/
theorem witness_monitor : let s := unlocked true true false Tile.reset
    s.sq.phase ≠ 0 ∧ s.mon.xfer = none ∧ s.romMonitor = false ∧ locked.sec.unlocked = false ∧ s.sec.unlocked = true ∧ s.sec.fw = false ∧
    monScope 0x1000 s.sec = true ∧ monScope 0xF0058000000 s.sec = false ∧ s.unreachable 0x1000 8 = false ∧ s.unreachable 0x1004 8 = true ∧
    isMemory 0x1000 = true ∧ (∀ j < 16, s.access whoSquare (0x1000 + j) = .serve) ∧ s.retiredAt 0x1000 = false ∧
    isMemory 0xF0057000000 = false ∧ locOf 0xF0057000008 = .qclk 0 8 ∧ locOf 0xF0040000210 = .walks 0 ∧ spotCount 3 = 20480 ∧
    s.retiredUnit ⟨3, 5⟩ = false ∧ { s with marks := [(0x1000, true)] }.dramBad 0x1000 = true ∧
    ({ State.reset with sq := { both with phase := 7, cause := 2 } } : State).romMonitor = true ∧ s.clean ∧ s.memOk := by
  unfold State.clean State.memOk; decide +kernel

/-! ## Transfers, the unlock and recovery -/

def token0 : Token :=
  { hdr := header 4 0 1 0xABC 0, uid := 0xABC, nonce := 0x55, mem := true, ctl := false, trace := true, fw := true, reserved := false }

/-- A device in a transfer whose last line is to come: of a token, or of an image for part B. -/
def inTransfer (x : Xfer) : State :=
  { unlocked true true true Tile.reset with mon := { xfer := some x, output := false }, parts := [(1, part1)] } |> fun s =>
    { s with sec := { s.sec with challenge := some 0x55 } }

def lastOf (tok : Option Token) : Xfer := { recover := tok.isNone, part := true, total := 34, got := 32, tok }

theorem test_unlock_token : (after (.unlockToken 40 token0) locked).mon.xfer = some { recover := false, part := false, total := 40, got := 0, tok := some token0 } := by
  decide +kernel
theorem test_token_unlocks : let s := after (.dataLine [1, 2] 3 true) (inTransfer (lastOf (some token0)))
    (s.sec.ctl, s.sec.trace, s.sec.challenge) = (false, true, none) ∧ (s.part? 1).map (·.ending) = some (some true) ∧
    s.out = [.mon true 0 [], .mon true 0 []] := by decide +kernel
theorem test_token_of_another_nonce : let s := after (.dataLine [1, 2] 3 true) (inTransfer (lastOf (some { token0 with nonce := 0x56 })))
    s.out = [.mon false 9 [], .mon true 0 []] ∧ s.parts = [(1, part1)] := by decide +kernel
theorem test_line_with_a_bad_sum : let s := inTransfer (lastOf none)
    (after (.dataLine [1, 2] 4 true) s).out = [.mon false 10 []] ∧ (after (.dataLine [1, 2] 4 true) s).mon = s.mon := by decide +kernel
theorem test_image_does_not_verify : let s := after (.dataLine [1, 2] 3 false) { inTransfer (lastOf none) with
      sq := { both with phase := 6, flash := { fwA := some 4, fwB := some 5, fp := .reset, nextFp := false } } }
    s.out = [.mon false 11 [], .mon true 0 []] ∧ (s.sq.flash.fwA, s.sq.flash.fwB) = (some 4, none) := by decide +kernel
theorem test_recover : (after (.recover none 100) (unlocked false false true Tile.reset)).mon.xfer = some { recover := true, part := false, total := 100, got := 0, tok := none } ∧
    (after (.recover none 0x3DF0001) (unlocked false false true Tile.reset)).out = [.mon false 2 []] := by decide +kernel
theorem test_recover_reset : let s := after .recoverReset { unlocked false false true (tileWith []) with module := { Module.reset with powerGood := true } }
    s.sq.phase = 1 ∧ s.tiles = [] ∧ s.out = [.mon true 0 []] := by decide +kernel
theorem test_update_target : Flash.target ⟨some 3, some 2, .reset, false⟩ = true ∧ Flash.target ⟨some 2, some 3, .reset, false⟩ = false ∧
    Flash.target ⟨some 2, none, .reset, false⟩ = true ∧ Flash.target ⟨none, none, .reset, false⟩ = false := by decide +kernel

/-- A transfer with its next line good, bad and ended; a flash permit that is held; a device that has no keys. -/
theorem witness_transfers : let s := inTransfer (lastOf none)
    s.sq.phase ≠ 0 ∧ s.mon.xfer = some (lastOf none) ∧ ([1, 2] : List Byte).length = min 32 (34 - 32) ∧ lineSum [1, 2] = 3 ∧
    s.permitBlocked (flashPermit .flashw 1) = false ∧ s.sec.unlocked = true ∧ s.sec.fw = true ∧ s.sec.challenge = some token0.nonce ∧
    { s with sq := { s.sq with permits := { Permits.reset with held := [flashPermit .measure 1] } } }.permitBlocked (flashPermit .flashw 1) = true ∧
    ({ State.reset with sq := { both with phase := 7, cause := 1 } } : State).pufCurfew = true ∧ locked.pufCurfew = false ∧ locked.mon.xfer = none := by
  decide +kernel

/-! ## Registers -/

theorem test_ptroot : (after (.registerWrite .square 0xF0040000018 8 0xFFFFFFFFFFFFFFFF) State.reset).quarters.map (fun e => e.2.ptroot) = [[(3, 0xFFFFFFFF001)]] := by
  decide +kernel
theorem test_half_of_limit : ((after (.registerWrite .square 0xF0041000148 2 0x1234) State.reset).tally 0 5).limit = 0xFFFF1234 := by decide +kernel
theorem test_tally_flags : let s := { State.reset with blocks := [(0, { Block.reset with tallies := [(5, { Tally.reset with ovf := true, unf := true })] })] }
    (after (.registerWrite .square 0xF0041000158 8 0x20) s).tally 0 5 = { Tally.reset with unf := true } := by decide +kernel
theorem test_sat_byte : ((after (.registerWrite .square 0xFF001000038 1 5) (portIs { up0 with viol := 9 })).port 0).viol = 0 := by decide +kernel
theorem test_host_may_not : (after (.registerWrite .host 0xF0040000018 8 1) State.reset).sq.dlog.head = 1 := by decide +kernel
theorem test_trctl : ((after (.trctlWrite .square 0 0xFFFFFFFFFFFFFFFF) { State.reset with
      blocks := [(0, { Block.reset with trace := { Trace.reset with next := 7, full := true } })] }).block 0).trace = { Trace.reset with ctl := 0xFF3F03 } := by decide +kernel
theorem test_trace_sample : let x := { tileWith [] with core := { (tileWith []).core with pc := 0x44 } }
    (((after (.traceIssueSample 0) { oneTile x with blocks := [(0, { Block.reset with trace := { Trace.reset with ctl := 0x101 } })] }).block 0).trace.entries) =
      [(0, (0, 0x4401))] := by decide +kernel

/-- Writers that reach a register and ones that do not; a buffer that records, one that is full and one that wraps. -/
theorem witness_registers : isMemory 0xF0040000018 = false ∧ isMemory 0x1000 = true ∧ regionOf 0xF0040000018 = .qctl 0 ∧
    (world (tileWith [])).holds 0 0 = false ∧ (serving (remote 1 8 []) 0).holds 0 0 = true ∧ State.reset.mayCtl .square 0 = true ∧ State.reset.mayCtl .host 0 = false ∧
    bit (0x101 : Word) 0 = true ∧ bit (0x101 : Word) 8 = true ∧ State.reset.clean ∧ (0xF0040000018 : Nat) % 8 = 0 := by
  unfold State.clean; decide +kernel

/-! ## Bounds and states that the sections above do not show -/

/-- Nothing else comes first at a tile that runs; no tile of such a device holds a long instruction; an operation that 64 unacknowledged
writes hold. -/
theorem witness_issue : (tileWith []).parked = false ∧ (oneTile (interrupted (tileWith []))).unfrozen 0 = true ∧
    (State.reset.tile 0).longIn = none ∧
    (let s := { world (mapping (tileWith [1, 2, 0x40008])) with reqs := List.replicate 64 { req0 with kind := .write 1 0 } }
     64 ≤ (s.boundary 0 1).unacked 0 ∧ takesNow s 0 { opc := 0x68, opb := 0, legal := opNone 0, din := 2 } = true) := by decide +kernel

/-- A tile at the last parcel of a page, where a LIT64 begins that goes on in the next, unmapped page. -/
def atPageEnd : Tile :=
  { mapping (atPc 0x1FFFFE (tileWith [])) with
    ctl := { Ctl.reset with cachectl := 2 }
    gmem := { GMem.reset with tlb := [page], icache := [{ line := (tileMemBase 0 + 0x1FFFC0) / 64, data := (0x300 : Line) <<< 496 }] } }

theorem test_fetch_of_the_next_page : trap (.fetchGroupArrives 0) (world atPageEnd) = (0x12, 0x200000, 0) := by decide +kernel

theorem witness_next_group : let l : CacheLine := { line := (tileMemBase 0 + 0x1FFFC0) / 64, data := (0x300 : Line) <<< 496 }
    (world atPageEnd).atBoundary 0 = true ∧ (world atPageEnd).entersFirst 0 = false ∧ atPageEnd.tlbFind 0x1FFFFE = some page ∧
    cacheFind atPageEnd.gmem.icache (page.addr 0x1FFFFE / 64) = some l ∧
    parcelsOf (fld (lineWord l.data (page.addr 0x1FFFFE % 64 / 8)) (16 * (0x1FFFFE / 2 % 4)) 16) = 5 ∧
    atPageEnd.tlbFind 0x200000 = none ∧ (world atPageEnd).storesDone 0 = true ∧ ((world atPageEnd).walk 0 0 0x200000).leaf = none := by
  decide +kernel

/-- A line with an uncorrectable word, met in precise mode and not; lanes too. -/
theorem witness_bad_lines : let fl : Form := { opc := 0xA0, opb := 0, port := true, din := 1, vout := 1 }
    let fg : Form := { opc := 0xA2, opb := 2, legal := opGather 2, port := true, din := 1, vin := 1, vout := 1 }
    let bad (x : Tile) : State := { oneTile x with marks := [(tileMemBase 0, true)] }
    (∀ x ∈ [tileVec [0] [0], inPrecise (tileVec [0] [0])], takesNow (bad x) 0 fl = true ∧ takesNow (bad x) 0 fg = true ∧
      ((bad x).boundary 0 1).portBad 0 0 64 = true ∧ ((bad x).boundary 0 1).portBad 0 0 4 = true) ∧
    (inPrecise (tileVec [0] [0])).precise = true ∧ (tileVec [0] [0]).precise = false := by decide +kernel

/-- A tile that an interrupt may come to. -/
def mayInterrupt (x : Tile) : Tile := { x with ctl := { x.ctl with status := x.ctl.status ||| 0x10, ien := 1 } }

theorem test_vcopy_waits : ((after (.vcopy 0 0) (oneTile (mayInterrupt (tileWith [0x40, 0, 1])))).tile 0).core.doing = .long 0xB6 0 := by
  decide +kernel
theorem test_vcopy_goes_on : let s := ({ oneTile (inLong 0xB6 (tileWith [0x80, 0, 2])) with mem := [(tileMemBase 0 + 0x41, 7)] }).finishLines 0
    s.mem = [(tileMemBase 0 + 0x41, 7), (tileMemBase 0 + 0xC1, 7)] ∧ (s.tile 0).core.d = 0 := by decide +kernel

/-- VCOPY and VFILL where an interrupt may come and where none may, and ones that the tile holds. -/
theorem witness_held_lines : let f : Form := { opc := 0xB6, opb := 0, legal := opNone 0, din := 3 }
    let w (x : Tile) : Tile := (((oneTile x).boundary 0 1).drain 0).tile 0
    takesNow (oneTile (mayInterrupt (tileWith [0x40, 0, 1]))) 0 f = true ∧
    (w (mayInterrupt (tileWith [0x40, 0, 1]))).interruptible = true ∧ (w (tileWith [0x40, 0, 1])).interruptible = false ∧
    (let s := oneTile (inLong 0xB6 (tileWith [0x80, 0, 2]))
     s.unfrozen 0 = true ∧ s.memOk ∧ (s.tile 0).gmem.mb = [] ∧ s.marks = [] ∧ (s.tile 0).longIn = some (0xB6, 0)) := by
  unfold State.memOk; decide +kernel

/-- A BF16 TMMA in precise mode with this trap enabled, and these TMMAs before it. -/
def preciseTmma (l : List Tmma) : Tile :=
  let x := inPrecise (queued l)
  { x with ctl := { x.ctl with fcsr := 0x1F00 }, tmu := { x.tmu with tcfg := 0x80A } }

theorem witness_precise_tmma : let ft : Form := { opc := 0xC4, opb := 0x48, legal := opLow 7 0x48 }
    (∀ x ∈ [preciseTmma [], preciseTmma [tmma0]], takesNow (oneTile x) 0 ft = true ∧ cfgBad x.tmu.tcfg = false ∧ x.tmmaTraps = true) ∧
    (let x := preciseTmma []
     let y := withTmu (fun u => { u with tr := Vector.replicate 8 (Vector.replicate 8 (0x7F80 : Line)) }) x
     let z := withTmu (fun u => { u with tr := (Vector.replicate 8 (Vector.replicate 8 (0x7F80 : Line))).setIfInBounds 1 (Vector.replicate 8 0) }) x
     trapCode x.ctl.fcsr (x.tmu.multiply (x.tmma 0x48)).2 = none ∧ trapCode y.ctl.fcsr (y.tmu.multiply (y.tmma 0x48)).2 = none ∧
     trapCode z.ctl.fcsr (z.tmu.multiply (z.tmma 0x48)).2 = some 0x21) := by decide +kernel

/-- A tile whose G = 1 TLOAD and TSTORE move one row at tile 1's memory. -/
def oneRow (den : Bool) (cache : List CacheLine) : Tile :=
  let x := mapping (withTmu (fun u => { u with tcfg := 0x4000000 }) (tileWith [0x40000]))
  { x with ctl := { x.ctl with cachectl := if den then 1 else 0 }, gmem := { x.gmem with dcache := cache } }

def rowLine : CacheLine := { line := tileMemBase 1 / 64, data := 0x77 }

theorem test_tload_from_the_cache : ((after (.tload 0 8) (world (oneRow true [rowLine]))).tile 0).tmu.row 0 0 = 0x77 := by decide +kernel
theorem test_tload_asks : let s := after (.tload 0 8) (world (oneRow false []))
    s.reqs.map (fun r => (r.kind == .row 0, r.addr)) = [(true, tileMemBase 1)] ∧ (s.tile 0).core.doing = .long 0xC2 8 := by decide +kernel
theorem test_tstore_merges : ((after (.tstore 0 8) (world (oneRow false []))).tile 0).gmem.mb.map (fun m => (m.line, m.mask, m.drain)) =
    [(tileMemBase 1 / 64, BitVec.allOnes 64, true)] := by decide +kernel

/-- Rows of tile memory where an interrupt may come and where none may, and one row of global memory that the cache holds, that is asked for,
and that is stored. -/
theorem witness_global_rows : let fl : Form := { opc := 0xC2, opb := 8, legal := opLow 4 8, din := 1 }
    let fs : Form := { opc := 0xC3, opb := 8, legal := opLow 4 8, din := 1 }
    let w (x : Tile) : State := ((world x).boundary 0 1).drain 0
    (∀ x ∈ [oneRow true [rowLine], oneRow false []], takesNow (world x) 0 fl = true ∧ takesNow (world x) 0 fs = true ∧
      ((w x).tile 0).core.entry 0 = 0x40000 ∧ ((w x).tile 0).tlbFind 0x40000 = some page ∧ protFault page kLoad false = none ∧
      protFault page kStore false = none ∧ ((w x).tile 0).user = false ∧ ((w x).tile 0).interruptible = false ∧ (w x).reqs = [] ∧
      (w x).marks = [] ∧ ((w x).tile 0).tmu.queue = [] ∧ ((w x).tile 0).gmem.mb = [] ∧ page.addr 0x40000 = tileMemBase 1 ∧
      ((w x).tile 0).ctl.tstart = 0 ∧ fld ((w x).tile 0).tmu.tcfg 17 3 = 0) ∧
    (let v := w (oneRow true [rowLine])
     (v.tile 0).den = true ∧ v.cacheable 0 (tileMemBase 1) page.nc = true ∧
      (v.acqMet 0 (v.tile 0).gmem.acqE (v.tile 0).gmem.seq && v.fenMet 0 (v.tile 0).gmem.fenE) = true ∧
      cacheFind (v.tile 0).gmem.dcache (tileMemBase 1 / 64) = some rowLine) ∧
    ((w (oneRow false [])).tile 0).den = false ∧ (w (oneRow false [])).ownMem 0 (tileMemBase 1) = false ∧
    (((oneTile (mayInterrupt (tileWith [0]))).boundary 0 1).drain 0 |>.tile 0).interruptible = true := by decide +kernel

/-- A 16-bit command in its fallback whose output tile is done, a command to preempt at its second row, and Squares that test nothing. -/
theorem witness_stag_goes_on :
    (let s := withBlock (stagBlock [acc16] (some { run0 with s := 5 })) [] (tileWith [])
     ∃ job, s.job 0 = some job ∧ job.abandons (s.stagAdvance 0 job (recK acc16.words)).2 = false ∧ recAcc16 acc16.words = true) ∧
    (let s := dotState (some run0)
     run0.srow ≤ 1 ∧ 1 < recK dot.words ∧ s.curfew = false ∧ s.sq.spots = [] ∧ s.stagHeld 0 = false) ∧
    (let s := dotState (some { run0 with otile := 1, err := some 9 })
     s.memOk ∧ ∀ i < 8, s.access dot.who (tileMemBase 0 + 0x438 + i) = .serve) ∧
    (let c := { dot with words := dot.words.setIfInBounds 0 0x404000 }
     recFld c.words 0 24 8 = 0 ∧ recFld (dot.words.setIfInBounds 0 0x1004000) 0 24 8 ≠ 0) := by
  refine ⟨⟨_, rfl, ?_, ?_⟩, ?_⟩
  · decide +kernel
  · decide +kernel
  · unfold State.memOk; decide +kernel

/-- The channel's turn; every address that it reads and writes can be reached and holds its partition's epoch. -/
theorem witness_dma_reaches :
    (∀ s ∈ [dmaState fresh0 [] (wordsAt (tileMemBase 0) move8), dmaState live0 [] (wordsAt (tileMemBase 1) [7]), dmaState live0 [xfer0] [],
        dmaState { spent0 with runs := [ringRun] } [] (ring 0), dmaState { spent0 with runs := [ringRun], cqwait := true } [] (ring 0)],
      ∀ a ∈ [tileMemBase 0, tileMemBase 1, tileMemBase 2, tileMemBase 3], s.isLocal a = true ∧ isMemory (devAddr a) = true ∧
        s.reachable 0 a = true ∧ s.staleAt 0 0 a = false) ∧
    (let s := dmaState live0 [] (wordsAt (tileMemBase 1) [7])
     (s.block 0).dma.turn = some 0 ∧ (s.block 0).dma.inFlight.length < 128) ∧
    epochOld xfer0.epoch ((dmaState live0 [xfer0] []).homeEpoch 0 (tileMemBase 2)) = false ∧
    (dmaState fresh0 [] []).relMet 0 0 = true ∧ (dmaState fresh0 [] []).fenMet 0 0 = true ∧
    (let s := dmaState { spent0 with runs := [ringRun], cqwait := true } [] (ring 0xFFFFFFFFFFFFFFF5)
     s.memOk ∧ (s.wordAt (tileMemBase 3) - s.wordAt (tileMemBase 3 + 8)).toNat = 2 ^ 4) := by unfold State.memOk; decide +kernel

/-- A payload of every message is read back as it was packed (R340). -/
theorem test_messages_return : let ms : List CtlMsg := [.nak 0x123, .retrain, .credit (List.replicate 18 7), .beat { beat5 with curfew := true, role := 2 }, .handshake 2 0 true [1, 2, 3]]
    readCtl 31 (packCtl ms) = ms := by decide +kernel
theorem test_credit_flit : let s := after (.dataFlit 0 { dataFlit0 with type := 2, payload := packCtl [.credit (List.replicate 18 7)] }) (portIs up0)
    Tab.read 0 17 (s.port 0).peerFreed = 7 ∧ s.out = [] := by decide +kernel
theorem test_eighth_nak : let s := after (.nak 0 1) (portIs { sent3 with nakGot := 7, nakGotSeq := 1 })
    (s.port 0).state = 1 ∧ s.out = [.ctl 0 0 0xFFF (4 :: List.replicate 241 0), .flit 0 2 0xFFF 0 0 0 [2], .flit 0 1 0xFFF 0 0 0 [1]] := by decide +kernel

/-- A port without a pair, a count that passes, one at its bound and one over it; flits before a session and that fail in one; control flits. -/
theorem witness_port_bounds :
    (bit (0b101 : Word) 0 = true ∧ bit (0b101 : Word) 2 = true) ∧
    (let y : Port := { Port.reset with state := 2, lanes := 3 }
     0 * 1000000 ≤ y.bitRate ∧ ¬(850001 * 1000000 ≤ y.bitRate) ∧ y.uncSec = 0 ∧ y.bitRate < 8500001 * 100000 ∧ ¬(y.bitRate < 8500000 * 100000)) ∧
    ((portIs { qualified0 with session := true }).port 0).session = true ∧ (portIs { qualified0 with session := true }).returns = [] ∧
    (packCtl [.credit (List.replicate 18 7)]).headD 0 = 3 ∧ (packCtl []).headD 0 = 0 ∧
    ((sent3.nakGot ≠ 0 ∧ sent3.nakGotSeq = 1) ∨ sent3.nakGot = 0) ∧
    ((packetOf readBytes).rsv = false ∧ dataFlit0.payload.length = 242 ∧ Tab.read 0 0 up0.rxFlits < 32 ∧ ¬(Tab.read 0 0 { up0 with rxFlits := [(0, 32)] }.rxFlits < 32)) ∧
    (let ms : List CtlMsg := [.credit (List.replicate 18 7), .handshake 1 0 true (List.replicate 16 1)]
     (ms.map fun m => (m.bytes.length + 7) / 8 * 8).sum ≤ 242) := by decide +kernel

/-- The device of the higher number waits for HELLO, and device 0 sends it to any other. -/
theorem witness_lower : ¬(4095 : DevNo) < Config.planPeer 0 ∧ (Config.planPeer 0 ≠ 0 → (0 : DevNo) < Config.planPeer 0) := by
  exact ⟨Nat.not_lt.mpr (Nat.le_of_lt_succ (Config.planPeer 0).isLt), fun h => Nat.pos_of_ne_zero fun e => h (BitVec.eq_of_toNat_eq e)⟩

/-- A packet whose turn it is; one behind the head of its input; ports that are DOWN, FENCED and retraining; this device's own RETURN packet, the last. -/
theorem witness_switch_turns :
    (let s := routed { passing 9 with via := some 1 }
     s.switchTurn 0 0 { passing 9 with via := some 1 } = true ∧ (s.edge 0).queue = [{ passing 9 with via := some 1 }]) ∧
    (let x : Queued := { passing 9 with via := some 1 }
     let s := { routed x with edges := [(0, { Edge.reset with queue := [x, x] })] }
     s.switchTurn 0 1 x = false) ∧
    (((routed (passing 9)).port 2).state = 0 ∧ ({ routed (passing 9) with ports := [(2, { up0 with state := 4 })] } |>.port 2).state = 4 ∧
      ({ routed (passing 9) with ports := [(2, { up0 with state := 1 })] } |>.port 2).state = 1) ∧
    (let r : Returning := { group := 5, part := 0, note := 0x50000, left := 1 }
     let k : Packet := { (ofGroup 0x0A 1).pkt with sdev := 7 }
     k.sdev = (routed (passing 9)).devnum ∧ k.op = 0x0A ∧ r.group = k.oparg.extractLsb' 16 16 ∧ r.part = k.part ∧ r.left ≤ 1) := by decide +kernel

/-- The way to the word of a request is open, or closed by a spot test of its channel. -/
theorem witness_ways : let s := serving (remote 1 8 []) 5
    (s.roadOpen (edgePath 0 (s.goalOf (s.cityOf 0x40000))) = true ∧ s.underTest 0x40000 = false) ∧ s.txWait = [] ∧
    (s.dist.change = none ∧ s.dist.vacant = none) ∧
    (∀ i < 1024, isMemory (0x40000 + i) = true ∧ s.access (whoRemote (remote 8 0 []).pkt) (0x40000 + i) = .serve) ∧
    (remote 8 0 (words [5, 0xFF])).run.got ≤ 128 ∧ (remote 8 0 (words [5, 0xFF])).run.bad = false := by decide +kernel

/-- Transactions of a request, of a transfer and of a host's access. -/
theorem witness_owners :
    (∀ o ∈ [TxOwner.req 5, .dma 0 0, .host 1 0x40 false], let s := { awaiting (remote 0x10 0 []) 1 (.load 3) with txs := [{ tx0 1 with owner := o }] }
      s.txs.find? (fun y => y.txid = 9 && endsTx y 0x10) = some { tx0 1 with owner := o }) ∧
    (let s := { dmaState live0 [{ xfer0 with st := .reading }] [] with txs := [{ tx0 1 with owner := .dma 0 0 }], inbox := [remote 0x10 0 []] }
     s.txs.find? (fun y => y.txid = 9 && endsTx y 0x10) = some { tx0 1 with owner := .dma 0 0 } ∧
      ((s.block 0).dma.slots.map (·.id)) = [0]) ∧
    (inGroup (ofGroup 9 1) { group0 with root := true }).rgroup 0 5 = { group0 with root := true } ∧ group0.kind = true := by decide +kernel

/-- A request of this device's manager, another member's report, and an acknowledged change; an exclusion that is due and one that is not. -/
theorem witness_manager :
    ((told 0 5).inbox[0]? = some (remote 0x20 0 []) ∧ (remote 0x20 0 []).pkt.sdev = (told 0 5).dist.manager ∧ (told 2 7).isManager = true ∧
      (told 2 7).dist.manager ≠ (remote 0x20 0 []).pkt.sdev ∧ (∃ y ∈ (told 2 7).dist.members, y.1 = (5 : DevNo).toNat) ∧ MgmtBody.isReport (.fenced 3) = true ∧
      MgmtBody.isReport .heartbeat = false) ∧
    ((noSpare 3).mustExclude 3 1 = true ∧ (noSpare 3).mustExclude 3 2 = false ∧ (noSpare 3).dist.change = none ∧ (noSpare 3).isManager = true) ∧
    (∀ z ∈ (noSpare 1).dist.members, z.2.role = 3 → z.1 = 3) ∧
    (let t : Transaction := { tx0 0x20 with owner := .mgmt 8 .change }
     let x := remote 0x11 0 []
     let g : Change := { members := (noSpare 1).dist.members, news := [], vacant := some 6 }
     let s := { noSpare 1 with avenue := [(8, 0x40)], inbox := [x], txs := [t], dist := { (noSpare 1).dist with change := some g } }
     s.inbox[0]? = some x ∧ x.pkt.op = 0x11 ∧ x.pkt.status = 0 ∧ s.isManager = true ∧ s.dist.failed = false ∧ t.txid = x.pkt.txid ∧ s.txWait = []) := by
  decide +kernel

/-- A way to device 8, by which the manager reaches it. -/
theorem witness_awaited : ∀ s ∈ [noSpare 1, noSpare 3], ({ s with avenue := [(8, 0x40)] } : State).routable (8 * 0x100000000000) = true := by
  have h : ∀ s ∈ [noSpare 1, noSpare 3], ({ s with avenue := [(8, 0x40)] } : State).usable (Tab.read 0 (8 : DevNo).toNat [(8, 0x40)]) 0 = [(0, false)] := by
    decide +kernel
  intro s m
  have := h s m
  simp only [State.routable, State.route]
  show ((State.usable _ (Tab.read 0 (8 : DevNo).toNat [(8, 0x40)]) 0)[_ % (State.usable _ (Tab.read 0 (8 : DevNo).toNat [(8, 0x40)]) 0).length]?).isSome = true
  rw [this]
  simp [Nat.mod_one]

/-- An access of the host whose way is open and one whose memory a spot test holds; a sender that nothing holds back and one whose REL does. -/
theorem witness_host_ways :
    ((hosted 7 []).enters 0x40000 = true ∧ (hosted 7 []).owes (.host (hosted 7 []).nextId 0x10000000000 true) = false ∧
      (∀ e ∈ (hosted 7 []).parts, e.1 ≠ 0)) ∧
    ((hosted 7 []).writerFree .square = true ∧ (hosted 7 []).writerFree (.tile 0) = true) ∧
    (let u : SpotUnit := ⟨9, pseudoChannel 0x40000⟩
     let s := { hosted 7 [] with sq := { (hosted 7 []).sq with spots := [{ spot0 with unit := u, running := true }] } }
     s.enters 0x40000 = false) ∧
    (let x := withMb [mb0] (tileWith [])
     ({ world { x with gmem := { x.gmem with relE := 1 } } with quarters := [] } : State).writerFree (.tile 0) = false) ∧
    ((hosted 7 []).parts.all (fun e => e.2.ending.isNone)) = true := by decide +kernel

/-- The objects of this flash part are good, and its floor plan is the newest; no other has them. -/
theorem witness_boot :
    (∀ h ∈ [(image0 0xABC 3).hdr, (config0 0xABC record7).owner, (config0 0xABC record7).oper, (plan0 0xABC 6 [40]).hdr], h.edOk = true ∧ h.pqOk = true ∧
      h.rsv = false ∧ h.magic = 0x20640B5C ∧ h.hver = 1 ∧ h.bodylen.toNat % 8 = 0 ∧ h.bodylen.toNat ≤ 0xF0000 ∧ h.uid = found7.uid) ∧
    ((image0 0xABC 3).hdr.type = 1 ∧ (image0 0xABC 3).hdr.gen = 0 ∧ (image0 0xABC 3).digestsOk = true ∧ (config0 0xABC record7).owner.keyid = 0 ∧
      (config0 0xABC record7).oper.keyid = 1 ∧ (config0 0xABC record7).owner.type = 2 ∧ (plan0 0xABC 6 [40]).hdr.keyid = 2 ∧ (plan0 0xABC 6 [40]).hdr.type = 3) ∧
    (found7.fpA = some (plan0 0xABC 6 [40]) ∧ found7.fpB = none ∧ found7.cfgB = none ∧ found7.fwB = none) ∧
    (after (.phaseSquareEnd { found7 with fwA := some (image0 0xABD 3) }) (inPhase 1)).sq.cause = 2 ∧
    (after (.phaseSquareEnd { found7 with cfgA := none }) (inPhase 1)).sq.cause = 3 ∧
    (after (.phaseSquareEnd { found7 with fpA := none }) (inPhase 1)).sq.fp = FloorPlan.reset ∧
    (∀ p ∈ List.range 18, (({ inPhase 5 with ports := (List.range 18).map fun p => (p, { Port.reset with measured := true }) } : State).port p).measured = true) := by
  decide +kernel

/-- Two partitions of one quarter of which one runs: the slice of the other comes next. -/
def sliced : State :=
  { keyed part1 with sq := { Square.reset with running := true }, quarters := [(0, { Quarter.reset with running := some 1 })]
                     parts := [(1, { part1 with keying := .keyed, inTables := true }), (2, { part1 with desc := { desc1 with part := 2 }, keying := .keyed, inTables := true })] }

theorem test_slice_switches : let s := after (.timeSliceSwitch 1 2) sliced
    (s.quarter 0).running = some 2 ∧ (s.part? 1).map (·.ending) = some none := by decide +kernel
theorem witness_slices : sliced.runsIn 1 = [0] ∧ sliced.quartersOf 2 = [0] ∧ sliced.nextSlice 1 = some 2 ∧ sliced.curfew = false ∧
    sliced.blocks = [] ∧ sliced.tilesIn [0] = [] ∧ (sliced.part? 2).map (·.saved) = some [] ∧ sliced.tiles.Pairwise (fun a b => a.1 < b.1) := by decide +kernel

/-- Places that a patrol and a sweeper have skipped, caught and free again. -/
theorem witness_skipped :
    (let s := { State.reset with quarters := [(1, { Quarter.reset with patrolSkip := [3] })] }
     (s.quarter 1).patrolSkip = [] ++ 3 :: [] ∧ s.permitBlocked { act := .patrol, unit := ⟨9, 64 + pseudoChannel (3 * 64)⟩ } = false ∧ (3 : Nat) < 2 ^ 30 ∧
      (after (.hbmPatrol 1) s).quarter 1 = { Quarter.reset with patrolSkip := [] }) ∧
    (let p : Permit := ⟨.spotM, ⟨9, 64 + pseudoChannel (3 * 64)⟩⟩
     let s := { State.reset with quarters := [(1, { Quarter.reset with patrolSkip := [3], permits := { Permits.reset with held := [p] } })] }
     s.permitBlocked { act := .patrol, unit := ⟨9, 64 + pseudoChannel (3 * 64)⟩ } = true ∧ ((after (.hbmPatrol 1) s).quarter 1).patrol = 1) ∧
    (let s := { hosted 0 [] with pop := { (hosted 0 []).pop with ddrSkip := [(0, 5)] } }
     s.pop.ddrSkip = [] ++ ((0 : Fin 24).val, 5) :: [] ∧ s.permitBlocked ⟨.patrol, ⟨10, 0⟩⟩ = false ∧ bit s.pop.channels 0 = true ∧ bit s.pop.ddrSelf 0 = false ∧
      (after (.ddr5Patrol 0) s).pop.ddrSkip = []) ∧
    (let b := { Block.reset with skipped := [0x80000000018] }
     let s := { State.reset with blocks := [(0, b)], marks := [(0x80000000018, false)] }
     b.skipped = [] ++ 0x80000000018 :: [] ∧ s.permitBlocked { act := .sweep, unit := sramUnit 0x80000000018 } = false ∧ b.gatedAt = none ∧
      ((after (.sweeperAccess 0) s).block 0).skipped = [] ∧ (after (.sweeperAccess 0) s).marks = []) := by decide +kernel

/-- Units of a spot test that are there and not; a full buffer of a tally's operations of this epoch; the lowest tile of a partition. -/
theorem witness_units : spotExists 3 5 = true ∧ spotExists 3 20480 = false ∧ spotExists 12 (spotCount 12) = false ∧
    (tally5 20).staleOp 212 stagAdd = false ∧ (tally5 20).staleOp 212 tileAdd = false ∧ (stuck.quarter 0).running = none ∧
    (world (tileWith [])).lowestTile 0 = some 0 := by decide +kernel

/-- A line of an image whose permit another action blocks, and one that comes to its turn; a token that is this device's. -/
theorem witness_lines_and_tokens :
    (let s := { inTransfer (lastOf none) with sq := { both with phase := 6, permits := { Permits.reset with held := [flashPermit .measure 1] } } }
     let z := after (.dataLine [1, 2] 3 true) s
     z.out = s.out ∧ z.mon = s.mon ∧ flashPermit .flashw 1 ∈ z.sq.permits.wait) ∧
    (lastOf none).recover = true ∧ ([1, 2] : List Byte) ≠ [] ∧ (lastOf none).got + 2 = (lastOf none).total ∧
    (let h := token0.hdr
     h.edOk = true ∧ h.pqOk = true ∧ h.rsv = false ∧ h.magic = 0x20640B5C ∧ h.type = 4 ∧ h.hver = 1 ∧ h.keyid = 0 ∧ h.bodylen.toNat % 8 = 0 ∧
      h.bodylen.toNat ≤ 0xF0000 ∧ h.uid = 0xABC ∧ h.gen = 0 ∧ token0.reserved = false ∧ token0.uid = 0xABC) ∧
    (inTransfer (lastOf (some token0))).sq.uid = 0xABC ∧ (inTransfer (lastOf (some token0))).mon.xfer = some (lastOf (some token0)) := by decide +kernel

/-- The example of R203: the MAC slot of a line with 24 modules of 256 GiB. -/
theorem test_mac_slot : ({ hosted 0 [] with pop := { (hosted 0 []).pop with channels := 0xFFFFFF, moduleGib := 256 } } : State).macSlot 0x2A345678000 =
    0x38D9B1DE00 := by decide +kernel

/-! ## Every command -/

/-- A state with canonical memory, and a step from it. -/
theorem witness_canonical : State.reset.memOk ∧ step { State.reset with pending := [.smbUid] } = exec .smbUid State.reset := by
  unfold State.memOk; exact ⟨by decide +kernel, rfl⟩

/-- A command at the front of a queue. -/
theorem witness_step : let s := { State.reset with pending := [.unlock, .links], sq := { both with phase := 6 } }
    s.pending = .unlock :: [.links] ∧ s.pending ≠ [] := by decide +kernel

end Sys2Proof.Tests
end

section
/-! PROOF. What an instruction's body says of a run and of a trap; the annex opcodes (R23, R24). -/

namespace Sys2Proof.Machine

/-! ## From a body to a run or a trap -/

/-- An instruction whose body puts `r` in flight after the effect that makes `v` runs, and gives `r`. -/
theorem State.runs_of_body {s v : State} {t : Nat} {c : Instr} {f : Form} {r : Gives} {body : State → Res}
    (hc : exec c s = .next (s.issue t f body)) (hb : body (s.boundary t f.parcels) = .ok (v.give t r) .seq) :
    s.runs t c f v r := fun h => by
  rw [hc]
  exact State.issue_ran h rfl hb

/-- An instruction whose body answers a trap in `v` takes that exception there. -/
theorem State.trapsAt_of_body {s v : State} {t : Nat} {c : Instr} {f : Form} {code : Byte} {value : Word} {body : State → Res}
    (hc : exec c s = .next (s.issue t f body)) (hb : body (s.boundary t f.parcels) = .trap v code value 0) :
    s.trapsAt t c f v code value := fun h => by
  rw [hc, State.issue_of h, hb]
  rfl

theorem State.gives_eq (s : State) (t pops : Nat) (vals : List Word) (d : Nat) :
    s.gives t pops vals d = .ok (s.give t { pops, vals, d }) .seq := by
  rw [State.gives, State.push_give]

/-- Settles O4: each annex opcode's body pops its operands and pushes what it gives, and no more. -/
theorem annexOpcodesPushZero : Obligations.AnnexOpcodesPushZero := by
  intro t o b s
  exact ⟨State.runs_of_body rfl (State.gives_eq ..), State.runs_of_body rfl (State.gives_eq ..),
    State.runs_of_body rfl (State.gives_eq ..), State.runs_of_body rfl (State.gives_eq ..)⟩

end Sys2Proof.Machine
end

section
/-! PROOF. Bytes and numbers: the bytes of a number, the number of bytes, and the extension of an access (R3, R42). -/

namespace Sys2Proof.Machine

@[simp] theorem length_natBytes (n v : Nat) : (natBytes n v).length = n := by
  induction n generalizing v with
  | zero => rfl
  | succ n ih => rw [natBytes, List.length_cons, ih]

/-- Byte i of a number, least significant first (R3). -/
theorem toNat_getElem_natBytes (n v i : Nat) (h : i < (natBytes n v).length) :
    ((natBytes n v)[i]).toNat = v / 2 ^ (8 * i) % 256 := by
  induction n generalizing v i with
  | zero => simp at h
  | succ n ih =>
    cases i with
    | zero => simp [natBytes]
    | succ i =>
      have hpow : 2 ^ (8 * (i + 1)) = 256 * 2 ^ (8 * i) := by rw [Nat.mul_succ, Nat.pow_add]; omega
      simp only [natBytes, List.getElem_cons_succ]
      rw [ih, hpow, Nat.div_div_eq_div_mul]

theorem leNat_lt (l : List Byte) : leNat l < 2 ^ (8 * l.length) := by
  induction l with
  | nil => simp [leNat]
  | cons b r ih =>
    have hb := b.isLt
    have hpow : 2 ^ (8 * (r.length + 1)) = 256 * 2 ^ (8 * r.length) := by rw [Nat.mul_succ, Nat.pow_add]; omega
    rw [List.length_cons, leNat, hpow]
    omega

/-- A sign-extended access of 1, 2 or 4 bytes is the number that they spell in two's complement. -/
theorem extend_signed {k : Nat} (hk : k < 3) (v : Nat) :
    (extend k false v).toInt = (BitVec.ofNat (8 * 2 ^ k) v).toInt := by
  match k, hk with
  | 0, _ => exact BitVec.toInt_signExtend_of_le (by omega)
  | 1, _ => exact BitVec.toInt_signExtend_of_le (by omega)
  | 2, _ => exact BitVec.toInt_signExtend_of_le (by omega)

/-- A zero-extended access of 1, 2, 4 or 8 bytes is the number that they spell. -/
theorem extend_unsigned {k : Nat} (hk : k < 4) {l : List Byte} (hl : l.length = 2 ^ k) :
    (extend k true (leNat l)).toNat = leNat l := by
  have h := leNat_lt l
  rw [hl] at h
  match k, hk with
  | 0, _ => simp [extend]; omega
  | 1, _ => simp [extend]; omega
  | 2, _ => simp [extend]; omega
  | 3, _ => exact Nat.mod_eq_of_lt h

end Sys2Proof.Machine
end

section
/-! PROOF. Tile memory through its ports: what a read that meets errors, a write and the landing of VSCATTER writes leave of the
memory and of the tiles (R125, R175, R183, R227). -/

namespace Sys2Proof.Machine

/-! ## Memory at its home -/

@[simp] theorem State.sendPacket_mem (s : State) (p : Packet) : (s.sendPacket p).mem = s.mem := by
  unfold State.sendPacket; split <;> rfl

@[simp] theorem State.fireWatch_mem (s : State) (w : Watch) : (s.fireWatch w).mem = s.mem := by
  unfold State.fireWatch; split
  · rfl
  · exact State.sendPacket_mem ..
  · rfl

@[simp] theorem State.checkWatches_mem (s : State) (a n : Nat) : (s.checkWatches a n).mem = s.mem := by
  unfold State.checkWatches; split
  · rfl
  · exact foldl_keeps State.mem State.fireWatch State.fireWatch_mem _ _

@[simp] theorem State.logError_mem (s : State) (q addr : Nat) (u : SpotUnit) (sev : BitVec 2) (who : AgentId) :
    (s.logError q addr u sev who).mem = s.mem := by
  unfold State.logError State.scheduleSpot
  dsimp only
  split <;> simp

@[simp] theorem State.correct_mem (s : State) (a : Nat) : (s.correct a).mem = s.mem := by
  unfold State.correct
  dsimp only
  split <;> rfl

@[simp] theorem State.meetSram_mem (s : State) (a : Nat) (who : AgentId) : (s.meetSram a who).mem = s.mem := by
  unfold State.meetSram
  dsimp only
  split
  · split <;> simp
  · rfl

@[simp] theorem State.storeBytes_mem (s : State) (who : AgentId) (a : Nat) (bs : List Byte) :
    (s.storeBytes who a bs).mem = Memory.writeAll a bs s.mem := by
  unfold State.storeBytes State.store
  dsimp only
  rw [State.checkWatches_mem]
  refine congrArg (Memory.writeAll a bs) ?_
  split
  · rfl
  · exact foldl_keeps State.mem _ (fun s w => by split <;> simp) _ _

/-! ## A read through the ports -/

@[simp] theorem State.portMeet_mem (s : State) (t off n : Nat) : (s.portMeet t off n).mem = s.mem := by
  unfold State.portMeet; split
  · rfl
  · exact foldl_keeps State.mem _ (fun _ _ => State.meetSram_mem ..) _ _

@[simp] theorem State.portMeet_tile (s : State) (t off n r : Nat) : (s.portMeet t off n).tile r = s.tile r := by
  refine State.tile_congr ?_ r
  unfold State.portMeet; split
  · rfl
  · exact foldl_keeps State.tiles _ (fun _ _ => State.meetSram_tiles ..) _ _

@[simp] theorem State.length_portRead (s : State) (t off n : Nat) : (s.portRead t off n).length = n := by
  unfold State.portRead State.bytesAt
  dsimp only
  split <;> simp

/-- With no store waiting in the merging buffer, a read gives the bytes of the tile's memory (R227). -/
theorem State.portRead_of_mb_nil {s : State} {t : Nat} (h : (s.tile t).gmem.mb = []) (off n : Nat) :
    s.portRead t off n = (List.range n).map fun i => s.byteAt (tileMemBase t + off + i) := by
  simp [State.portRead, State.bytesAt, h]

/-! ## A write through the ports -/

@[simp] theorem State.portWrite_mem (s : State) (t off : Nat) (bs : List Byte) :
    (s.portWrite t off bs).mem = Memory.writeAll (tileMemBase t + off) bs s.mem := by
  unfold State.portWrite
  dsimp only
  rw [State.storeBytes_mem]
  split <;> rfl

theorem State.portWrite_byteAt_inside {s : State} (h : Memory.wf s.mem = true) (t off : Nat) {bs : List Byte} {i : Nat}
    (hi : i < bs.length) : (s.portWrite t off bs).byteAt (tileMemBase t + off + i) = bs[i] := by
  rw [State.byteAt, State.portWrite_mem, Memory.read_writeAll_inside bs _ i h hi]

theorem State.portWrite_byteAt_outside {s : State} (h : Memory.wf s.mem = true) (t off : Nat) {bs : List Byte} {a : Nat}
    (ha : a < tileMemBase t + off ∨ tileMemBase t + off + bs.length ≤ a) : (s.portWrite t off bs).byteAt a = s.byteAt a := by
  rw [State.byteAt, State.portWrite_mem, Memory.read_writeAll_outside bs _ h ha, State.byteAt]

theorem Tile.sameUnits_trans {x y z : Tile} (h : x.sameUnits y) (g : y.sameUnits z) : x.sameUnits z := by
  unfold Tile.sameUnits at *
  simp_all

theorem State.portWrite_sameUnits (s : State) (t off : Nat) (bs : List Byte) :
    (s.tile t).sameUnits ((s.portWrite t off bs).tile t) := by
  obtain ⟨m, h⟩ := s.portWrite_tile t off bs
  rw [h]
  simp [Tile.sameUnits]

/-! ## Landing -/

theorem State.land_mem_wf {s : State} (t : Nat) (f : Flight) (h : Memory.wf s.mem = true) :
    Memory.wf (s.land t f).mem = true := by
  cases hd : f.dest with
  | scatter ls =>
    have key : Memory.wf (ls.foldl (fun (s : State) e => s.portWrite t e.1 e.2) s).mem = true := by
      clear hd
      induction ls generalizing s with
      | nil => exact h
      | cons e r ih => exact ih (by rw [State.portWrite_mem]; exact Memory.wf_writeAll _ _ h)
    simpa [State.land, hd] using key
  | _ => rw [State.land_eq (by rw [hd]; rfl)]; exact h

theorem State.landList_mem_wf {s : State} (t : Nat) (l rest : List Flight) (h : Memory.wf s.mem = true) :
    Memory.wf (s.landList t l rest).mem = true := by
  unfold State.landList
  generalize hu : s.modTile t _ = u
  replace h : Memory.wf u.mem = true := by rw [← hu]; exact h
  clear hu
  induction l generalizing u with
  | nil => exact h
  | cons f r ih => exact ih _ (State.land_mem_wf t f h)

theorem State.landList_other {s : State} {t r : Nat} (h : r ≠ t) (l rest : List Flight) :
    (s.landList t l rest).tile r = s.tile r := by
  rw [State.landList, State.foldl_land_other h, State.modTile_tile_other _ h]

theorem State.landList_sameUnits (s : State) (t : Nat) (l rest : List Flight) :
    (s.tile t).sameUnits ((s.landList t l rest).tile t) := by
  unfold State.landList
  obtain ⟨m, h⟩ := State.foldl_land_tile l (s.modTile t fun x => { x with core := { x.core with flight := rest } }) t
  obtain ⟨ds, impr, vs, fcsr, hl⟩ :=
    landedAll_form l ((s.modTile t fun x => { x with core := { x.core with flight := rest } }).tile t)
  rw [h, hl]
  simp [Tile.sameUnits, Tile.withLanded]

/-- The VSCATTER writes that come before a store: none, or some results land. -/
theorem State.landScatters_cases (s : State) (t : Nat) :
    s.landScatters t = s ∨ ∃ l rest, s.landScatters t = s.landList t l rest := by
  unfold State.landScatters
  dsimp only
  split
  · exact .inr ⟨_, _, rfl⟩
  · exact .inl rfl

theorem State.landScatters_mem_wf {s : State} (t : Nat) (h : Memory.wf s.mem = true) :
    Memory.wf (s.landScatters t).mem = true := by
  rcases s.landScatters_cases t with hs | ⟨l, rest, hs⟩ <;> rw [hs]
  · exact h
  · exact State.landList_mem_wf t l rest h

theorem State.landScatters_other (s : State) {t r : Nat} (h : r ≠ t) : (s.landScatters t).tile r = s.tile r := by
  rcases s.landScatters_cases t with hs | ⟨l, rest, hs⟩ <;> rw [hs]
  exact State.landList_other h l rest

theorem State.landScatters_sameUnits (s : State) (t : Nat) : (s.tile t).sameUnits ((s.landScatters t).tile t) := by
  rcases s.landScatters_cases t with hs | ⟨l, rest, hs⟩ <;> rw [hs]
  · simp [Tile.sameUnits]
  · exact s.landList_sameUnits t l rest

theorem State.landScatters_of_noScatter {s : State} {t : Nat} (h : (s.tile t).noScatter = true) : s.landScatters t = s := by
  have hnone : ∀ f ∈ (s.tile t).core.flight, f.dest.toMemory = false := Tile.noScatter_iff.1 h
  unfold State.landScatters
  dsimp only
  rw [if_neg]
  rw [List.any_eq_true]
  rintro ⟨f, hf, hdue⟩
  have hm := hnone f hf
  cases hd : f.dest with
  | scatter ls => simp [hd, Landing.toMemory] at hm
  | _ => simp [hd] at hdue

end Sys2Proof.Machine
end

section
/-! PROOF. The local loads and stores (R33, R34). -/

namespace Sys2Proof.Machine

/-! ## The offset and its checks (R33, R70) -/

theorem localOff_eq (w : Word) (b : Byte) (k : Nat) : localOff w b (2 ^ k) = w + BitVec.ofInt 64 (b.toInt * 2 ^ k) := by
  simp [localOff, disp]

theorem localFault_range {off : Word} (h : 0x40000 ≤ off.toNat) (n : Nat) : localFault off n = some 0x07 := if_pos h

theorem localFault_misaligned {off : Word} {n : Nat} (h : off.toNat < 0x40000) (hn : off.toNat % n ≠ 0) :
    localFault off n = some 0x06 := by
  rw [localFault, if_neg (by omega), if_pos hn]

theorem localFault_none {off : Word} {n : Nat} (h : off.toNat < 0x40000) (hn : off.toNat % n = 0) :
    localFault off n = none := by
  rw [localFault, if_neg (by omega), if_neg (by omega)]

/-! ## Loads -/

theorem State.push_putFlags_eq (s : State) (t pops : Nat) (vals : List Word) (d : Nat) (flags : BitVec 7) (exc : Option Byte) :
    (s.push t pops vals d).putFlags t d flags exc = s.give t { pops, vals, d, flags, exc } := by
  rw [State.give_eq]
  unfold State.putFlags State.push Gives.given Gives.flights flagFlights
  split <;> simp [State.modTile, newFlights, newVFlights]

section
variable {s u : State} {t : TileNo} {c : Instr} {opc b : Byte} {k : Nat} {zext : Bool} {off : Word}

theorem loadOp_traps (hc : exec c s = .next (loadOp t opc b k zext s)) (hu : s.boundary t 1 = u)
    (hoff : localOff (u.arg t 0) b (2 ^ k) = off) {code : Byte} (hf : localFault off (2 ^ k) = some code) :
    s.traps t c { opc, opb := b, din := 1, dout := 1 } code off :=
  State.trapsAt_of_body hc (by simp only [hu, hoff, hf])

/-- A load that goes on: its value lands at distance 2, followed by LOCAL_DATA_ERROR where it met an uncorrectable word. -/
theorem loadOp_runs (hc : exec c s = .next (loadOp t opc b k zext s)) (hu : s.boundary t 1 = u)
    (hoff : localOff (u.arg t 0) b (2 ^ k) = off) (hf : localFault off (2 ^ k) = none)
    (hgo : (u.portBad t off.toNat (2 ^ k) && (u.tile t).precise) = false) :
    s.runs t c { opc, opb := b, din := 1, dout := 1 } (u.portMeet t off.toNat (2 ^ k))
      { pops := 1, vals := [extend k zext (leNat (u.portRead t off.toNat (2 ^ k)))], d := 2
        exc := if u.portBad t off.toNat (2 ^ k) then some 0x1C else none } :=
  State.runs_of_body hc (by
    simp only [hu, hoff, hf, State.portMeet_tile, hgo, Bool.false_eq_true, ↓reduceIte, State.push_putFlags_eq])

theorem loadOp_precise_traps (hc : exec c s = .next (loadOp t opc b k zext s)) (hu : s.boundary t 1 = u)
    (hoff : localOff (u.arg t 0) b (2 ^ k) = off) (hf : localFault off (2 ^ k) = none)
    (hbad : u.portBad t off.toNat (2 ^ k) = true) (hp : (u.tile t).precise = true) :
    s.trapsAt t c { opc, opb := b, din := 1, dout := 1 } (u.portMeet t off.toNat (2 ^ k)) 0x1C
      ((u.tile t).core.pc.setWidth 64) :=
  State.trapsAt_of_body hc (by simp only [hu, hoff, hf, State.portMeet_tile, hbad, hp, Bool.and_self, ↓reduceIte])

/-- The rule of a local load, for each opcode: `is` says what the value is of the bytes read (R33, R67, R70). -/
theorem loadOp_rule (hc : exec c s = .next (loadOp t opc b k zext s)) (hu : s.boundary t 1 = u)
    (hoff : localOff (u.arg t 0) b (2 ^ k) = off) (is : List Byte → Word → Prop)
    (hw : ∀ l : List Byte, l.length = 2 ^ k → is l (extend k zext (leNat l))) :
    let f : Form := { opc, opb := b, din := 1, dout := 1 }
    let v := u.portMeet t off.toNat (2 ^ k)
    (0x40000 ≤ off.toNat → s.traps t c f 0x07 off) ∧
    (off.toNat < 0x40000 → off.toNat % 2 ^ k ≠ 0 → s.traps t c f 0x06 off) ∧
    (off.toNat < 0x40000 → off.toNat % 2 ^ k = 0 →
      v.mem = u.mem ∧
      (u.portBad t off.toNat (2 ^ k) = false →
        ∃ w, is (u.portRead t off.toNat (2 ^ k)) w ∧ s.runs t c f v { pops := 1, vals := [w], d := 2 }) ∧
      (u.portBad t off.toNat (2 ^ k) = true → (u.tile t).precise = false →
        ∃ w, s.runs t c f v { pops := 1, vals := [w], d := 2, exc := some 0x1C }) ∧
      (u.portBad t off.toNat (2 ^ k) = true → (u.tile t).precise = true →
        s.trapsAt t c f v 0x1C ((u.tile t).core.pc.setWidth 64))) := by
  refine ⟨fun h => loadOp_traps hc hu hoff (localFault_range h _),
    fun h hn => loadOp_traps hc hu hoff (localFault_misaligned h hn), fun h hn => ?_⟩
  have hf := localFault_none h hn
  refine ⟨State.portMeet_mem .., fun hbad => ?_, fun hbad hp => ?_, loadOp_precise_traps hc hu hoff hf⟩
  · have hrun := loadOp_runs hc hu hoff hf (by rw [hbad, Bool.false_and])
    rw [hbad] at hrun
    exact ⟨_, hw _ (State.length_portRead ..), hrun⟩
  · have hrun := loadOp_runs hc hu hoff hf (by rw [hp, Bool.and_false])
    rw [hbad] at hrun
    exact ⟨_, hrun⟩

/-! ## Stores -/

theorem storeOp_traps (hc : exec c s = .next (storeOp t opc b k s)) (hu : s.boundary t 1 = u)
    (hoff : localOff (u.arg t 0) b (2 ^ k) = off) {code : Byte} (hf : localFault off (2 ^ k) = some code) :
    s.traps t c { opc, opb := b, din := 2 } code off :=
  State.trapsAt_of_body hc (by simp only [hu, hoff, hf])

/-- A store that goes on: its bytes are written after the VSCATTER writes that are due. -/
theorem storeOp_runs (hc : exec c s = .next (storeOp t opc b k s)) (hu : s.boundary t 1 = u)
    (hoff : localOff (u.arg t 0) b (2 ^ k) = off) (hf : localFault off (2 ^ k) = none) :
    s.runs t c { opc, opb := b, din := 2 }
      ((u.landScatters t).portWrite t off.toNat (natBytes (2 ^ k) (u.arg t 1).toNat)) { pops := 2 } :=
  State.runs_of_body hc (by simp only [hu, hoff, hf, State.push_give])

/-- The rule of a local store, for each opcode (R33, R34, R70, R175). -/
theorem storeOp_rule (hc : exec c s = .next (storeOp t opc b k s)) (hu : s.boundary t 1 = u)
    (hoff : localOff (u.arg t 0) b (2 ^ k) = off) :
    let f : Form := { opc, opb := b, din := 2 }
    (0x40000 ≤ off.toNat → s.traps t c f 0x07 off) ∧
    (off.toNat < 0x40000 → off.toNat % 2 ^ k ≠ 0 → s.traps t c f 0x06 off) ∧
    (off.toNat < 0x40000 → off.toNat % 2 ^ k = 0 →
      ∃ v, s.runs t c f v { pops := 2 } ∧
        (u.memOk → ∀ i < 2 ^ k, (v.byteAt (tileMemBase t + off.toNat + i)).toNat = (u.arg t 1).toNat / 2 ^ (8 * i) % 256) ∧
        (∀ r, r ≠ (t : Nat) → v.tile r = u.tile r) ∧ (u.tile t).sameUnits (v.tile t) ∧
        ((u.tile t).noScatter = true →
          (u.memOk → ∀ a, a < tileMemBase t + off.toNat ∨ tileMemBase t + off.toNat + 2 ^ k ≤ a → v.byteAt a = u.byteAt a) ∧
          (v.tile t).core = (u.tile t).core ∧ (v.tile t).ctl = (u.tile t).ctl ∧ (v.tile t).vec = (u.tile t).vec)) := by
  refine ⟨fun h => storeOp_traps hc hu hoff (localFault_range h _),
    fun h hn => storeOp_traps hc hu hoff (localFault_misaligned h hn),
    fun h hn => ⟨_, storeOp_runs hc hu hoff (localFault_none h hn), fun hm i hi => ?_, fun r hr => ?_, ?_, fun hns => ?_⟩⟩
  · rw [State.portWrite_byteAt_inside (State.landScatters_mem_wf t hm.1) _ _ (by simpa using hi), toNat_getElem_natBytes]
  · rw [State.portWrite_other hr, State.landScatters_other _ hr]
  · exact Tile.sameUnits_trans (State.landScatters_sameUnits ..) (State.portWrite_sameUnits ..)
  · rw [State.landScatters_of_noScatter hns]
    obtain ⟨m, htile⟩ := u.portWrite_tile t off.toNat (natBytes (2 ^ k) (u.arg t 1).toNat)
    rw [htile]
    exact ⟨fun hm a ha => State.portWrite_byteAt_outside hm.1 _ _ (by simpa using ha), rfl, rfl, rfl⟩

end

/-- Settles O5: `loadOp_rule` at each width and extension and `storeOp_rule` at each width are the rules of the opcodes; a read
finds the tile's memory where nothing waits in the merging buffer. -/
theorem localMemoryInstructions : Obligations.LocalMemoryInstructions := by
  refine ⟨fun t b s => ?_, fun t off n s h => State.portRead_of_mb_nil h off n, fun t b s => ?_⟩
  · intro u op
    have signed (c : TileNo → Byte → Instr) (opc : Byte) (k : Nat) (hk : k < 3)
        (hc : exec (c t b) s = .next (loadOp t opc b k false s)) :
        op c opc k fun l w => w.toInt = (BitVec.ofNat (8 * 2 ^ k) (leNat l)).toInt :=
      loadOp_rule hc rfl (localOff_eq ..) (fun l w => w.toInt = (BitVec.ofNat (8 * 2 ^ k) (leNat l)).toInt)
        fun l _ => extend_signed hk (leNat l)
    have unsigned (c : TileNo → Byte → Instr) (opc : Byte) (k : Nat) (hk : k < 4)
        (hc : exec (c t b) s = .next (loadOp t opc b k true s)) : op c opc k fun l w => w.toNat = leNat l :=
      loadOp_rule hc rfl (localOff_eq ..) (fun l w => w.toNat = leNat l) fun _ hl => extend_unsigned hk hl
    exact ⟨signed .ldb 0x50 0 (by decide) rfl, unsigned .ldbu 0x51 0 (by decide) rfl,
      signed .ldh 0x52 1 (by decide) rfl, unsigned .ldhu 0x53 1 (by decide) rfl,
      signed .ldw 0x54 2 (by decide) rfl, unsigned .ldwu 0x55 2 (by decide) rfl,
      unsigned .ldd 0x56 3 (by decide) rfl⟩
  · intro u op
    have store (c : TileNo → Byte → Instr) (opc : Byte) (k : Nat)
        (hc : exec (c t b) s = .next (storeOp t opc b k s)) : op c opc k :=
      storeOp_rule hc rfl (localOff_eq ..)
    exact ⟨store .stb 0x58 0 rfl, store .sth 0x59 1 rfl, store .stw 0x5A 2 rfl, store .std 0x5B 3 rfl⟩

end Sys2Proof.Machine
end

section
/-! PROOF. Operations at their home: what a read and a write of a clean word leave of the memory and of the requests on the
roads, and how an answer's value fills its load slot (R42, R43, R185, R205). -/

namespace Sys2Proof.Machine

/-! ## Words and their bytes -/

theorem leNat_natBytes (n v : Nat) : leNat (natBytes n v) = v % 2 ^ (8 * n) := by
  induction n generalizing v with
  | zero => simp [natBytes, leNat, Nat.mod_one]
  | succ n ih =>
    have hpow : 2 ^ (8 * (n + 1)) = 256 * 2 ^ (8 * n) := by rw [Nat.mul_succ, Nat.pow_add]; omega
    rw [natBytes, leNat, ih, hpow, Nat.mod_mul, BitVec.toNat_ofNat]

theorem ofNat_leNat_natBytes (v : Word) : BitVec.ofNat 64 (leNat (natBytes 8 v.toNat)) = v := by
  rw [leNat_natBytes, Nat.mod_eq_of_lt v.isLt, BitVec.ofNat_toNat, BitVec.setWidth_eq]

@[simp] theorem lineWord_setWidth (v : Word) : lineWord (v.setWidth 512) 0 = v := by
  ext i hi
  simp [lineWord, hi, show i < 512 by omega]

theorem State.wordAt_congr {s u : State} (h : s.mem = u.mem) (a : Nat) : s.wordAt a = u.wordAt a := by
  simp only [State.wordAt, State.valueAt, State.bytesAt, State.byteAt, h]

theorem State.byteAt_congr {s u : State} (h : s.mem = u.mem) (a : Nat) : s.byteAt a = u.byteAt a := by
  simp only [State.byteAt, h]

/-- The bytes of a range that a write has covered. -/
theorem State.bytesAt_of_mem_writeAll {s u : State} {a : Nat} {bs : List Byte} (hwf : Memory.wf s.mem = true)
    (h : u.mem = Memory.writeAll a bs s.mem) : u.bytesAt a bs.length = bs := by
  refine List.ext_getElem (by simp [State.bytesAt]) fun i _ hi => ?_
  simpa [State.bytesAt, State.byteAt, h] using Memory.read_writeAll_inside bs a i hwf hi

/-- A word reads as the value whose bytes have been written there (R3). -/
theorem State.wordAt_of_mem_writeAll {s u : State} {a : Nat} {v : Word} (hwf : Memory.wf s.mem = true)
    (h : u.mem = Memory.writeAll a (natBytes 8 v.toNat) s.mem) : u.wordAt a = v := by
  have hb := State.bytesAt_of_mem_writeAll hwf h
  rw [length_natBytes] at hb
  rw [State.wordAt, State.valueAt, hb, ofNat_leNat_natBytes]

/-! ## The numbers of the requests on the roads -/

/-- The numbers of the requests on the roads, in order. -/
def State.reqIds (s : State) : List Nat := s.reqs.map (·.id)

theorem State.reqIds_congr {s u : State} (h : s.reqs = u.reqs) : s.reqIds = u.reqIds := by
  rw [State.reqIds, h, State.reqIds]

theorem State.isSome_req?_iff (s : State) (id : Nat) : (s.req? id).isSome = true ↔ id ∈ s.reqIds := by
  simp [State.req?, State.reqIds]

@[simp] theorem State.sendPacket_reqs (s : State) (p : Packet) : (s.sendPacket p).reqs = s.reqs := by
  unfold State.sendPacket; split <;> rfl

@[simp] theorem State.fireWatch_reqIds (s : State) (w : Watch) : (s.fireWatch w).reqIds = s.reqIds := by
  unfold State.fireWatch; split
  · simp only [State.reqIds, List.map_map]
    refine List.map_congr_left fun r _ => ?_
    dsimp only [Function.comp]
    split <;> rfl
  · exact State.reqIds_congr (State.sendPacket_reqs ..)
  · rfl

@[simp] theorem State.store_reqIds (s : State) (a : Nat) (bs : List Byte) : (s.store a bs).reqIds = s.reqIds := by
  unfold State.store State.checkWatches; split
  · rfl
  · exact foldl_keeps State.reqIds State.fireWatch State.fireWatch_reqIds _ _

@[simp] theorem State.store_mem (s : State) (a : Nat) (bs : List Byte) : (s.store a bs).mem = Memory.writeAll a bs s.mem := by
  rw [State.store, State.checkWatches_mem, State.putBytes]

@[simp] theorem State.answerReq_mem (s : State) (id : Nat) (data : Line) (poison : Bool) :
    (s.answerReq id data poison).mem = s.mem := rfl

/-- A request on the roads is answered by `answerReq`, whatever its state was. -/
theorem State.answerReq_answered {s : State} {id : Nat} (h : id ∈ s.reqIds) (data : Line) :
    (s.answerReq id data false).answered id data := by
  obtain ⟨r, hr⟩ := Option.isSome_iff_exists.1 ((s.isSome_req?_iff id).2 h)
  have hid : r.id = id := by simpa using List.find?_some hr
  refine ⟨{ r with st := .done data false }, ?_, rfl⟩
  have hcomp : ((fun q : Req => decide (q.id = id)) ∘
      fun q : Req => if q.id = id then { q with st := .done data false } else q) = fun q => decide (q.id = id) := by
    funext q
    dsimp only [Function.comp]
    split <;> rfl
  simp only [State.req?, State.answerReq, State.modReq, List.find?_map, hcomp]
  rw [show s.reqs.find? (fun q => decide (q.id = id)) = some r from hr, Option.map_some, if_pos hid]

/-! ## Clean memory at its home (R183, R200, R397, R460) -/

/-- Ending self-refresh changes nothing but the refresh modes. -/
theorem State.leaveSelf_keeps (s : State) (a : Nat) :
    (s.leaveSelf a).mem = s.mem ∧ (s.leaveSelf a).reqIds = s.reqIds ∧ (s.leaveSelf a).marks = s.marks ∧
      (s.leaveSelf a).rekeyed = s.rekeyed := by
  unfold State.leaveSelf
  split
  · split <;> exact ⟨rfl, rfl, rfl, rfl⟩
  · split <;> exact ⟨rfl, rfl, rfl, rfl⟩
  · exact ⟨rfl, rfl, rfl, rfl⟩

@[simp] theorem State.leaveSelf_mem (s : State) (a : Nat) : (s.leaveSelf a).mem = s.mem := (s.leaveSelf_keeps a).1

@[simp] theorem State.leaveSelf_reqIds (s : State) (a : Nat) : (s.leaveSelf a).reqIds = s.reqIds := (s.leaveSelf_keeps a).2.1

theorem State.leaveSelf_clean {s : State} (h : s.clean) (a : Nat) : (s.leaveSelf a).clean := by
  obtain ⟨-, -, hmarks, hrekeyed⟩ := s.leaveSelf_keeps a
  exact ⟨hmarks.trans h.1, hrekeyed.trans h.2⟩

/-- What holding an operation's line in its unit's buffer keeps (R205). -/
theorem State.bufferLine_keeps (s : State) (a : Nat) (dirty : Bool) :
    (s.bufferLine a dirty).mem = s.mem ∧ (s.bufferLine a dirty).reqIds = s.reqIds ∧
      (s.bufferLine a dirty).marks = s.marks ∧ (s.bufferLine a dirty).rekeyed = s.rekeyed := by
  unfold State.bufferLine
  split <;> exact ⟨rfl, rfl, rfl, rfl⟩

theorem State.staleSerial_of_clean {s : State} (h : s.clean) (a : Nat) : s.staleSerial a = none := by
  simp [State.staleSerial, h.2]

theorem State.dramByte_of_clean {s : State} (h : s.clean) (a : Nat) : s.dramByte a = s.byteAt a := by
  rw [State.dramByte, State.staleSerial_of_clean h]

theorem State.dramBad_of_clean {s : State} (h : s.clean) (a : Nat) : s.dramBad a = false := by
  simp [State.dramBad, State.staleSerial_of_clean h, h.1, Tab.read]

theorem State.badWord_of_clean {s : State} (h : s.clean) (a : Nat) : s.badWord a = false := by
  simp [State.badWord, h.1, Tab.read]

theorem State.meetDram_of_clean {s : State} (h : s.clean) (a : Nat) (who : AgentId) : s.meetDram a who = s := by
  simp [State.meetDram, State.dramBad_of_clean h, h.1, Tab.has]

/-- A read that clean memory serves gives the bytes as they stand, and meets no error (R183, R200). -/
theorem State.readHome_of_clean {s : State} {w : Who} {a : Nat} (hc : s.clean) (hs : s.access w a = .serve) (n : Nat) :
    s.readHome w a n = (if a < 0x80000000000 then s.leaveSelf a else s, s.bytesAt a n, false) := by
  unfold State.readHome
  rw [hs]
  by_cases ha : a < 0x80000000000
  · have hmeet := List.foldl_fixed' (f := fun (u : State) l => u.meetDram l w.agent)
      (State.meetDram_of_clean (State.leaveSelf_clean hc a) · w.agent) (unitsOf 64 a n)
    simp [ha, State.dramBad_of_clean hc, State.dramByte_of_clean hc, State.bytesAt, hmeet]
  · simp [ha, State.badWord_of_clean hc, hc.1]

/-- What a write of less than a line to one line of clean memory leaves. -/
theorem State.storeDram_of_clean {s : State} (hc : s.clean) (a : Nat) {bs : List Byte} (hl : bs.length < 64) :
    s.storeDram a bs = (s.leaveSelf a).store a bs := by
  have hne : (bs.length == 64) = false := by simpa using Nat.ne_of_lt hl
  rw [State.storeDram, State.settleLine, State.staleSerial_of_clean (State.leaveSelf_clean hc a), hne]
  rfl

/-- An aligned word lies in one line. -/
theorem linePieces_word {a fuel : Nat} {bs : List Byte} (ha : a % 8 = 0) (hl : bs.length = 8) :
    linePieces (fuel + 2) a bs = [(a, bs)] := by
  have hk : 8 ≤ 64 - a % 64 := by omega
  have hne : bs ≠ [] := by rintro rfl; simp at hl
  have htake : bs.take (64 - a % 64) = bs := List.take_of_length_le (by omega)
  have hdrop : bs.drop (64 - a % 64) = [] := List.drop_of_length_le (by omega)
  simp [linePieces, hne, htake, hdrop]

theorem State.storeBytes_of_clean {s : State} (hc : s.clean) (who : AgentId) (a : Nat) (bs : List Byte) :
    s.storeBytes who a bs = s.store a bs := by
  simp [State.storeBytes, hc.1]

/-- A write of an aligned word of clean memory writes its bytes and keeps the numbers of the requests. -/
theorem State.storeMem_word_of_clean {s : State} (hc : s.clean) (w : Who) {a : Nat} (ha : a % 8 = 0) {bs : List Byte}
    (hl : bs.length = 8) :
    (s.storeMem w a bs).mem = Memory.writeAll a bs s.mem ∧ (s.storeMem w a bs).reqIds = s.reqIds := by
  unfold State.storeMem
  split
  · rw [hl, linePieces_word ha hl, List.foldl_cons, List.foldl_nil, State.storeDram_of_clean hc a (hl.trans_lt (by decide))]
    simp
  · rw [State.storeBytes_of_clean hc]
    simp

/-! ## The operation (R31, R185, R205) -/

/-- The state in which an operation's new value is written: its word has been read and its line stands in its unit's buffer. -/
def State.opened (s : State) (a : Nat) (dirty : Bool) : State :=
  (if a < 0x80000000000 then s.leaveSelf a else s).bufferLine a dirty

theorem State.opened_keeps (s : State) (a : Nat) (dirty : Bool) :
    (s.opened a dirty).mem = s.mem ∧ (s.opened a dirty).reqIds = s.reqIds ∧ (s.clean → (s.opened a dirty).clean) := by
  obtain ⟨hmem, hids, hmarks, hrekeyed⟩ :=
    (if a < 0x80000000000 then s.leaveSelf a else s).bufferLine_keeps a dirty
  unfold State.opened State.clean
  rw [hmem, hids, hmarks, hrekeyed]
  split
  · exact ⟨s.leaveSelf_mem a, s.leaveSelf_reqIds a, fun hc => State.leaveSelf_clean hc a⟩
  · exact ⟨rfl, rfl, id⟩

/-- An operation on a clean word that its home serves reads the word, and writes it where its value changes. -/
theorem State.operate_of_clean {s : State} {w : Who} {a : Nat} (hc : s.clean) (hs : s.access w a = .serve) (k : ReqKind) :
    s.operate w a k =
      let new := opResult k (s.wordAt a)
      let u := s.opened a (new ≠ s.wordAt a)
      (if new = s.wordAt a then u else u.storeMem w a (natBytes 8 new.toNat), s.wordAt a, false) := by
  unfold State.operate
  rw [State.readHome_of_clean hc hs]
  exact if_pos hs

/-- An operation on a clean aligned word: the word becomes what the operation's rule gives, no other byte changes, and every
request stays on the roads (R185). -/
theorem State.operate_spec {s : State} {w : Who} {a : Nat} (hc : s.clean) (hm : s.memOk) (hs : s.access w a = .serve)
    (ha : a % 8 = 0) (k : ReqKind) :
    ∃ u, s.operate w a k = (u, s.wordAt a, false) ∧ u.wordAt a = opResult k (s.wordAt a) ∧
      (∀ c, c < a ∨ a + 8 ≤ c → u.byteAt c = s.byteAt c) ∧ u.reqIds = s.reqIds := by
  rw [State.operate_of_clean hc hs]
  obtain ⟨hmem, hids, hclean⟩ := s.opened_keeps a (opResult k (s.wordAt a) ≠ s.wordAt a)
  refine ⟨_, rfl, ?_⟩
  split
  · next hsame => exact ⟨(State.wordAt_congr hmem a).trans hsame.symm, fun c _ => State.byteAt_congr hmem c, hids⟩
  · obtain ⟨hmem', hids'⟩ := State.storeMem_word_of_clean (hclean hc) w ha
      (length_natBytes 8 (opResult k (s.wordAt a)).toNat)
    rw [hmem] at hmem'
    refine ⟨State.wordAt_of_mem_writeAll hm.1 hmem', fun c hcut => ?_, hids'.trans hids⟩
    rw [State.byteAt, hmem', Memory.read_writeAll_outside _ _ hm.1 (by simpa using hcut), State.byteAt]

/-- The operations of memory with a result, and no other requests (R31, R43). -/
theorem ReqKind.isOp_iff (k : ReqKind) : k.isOp = true ↔
    (∃ x, k = .aadd x) ∨ (∃ x y, k = .acas x y ∨ k = .mcmp x y) ∨ ∃ x, k = .mcnt x := by
  cases k <;> simp [ReqKind.isOp]

/-- An operation whose request may be performed is applied to its word and answered (R185, R224). -/
theorem exec_operationAtHome {id : Nat} {r : Req} {s : State} (hh : s.homed id r (devAddr r.addr) 8)
    (hk : r.kind.isOp = true) :
    exec (.operationAtHome id) s = .next
      (let (u, old, bad) := s.operate r.who (devAddr r.addr) r.kind
       u.answerReq id (old.setWidth 512) bad) := by
  obtain ⟨hreq, hst, hmay, hstale, hlocal, hmemory, -⟩ := hh
  have hsent : r.sent = true := by simp [Req.sent, hst]
  change execOperationAtHome id s = _
  unfold execOperationAtHome
  rw [hreq]
  obtain ⟨x, hkind⟩ | ⟨x, y, hkind | hkind⟩ | ⟨x, hkind⟩ := r.kind.isOp_iff.1 hk
  all_goals simp [hkind, ReqKind.packet, hsent, hmay, hstale, hlocal, hmemory]

/-- An operation at its home leaves in its word what its rule gives, changes no other byte, and answers with the old value
(R185). -/
theorem operationAtHome_spec {id : Nat} {r : Req} {s : State}
    (hh : s.homed id r (devAddr r.addr) 8) (hc : s.clean) (hm : s.memOk) (ha : devAddr r.addr % 8 = 0)
    (hk : r.kind.isOp = true) :
    ∃ s', exec (.operationAtHome id) s = .next s' ∧ s'.answered id ((s.wordAt (devAddr r.addr)).setWidth 512) ∧
      s'.wordAt (devAddr r.addr) = opResult r.kind (s.wordAt (devAddr r.addr)) ∧
      ∀ c, c < devAddr r.addr ∨ devAddr r.addr + 8 ≤ c → s'.byteAt c = s.byteAt c := by
  have hexec := exec_operationAtHome hh hk
  obtain ⟨hreq, -, -, -, -, -, hserve⟩ := hh
  obtain ⟨u, hop, hword, hrest, hids⟩ := State.operate_spec hc hm (hserve 0 (by decide)) ha r.kind
  rw [Nat.add_zero] at hop
  rw [hop] at hexec
  have hid : id ∈ u.reqIds := by rw [hids, ← State.isSome_req?_iff, hreq]; rfl
  exact ⟨_, hexec, State.answerReq_answered hid _, hword, hrest⟩

/-- ACAS and MCMP put the new value where the word is the one compared, and else leave the word (R31, R185). -/
theorem opResult_swap {k : ReqKind} {new cmp : Word} (hk : k = .acas new cmp ∨ k = .mcmp new cmp) (w : Word) :
    opResult k w = if w = cmp then new else w := by
  obtain rfl | rfl := hk <;> rfl

/-- MCNT keeps the sum of its word and a signed number between 0 and all ones (R185). -/
theorem toNat_mcntSum (w x : Word) :
    ((mcntSum w x).toNat : Int) = max 0 (min (2 ^ 64 - 1) (w.toNat + x.toInt)) := by
  unfold mcntSum
  dsimp only
  split
  · simp; omega
  · split
    · simp; omega
    · rw [BitVec.toNat_ofInt]; omega

/-! ## The answer (R42, R43) -/

theorem State.wakeBlock_keeps (s : State) (k : Nat) : (s.wakeBlock k).tiles = s.tiles ∧ (s.wakeBlock k).mem = s.mem := by
  unfold State.wakeBlock
  split <;> exact ⟨rfl, rfl⟩

/-- Where the tile waits for nothing, a value that fills a load slot changes that slot, and in its core, its other slots and
the memory nothing (R42). -/
theorem State.fillSlot_spec {s : State} {t : Nat} (h : (s.tile t).waitsIn = none) (id : Nat) (v : Slot → Slot) :
    ((s.fillSlot t id v).tile t).core = (s.tile t).core ∧ (s.fillSlot t id v).mem = s.mem ∧
      ((s.fillSlot t id v).tile t).gmem.slots = (s.tile t).gmem.slots.map fun sl => if sl.id = id then v sl else sl := by
  unfold State.fillSlot
  dsimp only
  generalize hu : s.modTile t _ = u
  obtain ⟨htiles, hmem⟩ := u.wakeBlock_keeps (blockOf t)
  have htile := State.tile_congr htiles t
  have hwaits : ((u.wakeBlock (blockOf t)).tile t).waitsIn = none := by
    rw [htile, ← hu, State.modTile_tile_self]
    exact h
  rw [hwaits, htile, hmem, ← hu]
  simp

/-- The old value that an operation's request brings back fills the request's slot, and the request is over (R43). -/
theorem State.valueArrives_of_op {s : State} {r : Req} {slot : Nat} {old : Word} (hst : r.st = .done (old.setWidth 512) false)
    (hslot : r.slot = some slot) (hk : r.kind.isOp = true) :
    s.valueArrives r = (s.dropReq r.id).fillSlot r.tile slot fun sl => { sl with val := some old } := by
  unfold State.valueArrives
  rw [hst, hslot]
  obtain ⟨x, hkind⟩ | ⟨x, y, hkind | hkind⟩ | ⟨x, hkind⟩ := r.kind.isOp_iff.1 hk
  all_goals simp [hkind]

theorem exec_loadValueArrives {s : State} {t : TileNo} {n : Nat} {r : Req} (h : (s.values t)[n]? = some r) :
    exec (.loadValueArrives t n) s = .next (s.valueArrives r) := by
  change execLoadValueArrives t n s = _
  rw [execLoadValueArrives, h]

/-- Settles O18: at the home `operationAtHome_spec` holds for each kind, whose rule `opResult` gives; the answer fills its slot by
`valueArrives_of_op`. -/
theorem operationsAreAppliedAtTheirHome : Obligations.OperationsAreAppliedAtTheirHome := by
  intro id r s a w hh hc hm ha
  refine ⟨fun new hnew => ?_, fun t n slot old z hval htile hslot hwaits hkind => ?_⟩
  · have rule (hk : r.kind.isOp = true) (hres : new (opResult r.kind w)) :
        ∃ s', exec (.operationAtHome id) s = .next s' ∧ s'.answered id (w.setWidth 512) ∧ new (s'.wordAt a) ∧
          ∀ c, c < a ∨ a + 8 ≤ c → s'.byteAt c = s.byteAt c := by
      obtain ⟨s', hexec, hans, hword, hrest⟩ := operationAtHome_spec hh hc hm ha hk
      exact ⟨s', hexec, hans, hword ▸ hres, hrest⟩
    obtain ⟨x, hkind, hnew⟩ | ⟨x, cmp, hkind, hnew⟩ | ⟨x, hkind, hnew⟩ := hnew
    · refine rule (r.kind.isOp_iff.2 (.inl ⟨x, hkind⟩)) (hnew _ ?_)
      rw [hkind]
      exact BitVec.toNat_add w x
    · refine rule (r.kind.isOp_iff.2 (.inr (.inl ⟨x, cmp, hkind⟩))) ?_
      rw [opResult_swap hkind]
      exact hnew _ (fun h => if_pos h) fun h => if_neg h
    · refine rule (r.kind.isOp_iff.2 (.inr (.inr ⟨x, hkind⟩))) (hnew _ ?_)
      rw [hkind]
      exact toNat_mcntSum w x
  · have harrive := State.valueArrives_of_op (s := z) (r := { r with st := .done (old.setWidth 512) false }) rfl hslot
      (r.kind.isOp_iff.2 hkind)
    obtain ⟨hcore, hmem, hslots⟩ := (z.dropReq r.id).fillSlot_spec hwaits slot fun sl => { sl with val := some old }
    refine ⟨_, exec_loadValueArrives hval, ?_⟩
    rw [harrive, htile]
    exact ⟨hcore, hmem, hslots⟩

end Sys2Proof.Machine
end

section
/-! PROOF. Messages on their way: what a queue's answer leaves, what the answer does at its sender, and a reservation that lapses
(R269 to R272, R275, R276). -/

namespace Sys2Proof.Machine

/-! ## Queues of a tile -/

theorem State.modQueue_queue (s : State) (t : Nat) {k : Nat} (hk : k < 8) (f : RQueue → RQueue) :
    ((s.modQueue t k f).tile t).queue k = f ((s.tile t).queue k) := by
  simp [State.modQueue, Tile.queue, nth_set_self _ hk]

/-- From s to v queue k of tile u has become q', and the messages on their way, the memory, the other tiles and the core of tile u
stay. -/
def State.leavesQueue (s v : State) (u k : Nat) (q' : RQueue) : Prop :=
  v.attempts = s.attempts ∧ v.mem = s.mem ∧ (v.tile u).queue k = q' ∧ (∀ j, j ≠ u → v.tile j = s.tile j) ∧
    (v.tile u).core = (s.tile u).core

theorem State.modQueue_leavesQueue (s : State) (u : Nat) {k : Nat} (hk : k < 8) (f : RQueue → RQueue) :
    s.leavesQueue (s.modQueue u k f) u k (f ((s.tile u).queue k)) :=
  ⟨rfl, rfl, s.modQueue_queue u hk f, fun _ hj => s.modTile_tile_other hj _, by simp [State.modQueue]⟩

/-- What changes no tile, no memory and no message leaves a queue as it was left. -/
theorem State.leavesQueue.congr {s v w : State} {u k : Nat} {q : RQueue} (h : s.leavesQueue v u k q) (ht : w.tiles = v.tiles)
    (hm : w.mem = v.mem) (ha : w.attempts = v.attempts) : s.leavesQueue w u k q := by
  obtain ⟨hatt, hmem, hqueue, hother, hcore⟩ := h
  have htile := State.tile_congr ht
  exact ⟨ha.trans hatt, hm.trans hmem, by rw [htile, hqueue], fun j hj => (htile j).trans (hother j hj), by rw [htile, hcore]⟩

/-! ## The violation of a foreign message (R405 to R407) -/

theorem VioLog.add_noted (l : VioLog) (n size : Nat) (e : VioEntry) : (l.add n size e).noted l e.time := by
  unfold VioLog.add VioLog.noted
  split
  · exact .inl ⟨rfl, rfl⟩
  · next hroom =>
    have hsoon : l.soon e.time = true := by
      by_contra h
      exact hroom (by simp [VioLog.room, h])
    exact .inr ⟨hsoon, rfl, rfl, rfl⟩

/-- A partition's log with one entry more (R405, R406). -/
def State.logPart (s : State) (p : Nat) (e : VioEntry) : State := s.modHreg p fun h => { h with vlog := h.vlog.addPart p e }

/-- A violation of a partition enters its own log, perhaps another partition's, and the Square's, and changes nothing else
(R405). -/
theorem State.violation_form (s : State) {w : Who} {p : PartNo} (hp : w.part = some p) (owner : Option PartNo) (city : Nat)
    (write : Bool) (reason : Byte) :
    ∃ e u, e.time = s.time ∧ (u = s.logPart p.toNat e ∨ ∃ o, p.toNat ≠ o ∧ u = (s.logPart p.toNat e).logPart o e) ∧
      s.violation w owner city write reason = { u with sq := { u.sq with dlog := u.sq.dlog.addDevice e } } := by
  let e : VioEntry :=
    { time := s.time, addr := BitVec.ofNat 56 city, src := w.src, write, srcid := w.num, reason := if w.src = 5 then 8 else reason }
  refine ⟨e, ?_⟩
  unfold State.violation
  rw [hp]
  cases owner with
  | none => exact ⟨_, rfl, .inl rfl, rfl⟩
  | some o =>
    dsimp only
    split
    · exact ⟨_, rfl, .inl rfl, rfl⟩
    · next hne =>
      exact ⟨(s.logPart p.toNat e).logPart o.toNat e, rfl,
        .inr ⟨o.toNat, fun h => hne (congrArg some (BitVec.eq_of_toNat_eq h)), rfl⟩, rfl⟩

/-- A violation leaves the tiles, the memory and the messages on their way. -/
theorem State.violation_keeps (s : State) {w : Who} {p : PartNo} (hp : w.part = some p) (owner : Option PartNo) (city : Nat)
    (write : Bool) (reason : Byte) :
    let v := s.violation w owner city write reason
    v.tiles = s.tiles ∧ v.mem = s.mem ∧ v.attempts = s.attempts := by
  obtain ⟨e, u, -, rfl | ⟨o, -, rfl⟩, h⟩ := s.violation_form hp owner city write reason
  all_goals rw [h]; exact ⟨rfl, rfl, rfl⟩

/-- The Square's log and the requester's own note a violation (R405, R406). -/
theorem State.violation_noted (s : State) {w : Who} {p : PartNo} (hp : w.part = some p) (owner : Option PartNo) (city : Nat)
    (write : Bool) (reason : Byte) :
    let v := s.violation w owner city write reason
    v.sq.dlog.noted s.sq.dlog s.time ∧ (v.hreg p.toNat).vlog.noted (s.hreg p.toNat).vlog s.time := by
  obtain ⟨e, u, htime, hu, h⟩ := s.violation_form hp owner city write reason
  have hsq : u.sq = s.sq := by obtain rfl | ⟨o, -, rfl⟩ := hu <;> rfl
  have hlog : (u.hreg p.toNat).vlog = (s.hreg p.toNat).vlog.addPart p.toNat e := by
    obtain rfl | ⟨o, hne, rfl⟩ := hu
    · simp [State.logPart]
    · rw [State.logPart, State.modHreg_hreg_other _ hne, State.logPart, State.modHreg_hreg_self]
  dsimp only
  rw [h, ← htime]
  refine ⟨?_, ?_⟩
  · dsimp only
    rw [hsq]
    exact VioLog.add_noted ..
  · change VioLog.noted (u.hreg p.toNat).vlog _ _
    rw [hlog]
    exact VioLog.add_noted ..

/-! ## The answer of a queue (R269) -/

theorem epochOld_iff (e home : BitVec 32) : epochOld e home = true ↔ 1 ≤ (home - e).toNat ∧ (home - e).toNat ≤ 2 ^ 31 := by
  simp [epochOld]

theorem State.trace_keeps (s : State) (k kind tile data : Nat) :
    (s.trace k kind tile data).tiles = s.tiles ∧ (s.trace k kind tile data).mem = s.mem ∧
      (s.trace k kind tile data).attempts = s.attempts := by
  unfold State.trace
  split <;> exact ⟨rfl, rfl, rfl⟩

theorem State.wakeBlock_attempts (s : State) (k : Nat) : (s.wakeBlock k).attempts = s.attempts := by
  unfold State.wakeBlock
  split <;> rfl

theorem State.retryQueue_of_waitsIn_none {s : State} {t : Nat} (h : (s.tile t).waitsIn = none) : s.retryQueue t = s := by
  rw [State.retryQueue, h]

/-- The queue with an attempt's message stored last, and any reservation of its sender taken (R270, R272). -/
def RQueue.stored (q : RQueue) (a : Attempt) : RQueue :=
  RQueue.reserve { q with
    msgs := q.msgs ++ [{ len := a.len, src := a.tile, part := a.part, epoch := a.epoch, data := a.data }]
    waiters := q.waiters.filter fun x => x ≠ a.tile }

/-- Where the tile waits for nothing, storing a message changes its queue alone (R270). -/
theorem State.storeMessage_leavesQueue {s : State} {u k : Nat} (hk : k < 8) (h : (s.tile u).waitsIn = none) (a : Attempt) :
    s.leavesQueue (s.storeMessage a u k) u k (((s.tile u).queue k).stored a) := by
  unfold State.storeMessage
  dsimp only
  generalize hv : s.modQueue u k _ = v
  have hstored : s.leavesQueue v u k (((s.tile u).queue k).stored a) := hv ▸ s.modQueue_leavesQueue u hk _
  have hwaits : (v.tile u).waitsIn = none := by
    rw [← hv, State.modQueue, State.modTile_tile_self]
    exact h
  generalize hw : (if (v.tile u).parked = true then v.wakeBlock (blockOf u) else v) = w
  have hwoken : w.tiles = v.tiles ∧ w.mem = v.mem ∧ w.attempts = v.attempts := by
    rw [← hw]
    split
    · obtain ⟨ht, hm⟩ := v.wakeBlock_keeps (blockOf u)
      exact ⟨ht, hm, v.wakeBlock_attempts _⟩
    · exact ⟨rfl, rfl, rfl⟩
  obtain ⟨hwt, hwm, hwa⟩ := hwoken
  obtain ⟨htt, htm, hta⟩ := w.trace_keeps (blockOf u) 4 (tileIn u) (k + 8 * a.tile)
  have htiles := htt.trans hwt
  rw [State.retryQueue_of_waitsIn_none (by rw [State.tile_congr htiles]; exact hwaits)]
  exact hstored.congr htiles (htm.trans hwm) (hta.trans hwa)

/-- A message is foreign to its queue: the tile is another partition's, or retired (R269). -/
def State.foreign (s : State) (a : Attempt) : Prop :=
  (s.tile (a.qid / 8)).part ≠ a.part ∨ s.sq.fp.tiles.contains (a.qid / 8) = true

/-- The first rule of R269: a foreign message is discarded, and logged as a violation. -/
theorem State.answer_of_foreign {s : State} {a : Attempt} (h : s.foreign a) :
    ∃ w owner city, w.part = some a.part ∧ s.answer a = (s.violation w owner city true 5, .discarded) := by
  refine ⟨_, _, _, ?_, if_pos h⟩
  rfl

section
variable {s : State} {a : Attempt} (hown : ¬s.foreign a)
include hown

/-- The second rule: a closed queue discards and counts in DROPS (R269). -/
theorem State.answer_of_closed (hq : ((s.tile (a.qid / 8)).queue (a.qid % 8)).isOpen = false) :
    s.answer a = (s.modQueue (a.qid / 8) (a.qid % 8) fun q => { q with drops := satInc q.drops }, .discarded) := by
  refine (if_neg hown).trans ?_
  rw [hq]
  rfl

variable (hopen : ((s.tile (a.qid / 8)).queue (a.qid % 8)).isOpen = true)
include hopen

/-- The third rule: a message of an old epoch is discarded and counted in STALE (R269). -/
theorem State.answer_of_old (hold : epochOld a.epoch ((s.tile (a.qid / 8)).queue (a.qid % 8)).epoch = true) :
    s.answer a = (s.modQueue (a.qid / 8) (a.qid % 8) fun q => { q with stale := satInc q.stale }, .discarded) := by
  refine (if_neg hown).trans ?_
  rw [hopen, hold]
  rfl

variable (hnew : epochOld a.epoch ((s.tile (a.qid / 8)).queue (a.qid % 8)).epoch = false)
include hnew

/-- The other rules: a queue with no free slot for the sender refuses it and records it as a waiter, and one with a free slot stores
the message (R269, R272). -/
theorem State.answer_of_fresh :
    s.answer a =
      if 16 ≤ ((s.tile (a.qid / 8)).queue (a.qid % 8)).msgs.length ∨
          ((s.tile (a.qid / 8)).queue (a.qid % 8)).reservedFrom a.tile = true then
        (s.modQueue (a.qid / 8) (a.qid % 8) (·.record a.tile), .refused)
      else (s.storeMessage a (a.qid / 8) (a.qid % 8), .delivered) := by
  refine (if_neg hown).trans ?_
  rw [hopen, hnew]
  rfl

end

/-! ## A message at its queue -/

/-- An attempt that is changed under its number reads as changed. -/
theorem State.attempt?_modAttempt {s v : State} {id : Nat} {a : Attempt} (h : s.attempt? id = some a)
    (hv : v.attempts = s.attempts) {f : Attempt → Attempt} (hf : ∀ b, (f b).id = b.id) :
    (v.modAttempt id f).attempt? id = some (f a) := by
  have hid : a.id = id := by simpa using List.find?_some h
  have hcomp : ((fun b : Attempt => decide (b.id = id)) ∘ fun b => if b.id = id then f b else b) =
      fun b => decide (b.id = id) := by
    funext b
    dsimp only [Function.comp]
    split <;> simp [hf]
  rw [State.attempt?] at h
  simp only [State.attempt?, State.modAttempt, List.find?_map, hcomp, hv, h, Option.map_some, if_pos hid]

theorem exec_messageArrives {id : Nat} {a : Attempt} {s : State} (hatt : s.attempt? id = some a) (hmay : s.maySend a = true) :
    exec (.messageArrives id) s =
      .next ((s.answer a).1.modAttempt id fun b => { b with st := .flying (s.answer a).2 }) := by
  change execMessageArrives id s = _
  rw [execMessageArrives, hatt]
  dsimp only
  rw [if_pos hmay]

/-- A message that arrives takes its queue's answer with it, and leaves what the queue's answer leaves. -/
theorem messageArrives_of_answer {id : Nat} {a : Attempt} {s v : State} {r : QAnswer} {u k : Nat} {q' : RQueue}
    (hatt : s.attempt? id = some a) (hmay : s.maySend a = true) (hans : s.answer a = (v, r)) (hleft : s.leavesQueue v u k q') :
    ∃ s', exec (.messageArrives id) s = .next s' ∧ s'.attempt? id = some { a with st := .flying r } ∧ s'.mem = s.mem ∧
      (s'.tile u).queue k = q' ∧ (∀ j, j ≠ u → s'.tile j = s.tile j) ∧ (s'.tile u).core = (s.tile u).core := by
  obtain ⟨hattempts, hmem, hqueue, hother, hcore⟩ := hleft
  refine ⟨_, exec_messageArrives hatt hmay, ?_⟩
  rw [hans]
  exact ⟨State.attempt?_modAttempt hatt hattempts fun _ => rfl, hmem, hqueue, hother, hcore⟩

/-! ## The answer at the sender (R271, R275, R276) -/

/-- The counters of a sender's tile with one answer more (R469). -/
def State.countAnswer (s : State) (t : Nat) (r : QAnswer) : State :=
  match r with
  | .delivered => s.count t 10 1
  | .refused => s.count t 11 1
  | .discarded => s

theorem State.countAnswer_form (s : State) (t : Nat) (r : QAnswer) :
    ∃ p, s.countAnswer t r = s ∨ s.countAnswer t r = s.setTile t { s.tile t with pcnt := p } := by
  cases r with
  | delivered => exact (s.count_form t 10 1).imp fun _ h => h.imp And.left id
  | refused => exact (s.count_form t 11 1).imp fun _ h => h.imp And.left id
  | discarded => exact ⟨(s.tile t).pcnt, .inl rfl⟩

/-- Counting an answer changes counters alone. -/
theorem State.countAnswer_keeps (s : State) (t : Nat) (r : QAnswer) :
    let v := s.countAnswer t r
    v.attempts = s.attempts ∧ v.mem = s.mem ∧ (v.tile t).core = (s.tile t).core ∧ (v.tile t).gmem = (s.tile t).gmem ∧
      (v.tile t).waitsIn = (s.tile t).waitsIn := by
  obtain ⟨p, h | h⟩ := s.countAnswer_form t r
  · simp [h]
  · simp [h, Tile.waitsIn, Tile.alive]

/-- What the answer of a send that is over does at its sender: its flag comes to its load slot, or it completes a waiting SEND. -/
def State.endSend (s : State) (a : Attempt) (r : QAnswer) : State :=
  match a.slot with
  | some n => s.deliver a.tile n (ofBool64 (r == .delivered))
  | none =>
    match (s.tile a.tile).waitsIn with
    | some (opc, opb) =>
      if opc = 0xE0 then (Res.ok (s.push a.tile 3 [] 0) .seq).conclude a.tile (heldForm opc opb) else s
    | none => s

theorem exec_messageAnswerArrives {id : Nat} {a : Attempt} {s : State} {r : QAnswer} (hatt : s.attempt? id = some a)
    (hst : a.st = .flying r) :
    exec (.messageAnswerArrives id) s = .next
      (if r == .refused && a.opc ≠ 0xE1 then
        (s.countAnswer a.tile r).modAttempt id fun b => { b with st := .refused, acked := true }
      else ((s.countAnswer a.tile r).dropAttempt id).endSend a r) := by
  change execMessageAnswerArrives id s = _
  rw [execMessageAnswerArrives, hatt]
  dsimp only
  rw [hst]
  rfl

/-- A refused SEND or SENDC is left to be sent again (R271). -/
theorem messageAnswerArrives_of_refused {id : Nat} {a : Attempt} {s : State} (hatt : s.attempt? id = some a)
    (hst : a.st = .flying .refused) (hopc : a.opc ≠ 0xE1) :
    ∃ s', exec (.messageAnswerArrives id) s = .next s' ∧ s'.attempt? id = some { a with st := .refused, acked := true } ∧
      s'.mem = s.mem ∧ (s'.tile a.tile).core = (s.tile a.tile).core := by
  obtain ⟨hattempts, hmem, hcore, -, -⟩ := s.countAnswer_keeps a.tile .refused
  refine ⟨_, exec_messageAnswerArrives hatt hst, ?_⟩
  rw [if_pos (by simpa using hopc)]
  exact ⟨State.attempt?_modAttempt hatt hattempts fun _ => rfl, hmem, hcore⟩

/-- An answer that ends its send: the attempt is over (R275, R276). -/
theorem exec_messageAnswerArrives_of_over {id : Nat} {a : Attempt} {s : State} {r : QAnswer} (hatt : s.attempt? id = some a)
    (hst : a.st = .flying r) (hover : r ≠ .refused ∨ a.opc = 0xE1) :
    exec (.messageAnswerArrives id) s = .next (((s.countAnswer a.tile r).dropAttempt id).endSend a r) := by
  have hends : (r == .refused && decide (a.opc ≠ 0xE1)) = false := by
    obtain h | h := hover <;> simp [h]
  rw [exec_messageAnswerArrives hatt hst, hends]
  rfl

theorem State.fillSlot_attempts {s : State} {t : Nat} (h : (s.tile t).waitsIn = none) (id : Nat) (v : Slot → Slot) :
    (s.fillSlot t id v).attempts = s.attempts := by
  unfold State.fillSlot
  dsimp only
  generalize hu : s.modTile t _ = u
  have hwaits : ((u.wakeBlock (blockOf t)).tile t).waitsIn = none := by
    rw [State.tile_congr (u.wakeBlock_keeps _).1, ← hu, State.modTile_tile_self]
    exact h
  rw [hwaits, ← hu]
  exact State.wakeBlock_attempts ..

theorem ofBool64_beq_delivered (r : QAnswer) : ofBool64 (r == .delivered) = if r = .delivered then 1 else 0 := by
  cases r <;> rfl

/-- An answer that ends a SENDT or SENDC brings its flag to the load slot (R276). -/
theorem messageAnswerArrives_of_slot {id n : Nat} {a : Attempt} {s : State} {r : QAnswer} (hatt : s.attempt? id = some a)
    (hst : a.st = .flying r) (hover : r ≠ .refused ∨ a.opc = 0xE1) (hslot : a.slot = some n)
    (hwaits : (s.tile a.tile).waitsIn = none) :
    ∃ s', exec (.messageAnswerArrives id) s = .next s' ∧ s'.attempts = s.attempts.filter (fun x => x.id ≠ id) ∧
      (s'.tile a.tile).core = (s.tile a.tile).core ∧
      (s'.tile a.tile).gmem.slots = (s.tile a.tile).gmem.slots.map fun (sl : Slot) =>
        if sl.id = n then { sl with val := some (if r = .delivered then 1 else 0) } else sl := by
  obtain ⟨hattempts, -, hcore, hgmem, hwaits'⟩ := s.countAnswer_keeps a.tile r
  refine ⟨_, exec_messageAnswerArrives_of_over hatt hst hover, ?_⟩
  rw [State.endSend, hslot]
  dsimp only
  rw [State.deliver, ofBool64_beq_delivered]
  generalize s.countAnswer a.tile r = v at *
  have hnone : ((v.dropAttempt id).tile a.tile).waitsIn = none := hwaits'.trans hwaits
  obtain ⟨hcore', -, hslots⟩ := State.fillSlot_spec hnone n fun sl => { sl with val := some (if r = .delivered then 1 else 0) }
  refine ⟨?_, hcore'.trans hcore, ?_⟩
  · rw [State.fillSlot_attempts hnone, State.dropAttempt, hattempts]
  · rw [hslots, ← hgmem]
    rfl

/-- An answer that ends a SEND completes it: the tile goes on after it, its three operands popped (R275). -/
theorem messageAnswerArrives_of_waiting {id : Nat} {a : Attempt} {s : State} {r : QAnswer} {x : Byte}
    (hatt : s.attempt? id = some a) (hst : a.st = .flying r) (hover : r ≠ .refused ∨ a.opc = 0xE1) (hslot : a.slot = none)
    (hwaits : (s.tile a.tile).waitsIn = some (0xE0, x)) :
    ∃ v s', exec (.messageAnswerArrives id) s = .next s' ∧ Ran v s' a.tile (heldForm 0xE0 x) .seq { pops := 3 } ∧
      v.attempts = s.attempts.filter (fun y => y.id ≠ id) ∧ (v.tile a.tile).core = (s.tile a.tile).core := by
  obtain ⟨hattempts, -, hcore, -, hwaits'⟩ := s.countAnswer_keeps a.tile r
  have hsome : (((s.countAnswer a.tile r).dropAttempt id).tile a.tile).waitsIn = some (0xE0, x) := hwaits'.trans hwaits
  refine ⟨(s.countAnswer a.tile r).dropAttempt id, _, exec_messageAnswerArrives_of_over hatt hst hover, ?_, ?_, hcore⟩
  · rw [State.endSend, hslot]
    dsimp only
    rw [hsome]
    dsimp only
    rw [if_pos rfl, State.push_give, Res.conclude]
    exact State.ran ..
  · rw [State.dropAttempt, hattempts]

/-! ## Sending again, and a reservation that lapses (R271, R272) -/

theorem exec_sendResend {id : Nat} {a : Attempt} {s : State} (hatt : s.attempt? id = some a) (hst : a.st = .refused) :
    exec (.sendResend id) s = .next (s.modAttempt id fun b => { b with st := .waiting }) := by
  change execSendResend id s = _
  rw [execSendResend, hatt]
  exact congrArg _ (if_pos hst)

theorem exec_reservationLapse {t : TileNo} {n : Fin 8} {s : State} (h : ((s.tile t).queue n).resv = true) :
    exec (.reservationLapse t n) s =
      .next (s.modQueue t n fun q => RQueue.reserve { q with waiters := q.waiters.tail }) := by
  change execReservationLapse t n s = _
  rw [execReservationLapse, if_pos h]

/-- Settles O33: each rule of R269 is one branch of `State.answer`, by `messageArrives_of_answer`; the answer at the sender is
`messageAnswerArrives_of_refused`, `_of_slot` and `_of_waiting`. -/
theorem messagesReachTheirQueues : Obligations.MessagesReachTheirQueues := by
  intro id a s u k q old foreign full arrives hatt
  have hk : k < 8 := Nat.mod_lt _ (by decide)
  refine ⟨fun hmay => ⟨fun hforeign => ?_, fun hown hclosed => ?_, fun hown hopen hold => ?_, fun hown hopen hnew hfull => ?_,
    fun hown hopen hnew hroom hwaits => ?_⟩, fun answer hst => ⟨fun hr hopc => ?_, fun hover => ⟨fun n hslot hwaits =>
    messageAnswerArrives_of_slot hatt hst hover hslot hwaits, fun x hslot hwaits =>
    messageAnswerArrives_of_waiting hatt hst hover hslot hwaits⟩⟩, fun hst => ?_, fun t n hresv => ?_⟩
  · obtain ⟨w, owner, city, hpart, hans⟩ := State.answer_of_foreign hforeign
    obtain ⟨htiles, hmem, hattempts⟩ := s.violation_keeps hpart owner city true 5
    refine ⟨messageArrives_of_answer hatt hmay hans
      (State.leavesQueue.congr (v := s) ⟨rfl, rfl, rfl, fun _ _ => rfl, rfl⟩ htiles hmem hattempts),
      _, exec_messageArrives hatt hmay, ?_⟩
    rw [hans]
    exact s.violation_noted hpart owner city true 5
  · exact messageArrives_of_answer hatt hmay (State.answer_of_closed hown hclosed) (s.modQueue_leavesQueue u hk _)
  · exact messageArrives_of_answer hatt hmay (State.answer_of_old hown hopen ((epochOld_iff _ _).2 hold))
      (s.modQueue_leavesQueue u hk _)
  · have hans := State.answer_of_fresh hown hopen (Bool.eq_false_iff.2 fun h => hnew ((epochOld_iff _ _).1 h))
    rw [if_pos hfull] at hans
    exact messageArrives_of_answer hatt hmay hans (s.modQueue_leavesQueue u hk _)
  · have hans := State.answer_of_fresh hown hopen (Bool.eq_false_iff.2 fun h => hnew ((epochOld_iff _ _).1 h))
    rw [if_neg hroom] at hans
    exact messageArrives_of_answer hatt hmay hans (State.storeMessage_leavesQueue hk hwaits a)
  · exact messageAnswerArrives_of_refused hatt (hr ▸ hst) hopc
  · exact ⟨_, exec_sendResend hatt hst, State.attempt?_modAttempt hatt rfl fun _ => rfl, rfl, rfl⟩
  · obtain ⟨-, hmem, hqueue, hother, hcore⟩ := s.modQueue_leavesQueue t n.isLt fun q =>
      RQueue.reserve { q with waiters := q.waiters.tail }
    exact ⟨_, exec_reservationLapse hresv, hqueue, hcore, hmem, fun j hj => hother j (Fin.val_ne_of_ne hj)⟩

end Sys2Proof.Machine
end

section
/-! PROOF. Permits: which pairs of activities the table of R437 names, and what blocks a request (R435 to R437). -/

namespace Sys2Proof.Machine

/-! ## The table of conflicts (R437) -/

theorem meetQuarter_iff (u v : SpotUnit) : meetQuarter u v = true ↔ ∃ q, q ∈ unitQuarters u ∧ q ∈ unitQuarters v := by
  simp only [meetQuarter, List.any_eq_true, List.contains_iff_mem]

/-- The unit u is a row of the HBM4 stack v. -/
def rowOfStack (u v : SpotUnit) : Prop := u.kind = 9 ∧ u.unit / 64 = v.unit

/-- The pairs of the table of R437, each in one order. -/
def tableRow (x y : Permit) : Prop :=
  (x.act = .spotM ∧ (y.act = .sweep ∨ y.act = .patrol) ∧ x.unit = y.unit) ∨
  ((x.act = .patrol ∨ x.act = .spotM) ∧ y.act = .hbmcal ∧ rowOfStack x.unit y.unit) ∨
  (x.act = .spotM ∧ y.act = .retrain ∧ (y.unit.kind = 21 ∧ rowOfStack x.unit y.unit ∨
    x.unit.kind = 10 ∧ y.unit.kind = 22 ∧ x.unit.unit = y.unit.unit)) ∨
  (x.act = .spotL ∧ y.act = .retrain ∧ x.unit = y.unit) ∨
  ((x.act = .spotM ∨ x.act = .spotL ∨ x.act = .spotT) ∧ y.act = .clock ∧
    ∃ q, q ∈ unitQuarters x.unit ∧ q ∈ unitQuarters y.unit) ∨
  (x.act = .hbmcal ∧ y.act = .retrain ∧ y.unit.kind = 21 ∧ x.unit.unit = y.unit.unit) ∨
  (x.act = .hbmcal ∧ y.act = .clock ∧ x.unit.unit = y.unit.unit) ∨
  (x.act = .retrain ∧ y.act = .clock ∧ (x.unit.kind = 21 ∨ x.unit.kind = 8) ∧
    ∃ q, q ∈ unitQuarters x.unit ∧ q ∈ unitQuarters y.unit) ∨
  (x.act = .measure ∧ y.act = .flashw ∧ x.unit = y.unit)

/-- What `conflictOne` names is a row of the table, of which it writes SWEEP and PATROL with SPOT-M the other way round. -/
theorem tableRow_of_conflictOne {a b : Permit} (h : conflictOne a b = true) : tableRow a b ∨ tableRow b a := by
  unfold conflictOne at h
  split at h
  case h_1 ha hb | h_2 ha hb =>
    have hu : b.unit = a.unit := (beq_iff_eq.1 h).symm
    right
    simp [tableRow, ha, hb, hu]
  case h_14 => contradiction
  all_goals
    rename_i ha hb
    left
    simpa [tableRow, ha, hb, rowOfStack, meetQuarter_iff, and_assoc, and_left_comm] using h

theorem conflictOne_of_tableRow {a b : Permit} (h : tableRow a b) : conflictOne a b = true ∨ conflictOne b a = true := by
  rcases h with ⟨ha, hb | hb, hu⟩ | ⟨ha | ha, hb, hu⟩ | ⟨ha, hb, hu⟩ | ⟨ha, hb, hu⟩ | ⟨ha | ha | ha, hb, hu⟩ |
    ⟨ha, hb, hu⟩ | ⟨ha, hb, hu⟩ | ⟨ha, hb, hu⟩ | ⟨ha, hb, hu⟩
  case inl.inl | inl.inr =>
    right
    simp [conflictOne, ha, hb, hu]
  all_goals
    left
    simpa [conflictOne, ha, hb, rowOfStack, meetQuarter_iff, and_assoc, and_left_comm] using hu

/-- Two permits conflict when they are one, or when a row of the table names them in either order (R436, R437). -/
theorem conflict_iff (a b : Permit) : conflict a b = true ↔ a = b ∨ tableRow a b ∨ tableRow b a := by
  rw [conflict, Bool.or_eq_true, Bool.or_eq_true, beq_iff_eq, or_assoc]
  refine or_congr_right ⟨fun h => ?_, fun h => ?_⟩
  · exact h.elim tableRow_of_conflictOne fun hba => (tableRow_of_conflictOne hba).symm
  · exact h.elim conflictOne_of_tableRow fun hba => (conflictOne_of_tableRow hba).symm

/-! ## Requests (R435) -/

theorem State.mem_allHeld (s : State) (h : Permit) :
    h ∈ s.allHeld ↔ h ∈ s.sq.permits.held ∨ ∃ e ∈ s.quarters, h ∈ e.2.permits.held := by
  rw [State.allHeld, List.mem_append, List.mem_flatMap]

theorem State.permitBlocked_iff (s : State) (p : Permit) :
    s.permitBlocked p = true ↔ ∃ h ∈ s.allHeld, conflict p h = true := List.any_eq_true

/-- Settles O51: a conflict is equality or a row of the table, by `conflict_iff`, and a request meets every permit held on the
device, by `State.permitBlocked_iff`. -/
theorem permitsConflictAsTheTableSays : Obligations.PermitsConflictAsTheTableSays := by
  intro a b s
  refine ⟨conflict_iff a b, ?_⟩
  simp only [State.permitBlocked_iff, State.mem_allHeld]

end Sys2Proof.Machine
end
